-- ==== Sys2Proof/Word.lean ====
section
/-! DEFINITION. The word types of the VX128 and their plainest arithmetic. -/

namespace Sys2Proof

abbrev Byte := BitVec 8
abbrev Half := BitVec 16
abbrev Word := BitVec 32
abbrev DWord := BitVec 64
/-- A stored word of device memory: data, check bits, parity and poison (R61). -/
abbrev Codeword := BitVec 80
/-- A command of a ring: 64 bytes (R26). -/
abbrev CmdWord := BitVec 512
/-- A flit of a Hiesk link: 256 bytes, byte 0 in bits [7:0] (R224). -/
abbrev FlitWord := BitVec 2048
/-- A tag header (R41). -/
abbrev TagHeader := BitVec 128

end Sys2Proof
end

