-- ==== Sys2Proof/Syntax.lean ====
section
/-! DEFINITION. The commands of the block: one constructor per row of the opcode table. -/

namespace Sys2Proof

/-- What executes a core instruction: a logical core, or a physical update unit (R183). -/
inductive Exu where
  | core (c : Nat)
  | upd (n : Nat)
  deriving DecidableEq, Repr

/-- A 64-bit word as it travels: its data and its poison flag (R326). -/
structure PWord where
  data : DWord
  poison : Bool
  deriving DecidableEq, Repr

/-- A packet of the NoC or of a link: the tag header and the data words (R41). -/
structure Packet where
  th : TagHeader
  data : List Byte
  deriving DecidableEq, Repr

/-- Energy modelled for one dispatched command, in µJ (R267). -/
structure CmdEnergy where
  q : Nat
  tag : Nat
  energy : Nat
  deriving DecidableEq, Repr

/-- One sensor reading, in 0.125 °C units, by THM_SENSOR index (R271). -/
structure Reading where
  index : Nat
  temp : Int
  deriving DecidableEq, Repr

/-- One millisecond of an interval: its input-power average, W, and the inlet, in 0.125 °C units (R281). -/
structure PowerMs where
  pwr : Nat
  inlet : Int
  deriving DecidableEq, Repr

/-- A 64-byte line of a physical bank (R72). -/
structure LineRef where
  player : Nat
  pcol : Nat
  bank : Nat
  line : Nat
  deriving DecidableEq, Repr

/-- A unit by kind, index and sub-unit, as *Table: Unit kinds* numbers them (R296). -/
structure UnitRef where
  kind : Nat
  index : Nat
  sub : Nat
  deriving DecidableEq, Repr

/-- What coupler training found at one crossing of a vertical channel (0 to 1223) or a trunk channel (1224 to
1307): the coils of one direction that need a spare (R10). -/
structure CoilFault where
  chan : Nat
  boundary : Nat
  down : Bool
  coils : Nat
  deriving DecidableEq, Repr

/-- What training found on one link: lanes that trained, the partner, the partner's link, and
whether the partner offers a supported option (R224, R293). -/
structure LinkTrain where
  link : Nat
  lanes : BitVec 4
  peer : Option (Nat × Nat)
  supported : Bool
  deriving DecidableEq, Repr

/-- A flit as the FEC decoder hands it over: symbols corrected codewords, and whether it lies in an
uncorrectable one (R226). -/
structure Coded where
  flit : BitVec 2048
  corr : Nat
  fecBad : Bool
  deriving DecidableEq, Repr

/-- The outcome of a training: lanes that trained, and whether the partner offers a supported option (R224). -/
structure Trained where
  lanes : BitVec 4
  supported : Bool
  deriving DecidableEq, Repr

/-- What memory training found beside failed layers: lines that fail, and layers whose saved settings failed
so that they were trained in full (R72, R291). -/
structure DramFaults where
  lines : List LineRef
  retrained : List Nat
  deriving DecidableEq, Repr

/-- The drones other than refresh (R320, *Table: Drones*). -/
inductive Drone where
  | scrub | coupler | linkEq | sensorOffset | regulator | wear | telemetry
  deriving DecidableEq, Repr

/-- The peg sequences (R10, *Table: Drones*). -/
inductive Peg where
  | coupler | link | sensor | regulator
  deriving DecidableEq, Repr

/-- The units that a stop token reaches (R339). -/
inductive StopUnit where
  | frontEnd (e : Nat)
  | core (c : Nat)
  deriving DecidableEq, Repr

/-- The read of host memory that failed (R346). -/
inductive HostRead where
  | ring (q : Nat)
  | copy (q tag : Nat)
  deriving DecidableEq, Repr


/-- A fault of the array in one instruction: a compute cell gets output (row, col) wrong by err × 2^exp, or a
checksum cell gets the check value of an output row or column wrong by as much (R152). -/
inductive ArrFault where
  | cell (row col : Nat) (err exp : Int)
  | rowCheck (row : Nat) (err exp : Int)
  | colCheck (col : Nat) (err exp : Int)
  deriving DecidableEq, Repr

/-- What the ECC of a router buffer finds in the packet it gives out (R212, R326). -/
inductive BufEcc where
  | clean | corrected | uncorrectable
  deriving DecidableEq, Repr


/-- The commands: one constructor per row of the opcode table, in its order. -/
inductive Instr where
  /-- TRACE_RECORD_WRITE (R335). The trace writer drains staged records to the region by MODE, writing GAP records and reaching DONE. -/
  | traceRecordWrite
  /-- HOST_READ_TIMEOUT (R346). A host read with an error completion or none within 50 ms returns poisoned data. -/
  | hostReadTimeout (r : HostRead)
  /-- UPDATE_UNIT_CHECK_FAIL (R328). An update unit that fails its internal check in service is fenced, its blocks report ST_FENCED and FENCED is raised. -/
  | updateUnitCheckFail (u : Nat)
  /-- REGISTER_WRITE (R4). A host or management write to a register field with no row of its own acts as the field's access code states, with out-of-range values handled by the owning block's rule. -/
  | registerWrite (fn : Nat) (bar2 : Bool) (off : Nat) (size : Nat) (val : BitVec 64)
  /-- THRU_SLICE (R12). A through-slice supply falling below its threshold in service raises a fatal EV_PWR and enters HALTED. -/
  | thruSlice (player : Nat) (mv : Nat)
  /-- COUPLER_FAIL (R10). An in-service crossing that needs a fifth spare coil leaves its channel failed, fencing the owning core or removing a trunk pool channel. -/
  | couplerFail (chan : Nat) (boundary : Nat) (down : Bool)
  /-- COOLANT_REVERSED (R15). Outlet reading more than 2 °C below inlet for over 1 s with flow above 20 % raises an EV_THM reversed-coolant event. -/
  | coolantReversed (inlet : Int) (outlet : Int) (flow : Nat) (durMs : Nat)
  /-- INPUT_VOLTAGE_STOP (R17). An under-voltage or over-voltage stop removes 12 V and the module behaves as at power removal. -/
  | inputVoltageStop (vin : Nat)
  /-- INPUT_VOLTAGE_RESTART (R17). The bus converter restarts when the input returns within its start or restart threshold. -/
  | inputVoltageRestart (vin : Nat)
  /-- SQ_DB (R24). A command-ring doorbell write is accepted if its producer value passes the test, otherwise rejected with DB_ERR and EV_QUE. -/
  | sqDb (fn : Nat) (n : Nat) (v : BitVec 32)
  /-- CQ_DB (R24). A completion-ring doorbell write returns entries if the consumer value passes the test, otherwise is rejected with DB_ERR and EV_QUE. -/
  | cqDb (fn : Nat) (n : Nat) (v : BitVec 32)
  /-- COMMAND_FETCH (R25). The VX128 fetches one published 64-byte command from a ring and assigns it the next sequence number. -/
  | commandFetch (q : Nat)
  /-- FRONT_END_REJECT (R27). A head command with a tag mismatch, reserved bit, wrong engine or bad opcode completes ST_INVALID without dispatch. -/
  | frontEndReject (q : Nat)
  /-- DISPATCH (R29). A head command is dispatched once every dispatch condition, including wait, NOT_BEFORE, fence, window, completion entry, join slot and capo release, holds. -/
  | dispatch (q : Nat)
  /-- WAIT_TIMEOUT (R31). A head command held only by its wait condition longer than QTMO.WAIT_US completes ST_TIMEOUT without executing. -/
  | waitTimeout (q : Nat)
  /-- JOIN_REPORT (R36). A work item's JOIN report reaches its join point, which writes the completion record and applies the signal once all items have reported. -/
  | joinReport (q : Nat) (tag : Nat) (seq : Nat)
  /-- SIG_WRITE (R34). A host write of a signal word through BAR2 acts as a SET in arrival order. -/
  | sigWrite (fn : Nat) (w : Nat) (v : BitVec 32)
  /-- NOP (R27). The NOP command dispatches at its engine's front end, writes no data, completes ST_OK and signals. -/
  | nop (q : Nat)
  /-- LOAD_PROGRAM (R47). LOAD_PROGRAM multicasts a program image into a slot of every core of the named clusters. -/
  | loadProgram (q : Nat) (tag : Nat)
  /-- LOAD_PROGRAM_WRITE (R47). Once no running kernel uses an overlapping slot, a cluster writes the range, marks the slot loaded and empties overlapping slots. -/
  | loadProgramWrite (q : Nat) (tag : Nat) (lc : Nat)
  /-- LAUNCH (R43). LAUNCH starts every core of the named clusters at ENTRY in the named slot with its argument registers set. -/
  | launch (q : Nat) (tag : Nat)
  /-- START (R52). A QCTRL START checks ring sizes and OUTSTANDING, then resets pointers, takes the ring geometry and enters RUNNING, or is refused. -/
  | start (fn : Nat) (n : Nat) (v : BitVec 32)
  /-- STOP (R53). A QCTRL STOP ends dispatch at once and discards fetched undispatched commands. -/
  | stop (fn : Nat) (n : Nat) (v : BitVec 32)
  /-- RING_CONFIG_WRITE (R55). A write to SQ_BASE, SQ_CFG, CQ_BASE or CQ_CFG is ignored with EV_QUE while RUNNING or STOPPING, otherwise sets the register. -/
  | ringConfigWrite (fn : Nat) (n : Nat) (off : Nat) (size : Nat) (v : BitVec 64)
  /-- CHANNEL_TRANSFER (R60). A vertical-channel transfer is CRC-checked and retransmitted up to 4 times, then delivered poisoned with an EV_MEM event. -/
  | channelTransfer (col : Nat) (up : Bool) (words : List PWord) (fails : Nat)
  /-- BANK_READ (R63). A read of a codeword decodes its syndromes and delivers it clean, corrected or poisoned, counting and reporting errors. -/
  | bankRead (dpa : Nat)
  /-- BANK_WRITE (R65). A write stores whole words, or read-merge-writes partial words, setting poison where the merge read fails. -/
  | bankWrite (dpa : Nat) (data : BitVec 64) (mask : BitVec 8) (poison : Bool)
  /-- FILL (R68). FILL writes PATTERN to every word of its range as full aligned writes, optionally setting scrub-map bits. -/
  | fill (q : Nat) (tag : Nat)
  /-- COPY (R69). COPY writes every destination byte from its source byte, poisoning or skipping words from bad or fenced columns. -/
  | copy (q : Nat) (tag : Nat)
  /-- SCRUB (R71). The scrubber rereads each mapped MiB within its pass period, writing back corrections and rewriting uncorrectable words as poisoned. -/
  | scrub (mib : Nat)
  /-- HARD_FAULT (R72). A line found in error at the same bit after write-back and re-read is a hard fault and gets a saddle entry if one is free. -/
  | hardFault (dpa : Nat)
  /-- SADDLE_INSTALL (R72). The bank logic holds the line, copies it to a spare line and marks the saddle entry valid, applying held accesses afterwards. -/
  | saddleInstall (player : Nat) (pcol : Nat) (bank : Nat)
  /-- EVAC_START (R77). A write of MEM_EVAC_CTRL.START begins evacuation of a logical layer to the spare, or is refused. -/
  | evacStart (v : BitVec 32)
  /-- EVAC_LINE_COPY (R79). The evacuation copier moves one 64-byte line to the spare layer, storing uncorrectable words poisoned. -/
  | evacLineCopy
  /-- EVAC_BANK_SWITCH (R130). Once items started on the source fret have finished, a copied bank's traffic moves to the spare layer. -/
  | evacBankSwitch
  /-- LAYER_RESET (R82). A write of MEM_LRST_CTRL.RESET puts a layer in self-refresh, resets its logic and stalls its accesses. -/
  | layerReset (v : BitVec 32)
  /-- LAYER_RESET_DONE (R82). The layer reset ends with its post-reset check, resuming stalled accesses or leaving the layer poisoned with EV_MEM. -/
  | layerResetDone (pass : Bool)
  /-- MMU_INVAL (R88). A write of MMU_INVAL's upper word starts invalidation of a context range from every translation cache. -/
  | mmuInval (v : BitVec 64)
  /-- MMU_INVAL_DONE (R89). The invalidation completes once every access translated under the old entry has finished, and BUSY clears. -/
  | mmuInvalDone
  /-- POOL_GRANT (R93). A write of MMU_POOL_GRANT1.GO adds every whole page of the range to a partition's pool, or is refused with GRANT_ERR. -/
  | poolGrant (v : BitVec 64)
  /-- SEQ_CREATE (R96). SEQ_CREATE takes a free sequence entry and computes its layout, or forks an existing sequence's pages. -/
  | seqCreate (q : Nat) (tag : Nat)
  /-- APPEND (R97). APPEND converts N BF16 tokens into the KV format and writes them, allocating and copying pages as needed. -/
  | append (q : Nat) (tag : Nat)
  /-- PREFIX_LOOKUP (R103). PREFIX_LOOKUP maps the pages of matching prefix nodes block by block and sets POS to the matched tokens. -/
  | prefixLookup (q : Nat) (tag : Nat)
  /-- PREFIX_INSERT (R104). PREFIX_INSERT creates prefix nodes for the sequence's full blocks and makes the last its NODE. -/
  | prefixInsert (q : Nat) (tag : Nat)
  /-- MIGRATE (R109). MIGRATE copies each eligible full unshared page into a new page and rewrites its leaf. -/
  | migrate (q : Nat) (tag : Nat)
  /-- RELEASE (R99). RELEASE shortens a sequence to NEW_POS and unmaps later pages, or clears HOLD on a prefix node. -/
  | release (q : Nat) (tag : Nat)
  /-- SEQ_DESTROY (R99). SEQ_DESTROY unmaps every page of the sequence and clears its entry. -/
  | seqDestroy (q : Nat) (tag : Nat)
  /-- PAGE_RETURN (R110). An unmapped page returns to its free pool once its count is 0 and every earlier-dispatched command has completed. -/
  | pageReturn (page : Nat)
  /-- THERMAL_STEERING (R111). While a layer is hot the page engine migrates full unshared pages out of it at up to RATE pages per ms. -/
  | thermalSteering (sq : Nat) (idx : Nat)
  /-- ATTEND (R117). ATTEND checks its descriptor and issues one fret work item per head, query group and visible block. -/
  | attend (q : Nat) (tag : Nat)
  /-- SELECT (R128). SELECT scores summary keys and writes each head's list of kept blocks. -/
  | select (q : Nat) (tag : Nat)
  /-- ATTEND_SELECTED (R129). ATTEND_SELECTED attends over only the listed blocks of each head. -/
  | attendSelected (q : Nat) (tag : Nat)
  /-- ATTEND_ISSUE_RESUME (R118). The attend engine resumes issuing items when merges free the merge unit's partial buffer. -/
  | attendIssueResume (q : Nat) (tag : Nat)
  /-- FRET_WORK (R121). A fret serves a work item over its page's visible tokens and sends one partial per query vector. -/
  | fretWork (q : Nat) (tag : Nat) (seq : Nat)
  /-- FRET_PARTIAL (R123). A partial reaches the merge unit and is merged into its leaf of the fixed block-index tree. -/
  | fretPartial (q : Nat) (tag : Nat) (seq : Nat)
  /-- FRET_MODE_WRITE (R136). A FRET_MODE write takes effect within 1 ms; EN = 0 affects only attend commands dispatched after it. -/
  | fretModeWrite (v : BitVec 32)
  /-- ARRAY_DONE (R173). An array instruction's outputs reach the local store, releasing its token and updating ASTAT. -/
  | arrayDone (c : Nat) (faults : List ArrFault)
  /-- DMA_DONE (R175). A column DMA transfer finishes and its token is released. -/
  | dmaDone (c : Nat) (tok : Nat)
  /-- ADD (R164). Scalar 64-bit wrapping add. -/
  | add (u : Exu) (d : BitVec 5) (a : BitVec 5) (b : BitVec 5)
  /-- SUB (R164). Scalar 64-bit wrapping subtract. -/
  | sub (u : Exu) (d : BitVec 5) (a : BitVec 5) (b : BitVec 5)
  /-- AND (R164). Scalar bitwise AND. -/
  | and (u : Exu) (d : BitVec 5) (a : BitVec 5) (b : BitVec 5)
  /-- OR (R164). Scalar bitwise OR. -/
  | or (u : Exu) (d : BitVec 5) (a : BitVec 5) (b : BitVec 5)
  /-- XOR (R164). Scalar bitwise XOR. -/
  | xor (u : Exu) (d : BitVec 5) (a : BitVec 5) (b : BitVec 5)
  /-- SLL (R164). Scalar logical left shift by xB[5:0]. -/
  | sll (u : Exu) (d : BitVec 5) (a : BitVec 5) (b : BitVec 5)
  /-- SRL (R164). Scalar logical right shift by xB[5:0]. -/
  | srl (u : Exu) (d : BitVec 5) (a : BitVec 5) (b : BitVec 5)
  /-- SRA (R164). Scalar arithmetic right shift by xB[5:0]. -/
  | sra (u : Exu) (d : BitVec 5) (a : BitVec 5) (b : BitVec 5)
  /-- SLT (R164). Signed set-less-than. -/
  | slt (u : Exu) (d : BitVec 5) (a : BitVec 5) (b : BitVec 5)
  /-- SLTU (R164). Unsigned set-less-than. -/
  | sltu (u : Exu) (d : BitVec 5) (a : BitVec 5) (b : BitVec 5)
  /-- MIN (R164). Signed scalar minimum. -/
  | min (u : Exu) (d : BitVec 5) (a : BitVec 5) (b : BitVec 5)
  /-- MAX (R164). Signed scalar maximum. -/
  | max (u : Exu) (d : BitVec 5) (a : BitVec 5) (b : BitVec 5)
  /-- MUL (R164). Low 64 bits of the scalar product. -/
  | mul (u : Exu) (d : BitVec 5) (a : BitVec 5) (b : BitVec 5)
  /-- MULH (R164). High 64 bits of the signed product. -/
  | mulh (u : Exu) (d : BitVec 5) (a : BitVec 5) (b : BitVec 5)
  /-- MULHU (R164). High 64 bits of the unsigned product. -/
  | mulhu (u : Exu) (d : BitVec 5) (a : BitVec 5) (b : BitVec 5)
  /-- DIV (R164). Signed division rounded towards zero, with defined results for zero divisors and overflow. -/
  | div (u : Exu) (d : BitVec 5) (a : BitVec 5) (b : BitVec 5)
  /-- DIVU (R164). Unsigned division, all ones on a zero divisor. -/
  | divu (u : Exu) (d : BitVec 5) (a : BitVec 5) (b : BitVec 5)
  /-- REM (R164). Signed remainder with the sign of xA. -/
  | rem (u : Exu) (d : BitVec 5) (a : BitVec 5) (b : BitVec 5)
  /-- REMU (R164). Unsigned remainder, xA on a zero divisor. -/
  | remu (u : Exu) (d : BitVec 5) (a : BitVec 5) (b : BitVec 5)
  /-- ADDI (R164). Add a sign-extended immediate. -/
  | addi (u : Exu) (d : BitVec 5) (a : BitVec 5) (imm : BitVec 15)
  /-- ANDI (R164). AND with a sign-extended immediate. -/
  | andi (u : Exu) (d : BitVec 5) (a : BitVec 5) (imm : BitVec 15)
  /-- ORI (R164). OR with a sign-extended immediate. -/
  | ori (u : Exu) (d : BitVec 5) (a : BitVec 5) (imm : BitVec 15)
  /-- XORI (R164). XOR with a sign-extended immediate. -/
  | xori (u : Exu) (d : BitVec 5) (a : BitVec 5) (imm : BitVec 15)
  /-- SLLI (R164). Logical left shift by an immediate. -/
  | slli (u : Exu) (d : BitVec 5) (a : BitVec 5) (imm : BitVec 15)
  /-- SRLI (R164). Logical right shift by an immediate. -/
  | srli (u : Exu) (d : BitVec 5) (a : BitVec 5) (imm : BitVec 15)
  /-- SRAI (R164). Arithmetic right shift by an immediate. -/
  | srai (u : Exu) (d : BitVec 5) (a : BitVec 5) (imm : BitVec 15)
  /-- SLTI (R164). Signed set-less-than against an immediate. -/
  | slti (u : Exu) (d : BitVec 5) (a : BitVec 5) (imm : BitVec 15)
  /-- BCC (R165). Conditional branch on the COND comparison of xA and xB. -/
  | bcc (u : Exu) (cond : BitVec 3) (a : BitVec 5) (b : BitVec 5) (off : BitVec 12)
  /-- JAL (R165). Jump by an offset and link the next address into xD. -/
  | jal (u : Exu) (d : BitVec 5) (a : BitVec 5) (imm : BitVec 15)
  /-- JALR (R165). Jump to xA plus an immediate and link, raising MISALIGN on an unaligned target. -/
  | jalr (u : Exu) (d : BitVec 5) (a : BitVec 5) (imm : BitVec 15)
  /-- LI (R163). Load a sign-extended 32-bit immediate into xD. -/
  | li (u : Exu) (d : BitVec 5) (rsv : BitVec 15) (imm : BitVec 32)
  /-- LIH (R163). Load a 32-bit immediate into the upper half of xD. -/
  | lih (u : Exu) (d : BitVec 5) (rsv : BitVec 15) (imm : BitVec 32)
  /-- SYSTEM_NOP (R163). The core system NOP instruction has no effect. -/
  | systemNop (u : Exu)
  /-- END (R43). END ends the kernel on this core once its DMA and array work has completed. -/
  | endKernel (u : Exu)
  /-- ASTR (R163). Read ASTAT into xD. -/
  | astr (u : Exu) (d : BitVec 5)
  /-- ASTC (R163). Clear the ASTAT bits set in xA. -/
  | astc (u : Exu) (a : BitVec 5)
  /-- CYCLE (R163). Read the core clock cycles since LAUNCH. -/
  | cycle (u : Exu) (d : BitVec 5)
  /-- TIME (R163). Read device time in ns. -/
  | timeRead (u : Exu) (d : BitVec 5)
  /-- LDB (R166). Load a sign-extended byte from the local store. -/
  | ldb (u : Exu) (d : BitVec 5) (a : BitVec 5) (imm : BitVec 15)
  /-- LDH (R166). Load a sign-extended halfword. -/
  | ldh (u : Exu) (d : BitVec 5) (a : BitVec 5) (imm : BitVec 15)
  /-- LDW (R166). Load a sign-extended word. -/
  | ldw (u : Exu) (d : BitVec 5) (a : BitVec 5) (imm : BitVec 15)
  /-- LDD (R166). Load a doubleword. -/
  | ldd (u : Exu) (d : BitVec 5) (a : BitVec 5) (imm : BitVec 15)
  /-- STB (R166). Store a byte to the local store. -/
  | stb (u : Exu) (d : BitVec 5) (a : BitVec 5) (imm : BitVec 15)
  /-- STH (R166). Store a halfword. -/
  | sth (u : Exu) (d : BitVec 5) (a : BitVec 5) (imm : BitVec 15)
  /-- STW (R166). Store a word. -/
  | stw (u : Exu) (d : BitVec 5) (a : BitVec 5) (imm : BitVec 15)
  /-- STD (R166). Store a doubleword. -/
  | std (u : Exu) (d : BitVec 5) (a : BitVec 5) (imm : BitVec 15)
  /-- LDBU (R166). Load a zero-extended byte. -/
  | ldbu (u : Exu) (d : BitVec 5) (a : BitVec 5) (imm : BitVec 15)
  /-- LDHU (R166). Load a zero-extended halfword. -/
  | ldhu (u : Exu) (d : BitVec 5) (a : BitVec 5) (imm : BitVec 15)
  /-- LDWU (R166). Load a zero-extended word. -/
  | ldwu (u : Exu) (d : BitVec 5) (a : BitVec 5) (imm : BitVec 15)
  /-- VLD (R166). Load 128 bytes into a vector register. -/
  | vld (u : Exu) (d : BitVec 5) (a : BitVec 5) (imm : BitVec 15)
  /-- VST (R166). Store 128 bytes from a vector register. -/
  | vst (u : Exu) (d : BitVec 5) (a : BitVec 5) (imm : BitVec 15)
  /-- VLDS (R166). Strided vector load. -/
  | vlds (u : Exu) (d : BitVec 5) (a : BitVec 5) (b : BitVec 5)
  /-- VSTS (R166). Strided vector store. -/
  | vsts (u : Exu) (d : BitVec 5) (a : BitVec 5) (b : BitVec 5)
  /-- VGATHER (R166). Vector gather by lane offsets. -/
  | vgather (u : Exu) (d : BitVec 5) (a : BitVec 5) (b : BitVec 5)
  /-- VSCATTER (R166). Vector scatter by lane offsets, the higher lane winning on equal addresses. -/
  | vscatter (u : Exu) (d : BitVec 5) (a : BitVec 5) (b : BitVec 5)
  /-- VADD (R167). Lane-wise 32-bit integer add. -/
  | vadd (u : Exu) (d : BitVec 5) (a : BitVec 5) (b : BitVec 5) (pred : BitVec 3) (pz : Bool)
  /-- VSUB (R167). Lane-wise 32-bit integer subtract. -/
  | vsub (u : Exu) (d : BitVec 5) (a : BitVec 5) (b : BitVec 5) (pred : BitVec 3) (pz : Bool)
  /-- VMUL (R167). Lane-wise 32-bit integer multiply. -/
  | vmul (u : Exu) (d : BitVec 5) (a : BitVec 5) (b : BitVec 5) (pred : BitVec 3) (pz : Bool)
  /-- VAND (R167). Lane-wise AND. -/
  | vand (u : Exu) (d : BitVec 5) (a : BitVec 5) (b : BitVec 5) (pred : BitVec 3) (pz : Bool)
  /-- VOR (R167). Lane-wise OR. -/
  | vor (u : Exu) (d : BitVec 5) (a : BitVec 5) (b : BitVec 5) (pred : BitVec 3) (pz : Bool)
  /-- VXOR (R167). Lane-wise XOR. -/
  | vxor (u : Exu) (d : BitVec 5) (a : BitVec 5) (b : BitVec 5) (pred : BitVec 3) (pz : Bool)
  /-- VSLL (R167). Lane-wise left shift by vB[4:0]. -/
  | vsll (u : Exu) (d : BitVec 5) (a : BitVec 5) (b : BitVec 5) (pred : BitVec 3) (pz : Bool)
  /-- VSRA (R167). Lane-wise arithmetic right shift. -/
  | vsra (u : Exu) (d : BitVec 5) (a : BitVec 5) (b : BitVec 5) (pred : BitVec 3) (pz : Bool)
  /-- VMIN (R167). Lane-wise signed minimum. -/
  | vmin (u : Exu) (d : BitVec 5) (a : BitVec 5) (b : BitVec 5) (pred : BitVec 3) (pz : Bool)
  /-- VMAX (R167). Lane-wise signed maximum. -/
  | vmax (u : Exu) (d : BitVec 5) (a : BitVec 5) (b : BitVec 5) (pred : BitVec 3) (pz : Bool)
  /-- VFADD (R168). Lane-wise FP32 add. -/
  | vfadd (u : Exu) (d : BitVec 5) (a : BitVec 5) (b : BitVec 5) (pred : BitVec 3) (pz : Bool)
  /-- VFSUB (R168). Lane-wise FP32 subtract. -/
  | vfsub (u : Exu) (d : BitVec 5) (a : BitVec 5) (b : BitVec 5) (pred : BitVec 3) (pz : Bool)
  /-- VFMUL (R168). Lane-wise FP32 multiply. -/
  | vfmul (u : Exu) (d : BitVec 5) (a : BitVec 5) (b : BitVec 5) (pred : BitVec 3) (pz : Bool)
  /-- VFMA (R168). Lane-wise FP32 fused multiply-add. -/
  | vfma (u : Exu) (d : BitVec 5) (a : BitVec 5) (b : BitVec 5) (pred : BitVec 3) (pz : Bool)
  /-- VFMIN (R168). Lane-wise FP32 minimum, NaN dominating. -/
  | vfmin (u : Exu) (d : BitVec 5) (a : BitVec 5) (b : BitVec 5) (pred : BitVec 3) (pz : Bool)
  /-- VFMAX (R168). Lane-wise FP32 maximum, NaN dominating. -/
  | vfmax (u : Exu) (d : BitVec 5) (a : BitVec 5) (b : BitVec 5) (pred : BitVec 3) (pz : Bool)
  /-- VFABS (R168). Lane-wise FP32 absolute value. -/
  | vfabs (u : Exu) (d : BitVec 5) (a : BitVec 5) (b : BitVec 5) (pred : BitVec 3) (pz : Bool)
  /-- VFNEG (R168). Lane-wise FP32 negation. -/
  | vfneg (u : Exu) (d : BitVec 5) (a : BitVec 5) (b : BitVec 5) (pred : BitVec 3) (pz : Bool)
  /-- VFDIV (R168). Lane-wise correctly rounded FP32 division. -/
  | vfdiv (u : Exu) (d : BitVec 5) (a : BitVec 5) (b : BitVec 5) (pred : BitVec 3) (pz : Bool)
  /-- VFSQRT (R168). Lane-wise correctly rounded FP32 square root. -/
  | vfsqrt (u : Exu) (d : BitVec 5) (a : BitVec 5) (b : BitVec 5) (pred : BitVec 3) (pz : Bool)
  /-- VEXP2 (R120). Lane-wise exp2 by the specified method. -/
  | vexp2 (u : Exu) (d : BitVec 5) (a : BitVec 5) (b : BitVec 5) (pred : BitVec 3) (pz : Bool)
  /-- VRCP (R168). Lane-wise FP32 reciprocal within 1 ulp. -/
  | vrcp (u : Exu) (d : BitVec 5) (a : BitVec 5) (b : BitVec 5) (pred : BitVec 3) (pz : Bool)
  /-- VRSQRT (R168). Lane-wise FP32 reciprocal square root within 1 ulp. -/
  | vrsqrt (u : Exu) (d : BitVec 5) (a : BitVec 5) (b : BitVec 5) (pred : BitVec 3) (pz : Bool)
  /-- VFMA2_BF16 (R168). Two BF16 fused multiply-adds per lane. -/
  | vfma2Bf16 (u : Exu) (d : BitVec 5) (a : BitVec 5) (b : BitVec 5) (pred : BitVec 3) (pz : Bool)
  /-- VFMA2_F16 (R168). Two FP16 fused multiply-adds per lane. -/
  | vfma2F16 (u : Exu) (d : BitVec 5) (a : BitVec 5) (b : BitVec 5) (pred : BitVec 3) (pz : Bool)
  /-- VFCMP_EQ (R167). FP32 equality compare into a predicate. -/
  | vfcmpEq (u : Exu) (d : BitVec 5) (a : BitVec 5) (b : BitVec 5) (pred : BitVec 3) (pz : Bool)
  /-- VFCMP_LT (R167). FP32 less-than compare into a predicate. -/
  | vfcmpLt (u : Exu) (d : BitVec 5) (a : BitVec 5) (b : BitVec 5) (pred : BitVec 3) (pz : Bool)
  /-- VFCMP_LE (R167). FP32 less-or-equal compare into a predicate. -/
  | vfcmpLe (u : Exu) (d : BitVec 5) (a : BitVec 5) (b : BitVec 5) (pred : BitVec 3) (pz : Bool)
  /-- VICMP_EQ (R167). Signed 32-bit equality compare into a predicate. -/
  | vicmpEq (u : Exu) (d : BitVec 5) (a : BitVec 5) (b : BitVec 5) (pred : BitVec 3) (pz : Bool)
  /-- VICMP_LT (R167). Signed 32-bit less-than compare into a predicate. -/
  | vicmpLt (u : Exu) (d : BitVec 5) (a : BitVec 5) (b : BitVec 5) (pred : BitVec 3) (pz : Bool)
  /-- VSEL (R167). Select lanes of vA or vB by the predicate. -/
  | vsel (u : Exu) (d : BitVec 5) (a : BitVec 5) (b : BitVec 5) (pred : BitVec 3) (pz : Bool)
  /-- VBCAST (R167). Broadcast xA[31:0] into every lane. -/
  | vbcast (u : Exu) (d : BitVec 5) (a : BitVec 5) (b : BitVec 5) (pred : BitVec 3) (pz : Bool)
  /-- VEXTR (R167). Extract one lane into xD, sign-extended. -/
  | vextr (u : Exu) (d : BitVec 5) (a : BitVec 5) (b : BitVec 5) (pred : BitVec 3) (pz : Bool)
  /-- VREDSUM (R168). FP32 sum of all lanes by a balanced tree into lane 0. -/
  | vredsum (u : Exu) (d : BitVec 5) (a : BitVec 5) (b : BitVec 5) (pred : BitVec 3) (pz : Bool)
  /-- VREDMAX (R167). FP32 maximum of all lanes into lane 0. -/
  | vredmax (u : Exu) (d : BitVec 5) (a : BitVec 5) (b : BitVec 5) (pred : BitVec 3) (pz : Bool)
  /-- VPERM (R167). Permute lanes of vA by vB. -/
  | vperm (u : Exu) (d : BitVec 5) (a : BitVec 5) (b : BitVec 5) (pred : BitVec 3) (pz : Bool)
  /-- VCVT (R169). Convert lanes or an MX block by the VCVT code. -/
  | vcvt (u : Exu) (d : BitVec 5) (a : BitVec 5) (b : BitVec 5) (pred : BitVec 3) (pz : Bool)
  /-- VWADD (R170). Add eight WIDE values per register exactly, setting SAT on saturation. -/
  | vwadd (u : Exu) (d : BitVec 5) (a : BitVec 5) (b : BitVec 5) (pred : BitVec 3) (pz : Bool)
  /-- VWCVT (R170). Convert eight WIDE values to FP32 with an anchor. -/
  | vwcvt (u : Exu) (d : BitVec 5) (a : BitVec 5) (b : BitVec 5) (pred : BitVec 3) (pz : Bool)
  /-- PAND (R167). Predicate AND. -/
  | pand (u : Exu) (d : BitVec 5) (a : BitVec 5) (b : BitVec 5) (pred : BitVec 3) (pz : Bool)
  /-- POR (R167). Predicate OR. -/
  | por (u : Exu) (d : BitVec 5) (a : BitVec 5) (b : BitVec 5) (pred : BitVec 3) (pz : Bool)
  /-- PXOR (R167). Predicate XOR. -/
  | pxor (u : Exu) (d : BitVec 5) (a : BitVec 5) (b : BitVec 5) (pred : BitVec 3) (pz : Bool)
  /-- PNOT (R167). Predicate NOT. -/
  | pnot (u : Exu) (d : BitVec 5) (a : BitVec 5) (b : BitVec 5) (pred : BitVec 3) (pz : Bool)
  /-- TLD (R171). Load a tile descriptor from the local store. -/
  | tld (u : Exu) (d : BitVec 5) (a : BitVec 5)
  /-- TST (R171). Store a tile descriptor to the local store. -/
  | tst (u : Exu) (d : BitVec 5) (a : BitVec 5)
  /-- TBASE (R171). Set a tile descriptor's BASE. -/
  | tbase (u : Exu) (d : BitVec 5) (a : BitVec 5)
  /-- MAC (R142). Array multiply-accumulate over the named tiles in WS, IS or OS mode. -/
  | mac (u : Exu) (mode : BitVec 2) (ts : BitVec 3) (tx : BitVec 3) (ty : BitVec 3) (acc : Bool) (tok : BitVec 2) (anchor : BitVec 10) (rsv : BitVec 30)
  /-- L1 (R142). Array sum of absolute differences. -/
  | l1 (u : Exu) (mode : BitVec 2) (ts : BitVec 3) (tx : BitVec 3) (ty : BitVec 3) (acc : Bool) (tok : BitVec 2) (anchor : BitVec 10) (rsv : BitVec 30)
  /-- L2SQ (R142). Array sum of squared differences. -/
  | l2sq (u : Exu) (mode : BitVec 2) (ts : BitVec 3) (tx : BitVec 3) (ty : BitVec 3) (acc : Bool) (tok : BitVec 2) (anchor : BitVec 10) (rsv : BitVec 30)
  /-- MAXPLUS (R142). Array max-plus reduction. -/
  | maxplus (u : Exu) (mode : BitVec 2) (ts : BitVec 3) (tx : BitVec 3) (ty : BitVec 3) (acc : Bool) (tok : BitVec 2) (anchor : BitVec 10) (rsv : BitVec 30)
  /-- MINPLUS (R142). Array min-plus reduction. -/
  | minplus (u : Exu) (mode : BitVec 2) (ts : BitVec 3) (tx : BitVec 3) (ty : BitVec 3) (acc : Bool) (tok : BitVec 2) (anchor : BitVec 10) (rsv : BitVec 30)
  /-- CMPCNT (R142). Array compare-count into INT32. -/
  | cmpcnt (u : Exu) (mode : BitVec 2) (ts : BitVec 3) (tx : BitVec 3) (ty : BitVec 3) (acc : Bool) (tok : BitVec 2) (anchor : BitVec 10) (rsv : BitVec 30)
  /-- GET (R175). Column DMA from device memory into the local store. -/
  | get (u : Exu) (l : BitVec 5) (v : BitVec 5) (n : BitVec 5) (sh : BitVec 5) (tok : BitVec 4) (rsv : BitVec 32)
  /-- PUT (R175). Column DMA from the local store to device memory. -/
  | put (u : Exu) (l : BitVec 5) (v : BitVec 5) (n : BitVec 5) (sh : BitVec 5) (tok : BitVec 4) (rsv : BitVec 32)
  /-- WAITD (R177). Wait until the named DMA tokens are released. -/
  | waitd (u : Exu) (a : BitVec 5)
  /-- WAITA (R177). Wait until the named array tokens are released. -/
  | waita (u : Exu) (a : BitVec 5)
  /-- FENCE (R177). Wait until every DMA and array operation of the core has finished. -/
  | fence (u : Exu)
  /-- SIGW (R176). Wait until a signal word meets a value. -/
  | sigw (u : Exu) (a : BitVec 5) (b : BitVec 5)
  /-- SIGP_SET (R176). Atomically set a signal word after earlier stores and PUTs are visible. -/
  | sigpSet (u : Exu) (a : BitVec 5) (b : BitVec 5)
  /-- SIGP_ADD (R176). Atomically add to a signal word after earlier stores and PUTs are visible. -/
  | sigpAdd (u : Exu) (a : BitVec 5) (b : BitVec 5)
  /-- SIGR (R176). Read a signal word into xD. -/
  | sigr (u : Exu) (d : BitVec 5) (a : BitVec 5)
  /-- BAR (R178). Arrive at a cluster- or launch-scope barrier. -/
  | bar (u : Exu) (d : BitVec 5) (scope : Bool) (id : BitVec 2)
  /-- BARRIER_RELEASE (R178). Once every participant has arrived the barrier releases every participating core. -/
  | barrierRelease (scope : Bool) (lc : Nat) (id : BitVec 2)
  /-- DBELL (R179). Send a doorbell value to a core's DB and return delivery status. -/
  | dbell (u : Exu) (d : BitVec 5) (a : BitVec 5) (b : BitVec 5)
  /-- DOORBELL_ARRIVAL (R179). A doorbell value is ORed into the target's DB, releasing a matching DWAIT. -/
  | doorbellArrival (c : Nat)
  /-- DWAIT (R179). Wait until DB ANDed with a mask is non-zero, then clear those bits. -/
  | dwait (u : Exu) (d : BitVec 5) (a : BitVec 5)
  /-- STOPT (R180). A partition 0 kernel requests a global stop, or raises PRIV. -/
  | stopt (u : Exu)
  /-- UPDATE (R191). UPDATE is checked and queued for a parameter group in dispatch order. -/
  | update (q : Nat) (tag : Nat)
  /-- UPDATE_START (R192). Once earlier commands of the sharing partitions have drained, the UPDATE begins writing the shadow copy. -/
  | updateStart (q : Nat) (tag : Nat)
  /-- UPDATE_INVOCATION_END (R194). A statistics or apply invocation ends at END and its outputs are taken. -/
  | updateInvocationEnd (u : Nat)
  /-- PROLOGUE_START (R193). The prologue starts once the statistics pass has finished for every block. -/
  | prologueStart (q : Nat) (tag : Nat)
  /-- APPLY_PASS_START (R193). The apply pass starts once the prologue values have reached every taking-part unit. -/
  | applyPassStart (q : Nat) (tag : Nat)
  /-- RULE_LIMIT (R197). An invocation exceeding MAX_INSTR instructions ends and its item reports RULE_LIMIT. -/
  | ruleLimit (u : Nat)
  /-- SCHEDULE_SET (R203). SCHEDULE_SET copies a curve's breakpoints into the group's schedule block. -/
  | scheduleSet (q : Nat) (tag : Nat)
  /-- GROUP_WRITE (R188). UPD_GROUP_CMD.WRITE checks and installs a group entry, or refuses it with an error code. -/
  | groupWrite (v : BitVec 32)
  /-- GROUP_INVALIDATE (R187). UPD_GROUP_CMD.INVALIDATE clears a group's VALID, refused while BUSY. -/
  | groupInvalidate (v : BitVec 32)
  /-- PSTORE_WRITE (R186). A UPD_PSTORE_DATA write reaches every unit's program store and advances the address, or is refused. -/
  | pstoreWrite (v : BitVec 32)
  /-- NOC_PACKET (R208). A router forwards a packet by its route table, express first and ordinary in round-robin. -/
  | nocPacket (r : Nat) (port : Nat) (arrivals : List (Nat × Packet)) (retries : Nat) (ecc : BufEcc)
  /-- PACKET_AGED (R208). An ordinary packet that has waited 256 NoC cycles takes the next slot ahead of express packets. -/
  | packetAged (r : Nat) (port : Nat)
  /-- MESH_LINK_FAILED (R212). A mesh link exhausting its retry limit is declared failed and a route change begins. -/
  | meshLinkFailed (r : Nat) (dir : Nat)
  /-- ROUTER_BYPASS (R212). A router whose route table has an uncorrectable error is bypassed and a route change begins. -/
  | routerBypass (r : Nat)
  /-- ROUTE_CHANGE_DONE (R212). After draining, new route and distance tables are written, NOC_DIST_GEN increments and EV_UNIT is raised. -/
  | routeChangeDone
  /-- NOC_DRAIN_TIMEOUT (R212). A router that cannot drain within 10 µs takes the device to HALTED. -/
  | nocDrainTimeout (r : Nat)
  /-- NOC_FALLBACK_WRITE (R214). A write of NOC_FALLBACK.FORCE forces or releases the FORCE trigger. -/
  | nocFallbackWrite (v : BitVec 32)
  /-- FALLBACK_EXIT (R214). The NoC leaves fall-back 100 µs after the last trigger clears. -/
  | fallbackExit
  /-- CLOCK_STEP (R219). A new region or half clock step takes effect at the next 80-pulse frame boundary. -/
  | clockStep (half : Bool) (k : Nat)
  /-- PLL_LOCK (R223). Loss of lock on a half PLL after READY takes the device to HALTED. -/
  | pllLock (half : Nat)
  /-- DATA_FLIT (R226). A received DATA flit is CRC-checked and accepted in SEQ order or discarded with a NAK. -/
  | dataFlit (l : Nat) (flit : BitVec 2048) (corr : Nat) (fecBad : Bool)
  /-- NAK (R226). On a NAK the sender resends every flit after ACK in order. -/
  | nak (l : Nat) (flit : Coded)
  /-- REPLAY_LIMIT (R227). A flit resent 8 times without an ACK makes the link retrain at its present width. -/
  | replayLimit (l : Nat)
  /-- LINK_DEGRADE (R228). Lane loss of lock or excess bit-error rate makes the link retrain at a narrower width. -/
  | linkDegrade (l : Nat) (lanes : BitVec 4)
  /-- LINK_RETRAIN_DONE (R228). A retrain ends, held flits replay and WIDTH and counters update, or the link becomes FAILED. -/
  | linkRetrainDone (l : Nat) (lanes : Trained)
  /-- LINK_SWITCH_PACKET (R231). The link switch delivers a packet locally or routes it by its epoch's table to a usable candidate. -/
  | linkSwitchPacket (n : Nat)
  /-- UNREACHABLE_NOTICE (R233). An UNREACHABLE notice reaches the source, whose item reports ST_PEER_LOST. -/
  | unreachableNotice (th : BitVec 128)
  /-- LINK_WATCHDOG (R234). A VC holding a flit without credit progress for 10 ms sets WATCHDOG and raises EV_LNK. -/
  | linkWatchdog (l : Nat) (vc : Nat)
  /-- ACTIVATE (R235). LNK_EPOCH_CTRL.ACTIVATE makes NEXT the current route table under a new epoch, or is refused. -/
  | activate (v : BitVec 32)
  /-- RETIRE (R237). LNK_EPOCH_CTRL.RETIRE requests that the previous epoch's table be retired. -/
  | retire (v : BitVec 32)
  /-- PREV_RETIRED (R237). Once no packet of epoch PREV remains, PREV_VALID clears. -/
  | prevRetired
  /-- PEER_JOIN (R293). A link with PLUG_EN detects a partner, trains, qualifies and becomes ACTIVE with EV_LNK. -/
  | peerJoin (l : Nat) (dev : Nat) (peerLink : Nat) (lanes : Trained)
  /-- LINK_CTRL_RETRAIN (R228). A write of LNK_CTRL.RETRAIN retrains a link at the widest width its lanes allow. -/
  | linkCtrlRetrain (l : Nat) (v : BitVec 32)
  /-- LINK_DISABLE (R316). Setting LNK_CTRL.DISABLE holds the link OFF; clearing it retrains from saved settings. -/
  | linkDisable (l : Nat) (v : BitVec 32)
  /-- LINK_SEND (R238). LINK_SEND sends a range to a remote device in 216-byte segments. -/
  | linkSend (q : Nat) (tag : Nat)
  /-- LINK_SEND_SEGMENT (R238). A remote move front end translates and writes a received segment and adds the remote signal at the end. -/
  | linkSendSegment (pkt : Packet) (rsig : Option Nat)
  /-- GROUP_CREATE (R240). GROUP_CREATE creates a collective group entry or rejects it. -/
  | groupCreate (q : Nat) (tag : Nat)
  /-- GROUP_DESTROY (R240). GROUP_DESTROY frees a group entry once every collective of the group has completed. -/
  | groupDestroy (q : Nat) (tag : Nat)
  /-- COLLECTIVE (R241). COLLECTIVE starts a reduction, gather, all-to-all, broadcast or barrier over a group. -/
  | collective (q : Nat) (tag : Nat)
  /-- COLLECTIVE_SEGMENT (R244). A collective segment arrives and is combined in rank-tree order, refused for retry, or fails with MISMATCH. -/
  | collectiveSegment (pkt : Packet) (room : Bool)
  /-- SEGMENT_RETRY (R242). A refused segment is resent after 2 µs. -/
  | segmentRetry (n : Nat)
  /-- PEER_LOST (R246). A PEER_LOST notice marks the group broken and completes its collectives ST_PEER_LOST. -/
  | peerLost (part : Nat) (key : BitVec 32) (dev : Nat)
  /-- COL_PEER_DOWN (R246). A write of COL_PEER_DOWN.GO declares a device lost in every group holding it. -/
  | colPeerDown (v : BitVec 32)
  /-- COLLECTIVE_TIMEOUT (R246). A collective that receives nothing for TMO_MS treats the peer as lost. -/
  | collectiveTimeout (g : Nat) (dev : Nat)
  /-- HOLD (R304). A received HOLD LINKCTL flit makes the peer keep its flits for replay when the link returns. -/
  | hold (l : Nat)
  /-- HOLD_TIMEOUT (R304). A link not returned within 100 ms after HOLD is treated as FAILED. -/
  | holdTimeout (l : Nat)
  /-- SENSE_EXCLUDE (R249). A VSTK sense pair out of range is excluded, falling back to local sense when none remain. -/
  | senseExclude (pair : Nat) (mv : Nat)
  /-- PDM_VMIN_CLR (R251). PDM_VMIN_CLR.GO clears the named minimum-voltage records. -/
  | pdmVminClr (v : BitVec 32)
  /-- VMIN_READ_LATCH (R251). A read of PDM_VMIN word 0 latches the whole record. -/
  | vminReadLatch (c : Nat)
  /-- DROOP (R252). A cell output falling TRIP_MV below setpoint stretches its site's clocks. -/
  | droop (site : Nat) (mv : Nat)
  /-- DROOP_RELEASE (R252). The output rising within REL_MV of setpoint ends the stretch. -/
  | droopRelease (site : Nat) (mv : Nat)
  /-- DROOP_STEP_HOLD_END (R253). A step change held by droop applies 1 µs after the last stretch release. -/
  | droopStepHoldEnd (k : Nat)
  /-- CUR_LIMIT (R254). A site or VSTK current above its limit stretches clocks within 200 ns. -/
  | curLimit (vstk : Bool) (site : Nat) (amps : Nat)
  /-- CUR_LIMIT_RELEASE (R254). Current falling below 95 % of the limit releases the stretch. -/
  | curLimitRelease (vstk : Bool) (site : Nat) (amps : Nat)
  /-- VR_DEGRADED (R255). A cluster cell phase failure lowers its current limit and raises EV_PWR. -/
  | vrDegraded (cell : Nat) (phase : Nat)
  /-- NOC_CELL_FAIL (R257). A NoC cell failure caps the NoC clocks at 1.5 GHz, or with a second failure enters HALTED. -/
  | nocCellFail (cell : Nat)
  /-- POWER_LOOP (R258). Every 1 µs the power loop measures input power and lowers or raises region steps against P_lim. -/
  | powerLoop (pwr : Nat) (avg : Nat) (vin : Nat)
  /-- COLL_DEFER_END (R265). A deferred lowering takes effect when the collective completes or DEFER_MAX_US expires. -/
  | collDeferEnd (k : Nat)
  /-- ENERGY_ATTRIBUTION (R267). Every 1 ms the capo attributes measured energy to partitions, queues and commands. -/
  | energyAttribution (em : Nat) (eu : Nat) (parts : List (Nat × Nat)) (queues : List (Nat × Nat)) (cmds : List CmdEnergy)
  /-- FRET_GRANT (R264). Once per ms and on P_lim changes the capo sets the memory-layer fret grant. -/
  | fretGrant (pwr : List Nat) (rate : Nat) (limited : BitVec 8) (heldNs : Nat)
  /-- CLK_FIXED_WRITE (R269). A CLK_FIXED.EN write requests or ends fixed-clock mode at step 56. -/
  | clkFixedWrite (v : BitVec 32)
  /-- THERMAL_LOOP (R279). Every 1 ms the thermal loop computes governing temperatures and applies limit actions and hot-layer bits. -/
  | thermalLoop (readings : List Reading)
  /-- SENSOR_READMIT (R271). A sensor plausible for 100 ms is taken back. -/
  | sensorReadmit (i : Nat) (temp : Int)
  /-- SENSOR_DISAGREE (R272). Two site readings differing by over 5 °C for 100 ms raise EV_THM. -/
  | sensorDisagree (site : Nat) (durMs : Nat)
  /-- TRAY_SENSOR (R275). No plausible inlet or outlet reading for 100 ms triggers its fallback and EV_THM. -/
  | traySensor (outlet : Bool) (durMs : Nat)
  /-- INLET_OUT_OF_RANGE (R275). An inlet above 45 °C or below 15 °C for 1 s raises EV_THM. -/
  | inletOutOfRange (durMs : Nat)
  /-- LAYER_SUSPECT (R278). A layer reading over 6 °C below its model for 10 ms is marked suspect. -/
  | layerSuspect (p : Nat) (durMs : Nat)
  /-- SUSPECT_CLEAR (R278). A layer within 2 °C of its model for 10 s clears its suspect mark. -/
  | suspectClear (p : Nat) (durMs : Nat)
  /-- THM_SUSPECT_WRITE (R278). A host write of 1 to THM_SUSPECT clears suspect marks. -/
  | thmSuspectWrite (v : BitVec 32)
  /-- THETA_UPDATE (R281). At the end of each steady 50 ms interval the thermal-resistance estimate is updated. -/
  | thetaUpdate (interval : List PowerMs) (mean : Nat)
  /-- FLOW_PULSE (R276). An accepted flow pulse updates the flow rate. -/
  | flowPulse
  /-- FLOW_ZERO (R276). No pulse for twice the last period sets the flow to 0. -/
  | flowZero
  /-- FLOW_REDUCED_ENTRY (R282). Flow below 3.0 L/min for 1 s, or invalid, enters REDUCED. -/
  | flowReducedEntry (durMs : Nat)
  /-- FLOW_REDUCED_EXIT (R282). Flow valid at or above 3.2 L/min for 1 s leaves REDUCED. -/
  | flowReducedExit (durMs : Nat)
  /-- FLOW_LOSS_ENTRY (R284). Flow loss or a fast outlet rise enters LOSS within 50 µs, setting COOLANT and P_lim 900 W. -/
  | flowLossEntry (rise : Int)
  /-- FLOW_LOSS_EXIT (R284). Flow and outlet recovered for 1 s move LOSS to REDUCED. -/
  | flowLossExit (rise : Int) (durMs : Nat)
  /-- THERMTRIP (R285). A sensor at 110 °C for 10 µs asserts THERMTRIP_N, removes stack power and enters HALTED. -/
  | thermtrip (die : Nat) (sensor : Nat) (temp : Int) (durNs : Nat)
  /-- TRAY_SENSOR_READ (R353). Every 10 ms the VX128 reads the inlet and outlet tray sensors. -/
  | traySensorRead (inlet : Option (BitVec 16)) (outlet : Option (BitVec 16))
  /-- POWER_ON_RESET (R305). Power application runs bring-up from stage 0. -/
  | powerOnReset (slotId : BitVec 4)
  /-- FUSE_READ (R296). Stage 0 reads the fuses. -/
  | fuseRead (ok : Bool)
  /-- IMAGE_CHECK (R290). Stage 1 checks the header and areas, chooses a slot and applies IDENTITY and LUT_CFG. -/
  | imageCheck
  /-- RAIL_RAISE (R248). Stage 2 raises the rails and self-tests the regulator cells. -/
  | railRaise (rails : List Nat) (cells : List (Nat × Nat))
  /-- COUPLER_TRAINING (R13). Stage 3 trains couplers and maps spare coils and trunk spares. -/
  | couplerTraining (faults : List CoilFault) (retrained : List Nat)
  /-- DRAM_TRAINING (R76). Stage 4 tests memory layers, installs saddles and builds the layer map. -/
  | dramTraining (layers : List Nat) (lines : DramFaults)
  /-- LOGICAL_NUMBERING (R297). Stage 5 tests compute units, maps spares and fixes the logical numbering. -/
  | logicalNumbering (bad : List UnitRef)
  /-- ROUTE_TABLE_FILL (R210). Stage 6 fills route and distance tables. -/
  | routeTableFill (bad : List Nat)
  /-- LINK_TRAINING (R293). Stage 7 applies ROUTE and trains the links. -/
  | linkTraining (links : List LinkTrain)
  /-- LINK_QUALIFICATION (R293). At the end of a 20 ms window a link passes or is retrained, narrowed or failed. -/
  | linkQualification (l : Nat) (bits : Nat) (errs : List Nat) (uncorr : Nat)
  /-- STAGE_7_TIMEOUT (R293). At 2.0 s stage 7 ends and links still training continue after READY. -/
  | stage7Timeout
  /-- READY (R287). Stage 8 applies the remaining segments, zero-fills regions, activates the epoch, arms the capo and reaches READY. -/
  | ready
  /-- CORE_RESET (R300). LUT_RESET level 0 stops a core, aborts its item and applies pending substitutions. -/
  | coreReset (v : BitVec 32)
  /-- CLUSTER_RESET (R301). LUT_RESET level 1 holds dispatch, resets the cluster's cores and drains its column port. -/
  | clusterReset (v : BitVec 32)
  /-- CLUSTER_DRAIN_END (R303). When the column-port drain ends the port resets and requested substitutions apply. -/
  | clusterDrainEnd
  /-- PARTITION_RESET (R302). LUT_RESET level 2, or an FLR, stops every queue of a partition and drains its work. -/
  | partitionReset (v : BitVec 32)
  /-- PARTITION_DRAIN_END (R302). When all commands complete or 1 ms passes, remaining work is aborted and the queues become DISABLED. -/
  | partitionDrainEnd (p : Nat)
  /-- SOUNDBOARD_IO_RESET (R304). LUT_RESET level 3 resets link ports, link switch and PCIe endpoint, absorbing link traffic. -/
  | soundboardIoReset (v : BitVec 32)
  /-- SOUNDBOARD_IO_RESET_DONE (R304). Links and PCIe return, held records are written and BUSY clears. -/
  | soundboardIoResetDone
  /-- DEVICE_WARM_RESET (R305). LUT_RESET level 4 or PERST_N stops all work, loses memory and reruns stages 1 to 8. -/
  | deviceWarmReset (v : BitVec 32)
  /-- PARTITION_RELOAD (R307). A PARTITION segment reload resets the partition and applies the segment. -/
  | partitionReload (v : BitVec 32)
  /-- CAPO_RELOAD (R307). A CAPO segment reload is applied between two capo periods. -/
  | capoReload (v : BitVec 32)
  /-- THERMAL_RELOAD (R307). A THERMAL segment reload is applied, restarting theta estimates it names. -/
  | thermalReload (v : BitVec 32)
  /-- TRAYMAP_RELOAD (R307). A TRAYMAP segment reload sets the tray sensor addresses. -/
  | traymapReload (v : BitVec 32)
  /-- ROUTE_RELOAD (R307). A ROUTE segment reload writes the NEXT route table. -/
  | routeReload (v : BitVec 32)
  /-- DEFECT_RELOAD (R307). A DEFECT reload rereads the defect area for later substitutions. -/
  | defectReload (v : BitVec 32)
  /-- SNAP (R309). LUT_EXPORT_CTRL.SNAP captures a training snapshot. -/
  | snap (v : BitVec 32)
  /-- EXPORT_DATA_READ (R309). A read of LUT_EXPORT_DATA returns a snapshot word and advances the address. -/
  | exportDataRead
  /-- SCHEDULED_WAKE (R313). A sleeping scope starts waking at its next known event less its wake latency. -/
  | scheduledWake (scope : Nat)
  /-- WAKE_DONE (R314). A waking scope begins serving work. -/
  | wakeDone (scope : Nat)
  /-- LINK_IDLE (R316). A link idle for 10 µs sends a SLEEP LINKCTL flit. -/
  | linkIdle (l : Nat)
  /-- SLEEP (R316). A SLEEP LINKCTL flit answered by the peer puts both ends in STANDBY. -/
  | sleep (l : Nat)
  /-- REFRESH (R319). A per-bank refresh interval expires and refresh runs, or is postponed for express accesses up to 8 intervals. -/
  | refresh (player : Nat) (pcol : Nat) (bank : Nat) (express : Bool)
  /-- DRONE_DEADLINE (R320). A drone task reaching its deadline wakes its scope and runs. -/
  | droneDeadline (task : Drone) (scope : Nat)
  /-- PEG (R10). A peg sequence recalibrates couplers, links, sensors or regulators, remapping spare coils. -/
  | peg (task : Peg) (idx : Nat) (sel : Nat)
  /-- CLK_SLEEP_CTRL_WRITE (R321). A CLK_SLEEP_CTRL write changes depth limits from the next recomputation. -/
  | clkSleepCtrlWrite (v : BitVec 32)
  /-- EVENT_RECORD (R322). An event reaches the event unit and is filtered, rate-limited and written to the ring. -/
  | eventRecord (n : Nat)
  /-- RATE_WINDOW_CLOSE (R325). A 10 µs rate-limit window closes, writing a closing record if it counted occurrences. -/
  | rateWindowClose (n : Nat)
  /-- EVT_CFG_WRITE (R324). An EVT_CFG write opens or closes the event ring, refusing geometry changes while enabled. -/
  | evtCfgWrite (v : BitVec 32)
  /-- THROTTLE_N (R327). An accepted THROTTLE_N level change applies or removes the EXT_W limit, detecting chatter. -/
  | throttleN (asserted : Bool)
  /-- THROTTLE_STUCK (R327). THROTTLE_N asserted over 100 ms sets THR_STUCK and raises an event. -/
  | throttleStuck
  /-- THROTTLE_CHATTER_END (R327). After 10 ms stably deasserted the chatter hold ends. -/
  | throttleChatterEnd
  /-- CNT_SNAP (R331). A write of a partition's CNT_SNAP copies its counters into the shadow at one time. -/
  | cntSnap (fn : Nat) (v : BitVec 32)
  /-- DBG_CNT_SNAP (R331). DBG_CNT_SNAP.GO snapshots every counter at one device time. -/
  | dbgCntSnap (v : BitVec 32)
  /-- TRACE_CONFIG_WRITE (R332). A write of DBG_TRACE_BASE or DBG_TRACE_CFG outside IDLE or DONE is refused with TRACE_CFG_REFUSED. -/
  | traceConfigWrite (off : Nat) (size : Nat) (v : BitVec 64)
  /-- TRACE_ENABLE (R337). A write of DBG_TRACE_CTRL.EN starts a new trace or stops recording and drains. -/
  | traceEnable (v : BitVec 32)
  /-- TRIG (R336). A host write of DBG_TRACE_CTRL.TRIG fires the trace trigger. -/
  | trig (v : BitVec 32)
  /-- GLOBAL_STOP (R338). DBG_STOP_CTRL.GO sends a stop token and writes a STOP record. -/
  | globalStop (v : BitVec 32)
  /-- STOP_TOKEN (R339). A stop token reaches units, which stop dispatch, cores and new items. -/
  | stopToken (unit : StopUnit)
  /-- GLOBAL_RESUME (R341). DBG_STOP_CTRL.RESUME restarts cores and front ends and sends a resume token. -/
  | globalResume (v : BitVec 32)
  /-- MARK_PROBE (R343). Every PERIOD_US each active link port sends a MARK probe and records PROBE_TX. -/
  | markProbe (l : Nat)
  /-- PROBE_RX (R343). A received MARK probe is recorded as PROBE_RX. -/
  | probeRx (l : Nat) (flit : BitVec 2048)
  /-- VF_FLR (R347). A VF function-level reset performs a partition reset of its partition. -/
  | vfFlr (fn : Nat)
  /-- PF_FLR (R347). A PF function-level reset resets partition 0 and clears EVT_CFG.EN. -/
  | pfFlr
  /-- HOT_RESET (R347). A PCIe hot reset or link down resets only the endpoint, absorbing host transfers. -/
  | hotReset
  /-- PERST_N (R354). PERST_N holds the endpoint in reset before READY, or starts a device warm reset after. -/
  | perstN
  /-- PWR_EN_ASSERT (R355). PWR_EN asserted with input above threshold starts the converter and bring-up. -/
  | pwrEnAssert (vin : Nat)
  /-- PWR_EN_DEASSERT (R356). PWR_EN deasserted stops all work, drops PWR_GOOD and sequences the rails down. -/
  | pwrEnDeassert
  /-- ERASE_64K (R349). NVM_CMD ERASE_64K erases a 64 KiB flash block, or is refused. -/
  | erase64k (mgmt : Bool) (v : BitVec 32)
  /-- PROGRAM (R349). NVM_CMD PROGRAM writes up to 256 bytes from NVM_BUF within one page, or is refused. -/
  | program (mgmt : Bool) (v : BitVec 32)
  /-- NVM_DONE (R349). A flash erase or program finishes and BUSY clears. -/
  | nvmDone (ok : Bool)
  /-- READ (R351). Management READ returns a 32-bit register with status and PEC. -/
  | read (bytes : List Byte)
  /-- WRITE (R351). Management WRITE sets a 32-bit register if its PEC passes. -/
  | write (bytes : List Byte)
  /-- SUMMARY (R351). Management SUMMARY returns GLB_STATUS, CAPO_REASON and THM_STATUS. -/
  | summary (bytes : List Byte)
  /-- DYNAMIC_ADDRESS (R350). ENTDAA or SETDASA assigns the management target a dynamic address. -/
  | dynamicAddress (addr : BitVec 7)
  /-- PERST_N_DEASSERT (R354). An accepted deassertion of PERST_N releases the PCIe endpoint to start link training once the PCIe trunk channel has completed stage 3. -/
  | perstNDeassert
  /-- PCIE_LINK_RETURN (R347). After a hot reset or link down the PCIe link returns, and the ring fetches and host-bound records that were held are carried out. -/
  | pcieLinkReturn
  /-- POWER_ON_HOLDOFF_END (R356). 100 ms after the end of the power-off sequence, a PWR_EN asserted during it or within the hold-off starts the power-on of R355. -/
  | powerOnHoldoffEnd
  /-- SLEEP_ENTRY_DONE (R312). A scope that is entering a sleep state finishes its entry cost and is then in that state. -/
  | sleepEntryDone (scope : Nat)
  /-- IDLE_FLIT (R225). A received IDLE flit returns credits and an ACK, freeing replay-buffer entries and letting queued DATA flits be sent. -/
  | idleFlit (l : Nat) (flit : Coded)
  deriving DecidableEq, Repr

end Sys2Proof
end

