-- ==== Sys2Proof/WellFormed.lean ====
section
/-! DEFINITION. Which commands name only units that the hardware has (R8, *Table: Physical and usable
counts*). A meaning stops with `noSuchUnit` exactly on the others. -/

namespace Sys2Proof

def queueOk (q : Nat) : Bool := q < 1024
def coreOk (c : Nat) : Bool := c < 1024
def lcOk (lc : Nat) : Bool := lc < 64
/-- Function 0 is the physical function, 1 to 15 the virtual ones (R347). -/
def fnOk (fn : Nat) : Bool := fn < 16
def vfOk (fn : Nat) : Bool := 1 ≤ fn && fn < 16
def partOk (p : Nat) : Bool := p < 16
def sigOk (w : Nat) : Bool := w < 4096
/-- Physical memory layers M0 to M8. -/
def layerOk (p : Nat) : Bool := p < 9
def pcolOk (c : Nat) : Bool := c < 1224
def bankOk (b : Nat) : Bool := b < 4
/-- Channels: 0 to 1,223 the vertical ones, by physical column; 1,224 to 1,307 the trunk sites. -/
def channelOk (c : Nat) : Bool := c < 1308
/-- A vertical channel crosses nine boundaries, a trunk channel ten. -/
def boundaryOk (c b : Nat) : Bool := if c < 1224 then b < 9 else b < 10
/-- A crossing that exists. -/
def coilOk (f : CoilFault) : Bool := channelOk f.chan && boundaryOk f.chan f.boundary
/-- A column-local DPA. -/
def dpaOk (a : Nat) : Bool := a < 2 ^ 37
/-- One MiB of device memory. -/
def mibOk (m : Nat) : Bool := m < 2 ^ 17
/-- A page by DPA[36:14]. -/
def pageOk (p : Nat) : Bool := p < 2 ^ 23
def seqOk (n : Nat) : Bool := n < 65536
def dmaTokOk (t : Nat) : Bool := t < 16
/-- Physical update units. -/
def unitOk (u : Nat) : Bool := u < 72
def exuOk : Exu → Bool
  | .core c => coreOk c
  | .upd n => unitOk n
def siteOk (n : Nat) : Bool := n < 72
/-- Routers: one per cluster site. -/
def routerOk (r : Nat) : Bool := r < 72
/-- Output ports of a router: north, east, south, west, cluster, command fabric, trunk. -/
def portOk (p : Nat) : Bool := p < 7
/-- A packet enters the NoC at a router from the cluster, the command fabric or the trunk. -/
def localPortOk (p : Nat) : Bool := 4 ≤ p && p < 7
/-- A mesh link of a router: 0 north, 1 east, 2 south, 3 west, where the mesh goes on that way. -/
def meshOk (r d : Nat) : Bool :=
  match d with
  | 0 => 8 ≤ r
  | 1 => 0 < r % 8
  | 2 => r < 64
  | 3 => r % 8 < 7
  | _ => false
def regionOk (k : Nat) : Bool := k < 8
def halfOk (h : Nat) : Bool := h < 2
def clockOk (half : Bool) (k : Nat) : Bool := if half then halfOk k else regionOk k
def linkOk (l : Nat) : Bool := l < 48
def vcOk (v : Nat) : Bool := v < 4
def deviceOk (d : Nat) : Bool := d < 4096
def groupOk (g : Nat) : Bool := g < 512
def senseOk (p : Nat) : Bool := p < 8
/-- Regulator cells: VRC00 to VRC71, then the four NoC cells. -/
def cellOk (c : Nat) : Bool := c < 76
def nocCellOk (c : Nat) : Bool := c < 4
def phaseOk (p : Nat) : Bool := p < 12
/-- Sensors by THM_SENSOR index: 168 of C, 144 of M0 to M8, 12 of S. -/
def sensorOk (n : Nat) : Bool := n < 324
def dieSensorOk (die n : Nat) : Bool :=
  if die = 0 then n < 144 && n % 2 == 0
  else if die < 10 then 152 + 16 * die ≤ n && n < 168 + 16 * die
  else die == 10 && 312 ≤ n && n < 324
/-- Sleep scopes: 0 to 7 regions, 8 to 16 layers, 32 to 79 links. -/
def sleepScopeOk (n : Nat) : Bool := n < 17
def droneScopeOk (n : Nat) : Bool := n < 17 || (32 ≤ n && n < 80)
/-- What a peg sequence recalibrates: a crossing of a channel, given by channel, boundary and direction
with the number of coils that newly need a spare (`sel` = direction + 2 × boundary + 32 × coils); a link;
a sensor (die × 324 + number); a regulator cell. -/
def pegOk : Peg → Nat → Nat → Bool
  | .coupler, c, sel => channelOk c && boundaryOk c (sel / 2 % 16)
  | .link, l, _ => linkOk l
  | .sensor, n, _ => n < 3564
  | .regulator, c, _ => cellOk c
/-- Live pairs of the rate limiter (R325). -/
def windowOk (n : Nat) : Bool := n < 512
def stopUnitOk : StopUnit → Bool
  | .frontEnd e => e < 5
  | .core c => coreOk c
/-- Trunk channel sites. -/
def trunkOk (t : Nat) : Bool := t < 84
/-- A 64-byte line of a physical bank. -/
def lineOk (r : LineRef) : Bool := layerOk r.player && pcolOk r.pcol && bankOk r.bank && r.line < 65536
/-- Units that stage 5 tests: cluster sites, routers, update units, core sites and columns, and the
vector lanes, array rows and array columns of core sites (*Table: Unit kinds*). -/
def unitRefOk (u : UnitRef) : Bool :=
  match u.kind with
  | 1 => u.index < 72
  | 2 => u.index < 1224
  | 3 => u.index < 1224
  | 6 => u.index < 72
  | 7 => u.index < 1224 && u.sub < 33
  | 8 => u.index < 1224 && u.sub < 66
  | 9 => u.index < 1224 && u.sub < 66
  | 10 => u.index < 72
  | _ => false
def peerOk : Option (Nat × Nat) → Bool
  | some (d, l) => deviceOk d && linkOk l
  | none => true
def hostReadOk : HostRead → Bool
  | .ring q => queueOk q
  | .copy q _ => queueOk q

/-- The command names only units that the hardware has. -/
def Instr.wf : Instr → Bool
  | .registerWrite fn _ _ _ _ => fnOk fn
  | .thruSlice player _ => layerOk player
  | .couplerFail chan boundary _ => channelOk chan && boundaryOk chan boundary
  | .coolantReversed _ _ _ _ => true
  | .inputVoltageStop _ => true
  | .inputVoltageRestart _ => true
  | .sqDb fn n _ => fnOk fn && queueOk n
  | .cqDb fn n _ => fnOk fn && queueOk n
  | .commandFetch q => queueOk q
  | .frontEndReject q => queueOk q
  | .dispatch q => queueOk q
  | .waitTimeout q => queueOk q
  | .joinReport q _ _ => queueOk q
  | .sigWrite fn w _ => fnOk fn && sigOk w
  | .nop q => queueOk q
  | .loadProgram q _ => queueOk q
  | .loadProgramWrite q _ lc => queueOk q && lcOk lc
  | .launch q _ => queueOk q
  | .start fn n _ => fnOk fn && queueOk n
  | .stop fn n _ => fnOk fn && queueOk n
  | .ringConfigWrite fn n _ _ _ => fnOk fn && queueOk n
  | .channelTransfer col _ _ _ => pcolOk col
  | .bankRead dpa => dpaOk dpa
  | .bankWrite dpa _ _ _ => dpaOk dpa
  | .fill q _ => queueOk q
  | .copy q _ => queueOk q
  | .scrub mib => mibOk mib
  | .hardFault dpa => dpaOk dpa
  | .saddleInstall player pcol bank => layerOk player && pcolOk pcol && bankOk bank
  | .evacStart _ => true
  | .evacLineCopy => true
  | .evacBankSwitch => true
  | .layerReset _ => true
  | .layerResetDone _ => true
  | .mmuInval _ => true
  | .mmuInvalDone => true
  | .poolGrant _ => true
  | .seqCreate q _ => queueOk q
  | .append q _ => queueOk q
  | .prefixLookup q _ => queueOk q
  | .prefixInsert q _ => queueOk q
  | .migrate q _ => queueOk q
  | .release q _ => queueOk q
  | .seqDestroy q _ => queueOk q
  | .pageReturn page => pageOk page
  | .thermalSteering sq _ => seqOk sq
  | .attend q _ => queueOk q
  | .select q _ => queueOk q
  | .attendSelected q _ => queueOk q
  | .attendIssueResume q _ => queueOk q
  | .fretWork q _ _ => queueOk q
  | .fretPartial q _ _ => queueOk q
  | .fretModeWrite _ => true
  | .arrayDone c _ => coreOk c
  | .dmaDone c tok => coreOk c && dmaTokOk tok
  | .add u _ _ _ => exuOk u
  | .sub u _ _ _ => exuOk u
  | .and u _ _ _ => exuOk u
  | .or u _ _ _ => exuOk u
  | .xor u _ _ _ => exuOk u
  | .sll u _ _ _ => exuOk u
  | .srl u _ _ _ => exuOk u
  | .sra u _ _ _ => exuOk u
  | .slt u _ _ _ => exuOk u
  | .sltu u _ _ _ => exuOk u
  | .min u _ _ _ => exuOk u
  | .max u _ _ _ => exuOk u
  | .mul u _ _ _ => exuOk u
  | .mulh u _ _ _ => exuOk u
  | .mulhu u _ _ _ => exuOk u
  | .div u _ _ _ => exuOk u
  | .divu u _ _ _ => exuOk u
  | .rem u _ _ _ => exuOk u
  | .remu u _ _ _ => exuOk u
  | .addi u _ _ _ => exuOk u
  | .andi u _ _ _ => exuOk u
  | .ori u _ _ _ => exuOk u
  | .xori u _ _ _ => exuOk u
  | .slli u _ _ _ => exuOk u
  | .srli u _ _ _ => exuOk u
  | .srai u _ _ _ => exuOk u
  | .slti u _ _ _ => exuOk u
  | .bcc u _ _ _ _ => exuOk u
  | .jal u _ _ _ => exuOk u
  | .jalr u _ _ _ => exuOk u
  | .li u _ _ _ => exuOk u
  | .lih u _ _ _ => exuOk u
  | .systemNop u => exuOk u
  | .endKernel u => exuOk u
  | .astr u _ => exuOk u
  | .astc u _ => exuOk u
  | .cycle u _ => exuOk u
  | .timeRead u _ => exuOk u
  | .ldb u _ _ _ => exuOk u
  | .ldh u _ _ _ => exuOk u
  | .ldw u _ _ _ => exuOk u
  | .ldd u _ _ _ => exuOk u
  | .stb u _ _ _ => exuOk u
  | .sth u _ _ _ => exuOk u
  | .stw u _ _ _ => exuOk u
  | .std u _ _ _ => exuOk u
  | .ldbu u _ _ _ => exuOk u
  | .ldhu u _ _ _ => exuOk u
  | .ldwu u _ _ _ => exuOk u
  | .vld u _ _ _ => exuOk u
  | .vst u _ _ _ => exuOk u
  | .vlds u _ _ _ => exuOk u
  | .vsts u _ _ _ => exuOk u
  | .vgather u _ _ _ => exuOk u
  | .vscatter u _ _ _ => exuOk u
  | .vadd u _ _ _ _ _ => exuOk u
  | .vsub u _ _ _ _ _ => exuOk u
  | .vmul u _ _ _ _ _ => exuOk u
  | .vand u _ _ _ _ _ => exuOk u
  | .vor u _ _ _ _ _ => exuOk u
  | .vxor u _ _ _ _ _ => exuOk u
  | .vsll u _ _ _ _ _ => exuOk u
  | .vsra u _ _ _ _ _ => exuOk u
  | .vmin u _ _ _ _ _ => exuOk u
  | .vmax u _ _ _ _ _ => exuOk u
  | .vfadd u _ _ _ _ _ => exuOk u
  | .vfsub u _ _ _ _ _ => exuOk u
  | .vfmul u _ _ _ _ _ => exuOk u
  | .vfma u _ _ _ _ _ => exuOk u
  | .vfmin u _ _ _ _ _ => exuOk u
  | .vfmax u _ _ _ _ _ => exuOk u
  | .vfabs u _ _ _ _ _ => exuOk u
  | .vfneg u _ _ _ _ _ => exuOk u
  | .vfdiv u _ _ _ _ _ => exuOk u
  | .vfsqrt u _ _ _ _ _ => exuOk u
  | .vexp2 u _ _ _ _ _ => exuOk u
  | .vrcp u _ _ _ _ _ => exuOk u
  | .vrsqrt u _ _ _ _ _ => exuOk u
  | .vfma2Bf16 u _ _ _ _ _ => exuOk u
  | .vfma2F16 u _ _ _ _ _ => exuOk u
  | .vfcmpEq u _ _ _ _ _ => exuOk u
  | .vfcmpLt u _ _ _ _ _ => exuOk u
  | .vfcmpLe u _ _ _ _ _ => exuOk u
  | .vicmpEq u _ _ _ _ _ => exuOk u
  | .vicmpLt u _ _ _ _ _ => exuOk u
  | .vsel u _ _ _ _ _ => exuOk u
  | .vbcast u _ _ _ _ _ => exuOk u
  | .vextr u _ _ _ _ _ => exuOk u
  | .vredsum u _ _ _ _ _ => exuOk u
  | .vredmax u _ _ _ _ _ => exuOk u
  | .vperm u _ _ _ _ _ => exuOk u
  | .vcvt u _ _ _ _ _ => exuOk u
  | .vwadd u _ _ _ _ _ => exuOk u
  | .vwcvt u _ _ _ _ _ => exuOk u
  | .pand u _ _ _ _ _ => exuOk u
  | .por u _ _ _ _ _ => exuOk u
  | .pxor u _ _ _ _ _ => exuOk u
  | .pnot u _ _ _ _ _ => exuOk u
  | .tld u _ _ => exuOk u
  | .tst u _ _ => exuOk u
  | .tbase u _ _ => exuOk u
  | .mac u _ _ _ _ _ _ _ _ => exuOk u
  | .l1 u _ _ _ _ _ _ _ _ => exuOk u
  | .l2sq u _ _ _ _ _ _ _ _ => exuOk u
  | .maxplus u _ _ _ _ _ _ _ _ => exuOk u
  | .minplus u _ _ _ _ _ _ _ _ => exuOk u
  | .cmpcnt u _ _ _ _ _ _ _ _ => exuOk u
  | .get u _ _ _ _ _ _ => exuOk u
  | .put u _ _ _ _ _ _ => exuOk u
  | .waitd u _ => exuOk u
  | .waita u _ => exuOk u
  | .fence u => exuOk u
  | .sigw u _ _ => exuOk u
  | .sigpSet u _ _ => exuOk u
  | .sigpAdd u _ _ => exuOk u
  | .sigr u _ _ => exuOk u
  | .bar u _ _ _ => exuOk u
  | .barrierRelease _ lc _ => lcOk lc
  | .dbell u _ _ _ => exuOk u
  | .doorbellArrival c => coreOk c
  | .dwait u _ _ => exuOk u
  | .stopt u => exuOk u
  | .update q _ => queueOk q
  | .updateStart q _ => queueOk q
  | .updateInvocationEnd u => unitOk u
  | .prologueStart q _ => queueOk q
  | .applyPassStart q _ => queueOk q
  | .ruleLimit u => unitOk u
  | .scheduleSet q _ => queueOk q
  | .groupWrite _ => true
  | .groupInvalidate _ => true
  | .pstoreWrite _ => true
  | .nocPacket r port arrivals _ _ => routerOk r && portOk port && arrivals.all (fun a => localPortOk a.1)
  | .packetAged r port => routerOk r && portOk port
  | .meshLinkFailed r dir => routerOk r && meshOk r dir
  | .routerBypass r => routerOk r
  | .routeChangeDone => true
  | .nocDrainTimeout r => routerOk r
  | .nocFallbackWrite _ => true
  | .fallbackExit => true
  | .clockStep half k => clockOk half k
  | .pllLock half => halfOk half
  | .dataFlit l _ _ _ => linkOk l
  | .nak l _ => linkOk l
  | .replayLimit l => linkOk l
  | .linkDegrade l _ => linkOk l
  | .linkRetrainDone l _ => linkOk l
  | .linkSwitchPacket _ => true
  | .unreachableNotice _ => true
  | .linkWatchdog l vc => linkOk l && vcOk vc
  | .activate _ => true
  | .retire _ => true
  | .prevRetired => true
  | .peerJoin l dev peerLink _ => linkOk l && deviceOk dev && linkOk peerLink
  | .linkCtrlRetrain l _ => linkOk l
  | .linkDisable l _ => linkOk l
  | .linkSend q _ => queueOk q
  | .linkSendSegment _ _ => true
  | .groupCreate q _ => queueOk q
  | .groupDestroy q _ => queueOk q
  | .collective q _ => queueOk q
  | .collectiveSegment _ _ => true
  | .segmentRetry _ => true
  | .peerLost part _ dev => partOk part && deviceOk dev
  | .colPeerDown _ => true
  | .collectiveTimeout g dev => groupOk g && deviceOk dev
  | .hold l => linkOk l
  | .holdTimeout l => linkOk l
  | .senseExclude pair _ => senseOk pair
  | .pdmVminClr _ => true
  | .vminReadLatch c => cellOk c
  | .droop site _ => siteOk site
  | .droopRelease site _ => siteOk site
  | .droopStepHoldEnd k => regionOk k
  | .curLimit _ site _ => siteOk site
  | .curLimitRelease _ site _ => siteOk site
  | .vrDegraded cell phase => siteOk cell && phaseOk phase
  | .nocCellFail cell => nocCellOk cell
  | .powerLoop _ _ _ => true
  | .collDeferEnd k => regionOk k
  | .energyAttribution _ _ parts queues cmds => parts.all (fun p => partOk p.1) && queues.all (fun q => queueOk q.1) && cmds.all (fun c => queueOk c.q)
  | .fretGrant pwr _ _ _ => decide (pwr.length ≤ 9)
  | .clkFixedWrite _ => true
  | .thermalLoop readings => readings.all (fun r => sensorOk r.index)
  | .sensorReadmit idx _ => sensorOk idx
  | .sensorDisagree site _ => siteOk site
  | .traySensor _ _ => true
  | .inletOutOfRange _ => true
  | .layerSuspect p _ => layerOk p
  | .suspectClear p _ => layerOk p
  | .thmSuspectWrite _ => true
  | .thetaUpdate _ _ => true
  | .flowPulse => true
  | .flowZero => true
  | .flowReducedEntry _ => true
  | .flowReducedExit _ => true
  | .flowLossEntry _ => true
  | .flowLossExit _ _ => true
  | .thermtrip die sensor _ _ => dieSensorOk die sensor
  | .traySensorRead _ _ => true
  | .powerOnReset _ => true
  | .fuseRead _ => true
  | .imageCheck => true
  | .railRaise _ cells => cells.all (fun c => cellOk c.1 && phaseOk c.2)
  | .couplerTraining faults retrained => faults.all coilOk && retrained.all channelOk
  | .dramTraining layers lines => layers.all layerOk && lines.lines.all lineOk && lines.retrained.all pcolOk
  | .logicalNumbering bad => bad.all unitRefOk
  | .routeTableFill bad => bad.all (fun m => routerOk (m / 4) && meshOk (m / 4) (m % 4))
  | .linkTraining links => links.all (fun t => linkOk t.link && peerOk t.peer)
  | .linkQualification l _ _ _ => linkOk l
  | .stage7Timeout => true
  | .ready => true
  | .coreReset _ => true
  | .clusterReset _ => true
  | .clusterDrainEnd => true
  | .partitionReset _ => true
  | .partitionDrainEnd p => partOk p
  | .soundboardIoReset _ => true
  | .soundboardIoResetDone => true
  | .deviceWarmReset _ => true
  | .partitionReload _ => true
  | .capoReload _ => true
  | .thermalReload _ => true
  | .traymapReload _ => true
  | .routeReload _ => true
  | .defectReload _ => true
  | .snap _ => true
  | .exportDataRead => true
  | .scheduledWake scope => sleepScopeOk scope
  | .wakeDone scope => sleepScopeOk scope
  | .linkIdle l => linkOk l
  | .sleep l => linkOk l
  | .refresh player pcol bank _ => layerOk player && pcolOk pcol && bankOk bank
  | .droneDeadline _ scope => droneScopeOk scope
  | .peg task idx sel => pegOk task idx sel
  | .clkSleepCtrlWrite _ => true
  | .eventRecord _ => true
  | .rateWindowClose n => windowOk n
  | .evtCfgWrite _ => true
  | .throttleN _ => true
  | .throttleStuck => true
  | .throttleChatterEnd => true
  | .cntSnap fn _ => fnOk fn
  | .dbgCntSnap _ => true
  | .traceConfigWrite _ _ _ => true
  | .traceEnable _ => true
  | .trig _ => true
  | .traceRecordWrite => true
  | .globalStop _ => true
  | .stopToken unit => stopUnitOk unit
  | .globalResume _ => true
  | .markProbe l => linkOk l
  | .probeRx l _ => linkOk l
  | .hostReadTimeout r => hostReadOk r
  | .vfFlr fn => vfOk fn
  | .pfFlr => true
  | .hotReset => true
  | .perstN => true
  | .pwrEnAssert _ => true
  | .pwrEnDeassert => true
  | .erase64k _ _ => true
  | .program _ _ => true
  | .nvmDone _ => true
  | .read _ => true
  | .write _ => true
  | .summary _ => true
  | .dynamicAddress _ => true
  | .updateUnitCheckFail u => unitOk u
  | .perstNDeassert => true
  | .pcieLinkReturn => true
  | .powerOnHoldoffEnd => true
  | .sleepEntryDone scope => sleepScopeOk scope
  | .idleFlit l _ => linkOk l

end Sys2Proof
end

