-- ==== Sys2Proof/Decode.lean ====
section
/-! DEFINITION. The decoder of the opcode table. The table gives no row any bits: a command reaches the
block as a command, not as a word. -/

namespace Sys2Proof

/-- The command that a word spells by the table's bits: none, because no row has bits. -/
def decodeTableWord (_nbits _w : Nat) : Option Instr := none

end Sys2Proof
end

