-- ==== Sys2Proof/Config.lean ====
section
/-! DEFINITION. The values that the manual leaves open: constants with no body, so that no proof can
see what they are (log entries 2 and 4). -/

namespace Sys2Proof

/-- The bits of a word of device memory that nothing has written, by memory loss and physical word
(R64). -/
opaque Config.unwrittenWord : Nat → Nat → Codeword

/-- A byte of a local store that nothing has written, by core and address. -/
opaque Config.unwrittenLocal : Nat → Nat → Byte

/-- A fresh undefined word, by draw (R38, R45, R63, R174). -/
opaque Config.freeWord : Nat → DWord

/-- A fresh choice between the old and the new contents of one unit, by draw and unit (R140, R174,
R88). -/
opaque Config.takesNew : Nat → Nat → Bool

/-- Whether a poisoned packet of a transfer carried a word, by draw and word (R212; log entry 112). -/
opaque Config.packetHit : Nat → Nat → Bool

/-- Which of the FP32 values within 1 ulp of the true one VRCP returns, by operand: modulo 3, the one
below, the value itself or the one above (*Table: Vector operations*). -/
opaque Config.rcpChoice : Word → Nat

/-- Which of the FP32 values within 1 ulp of the true one VRSQRT returns, by operand. -/
opaque Config.rsqrtChoice : Word → Nat

/-- What the HR4 conversion of a block that holds a NaN gives, by the rotated block: the scale code at
index 64, the element codes at 0 to 63 (R108 states none). -/
opaque Config.hr4Nan : List Word → Nat → Nat

/-- A byte of the opaque records of a training snapshot, by capture and offset (R291, R309). -/
opaque Config.snapshotByte : Nat → Nat → Byte

/-- The snapshot revision that the part supports (R291). -/
opaque Config.snapshotRevision : Word

/-- Whether the record of a unit in a training payload passes its own check, by the number that the payload's
bytes spell and the unit's kind and index: 3 the couplers of a column, 11 those of a trunk site, 5 the memory
channel of a column, 12 a link (R291). -/
opaque Config.trainRecordOk : Nat → Nat → Nat → Bool

/-- The length of a training snapshot, by capture; the model keeps it at most 16 MiB − 1 KiB (R309). -/
opaque Config.snapshotLen : Nat → Nat

/-- The 380 V input thresholds of the part, in 0.1 V: 0 start, 1 under-voltage stop, 2 over-voltage
stop, 3 over-voltage restart; used within the bounds of *Table: 380 V input thresholds* (R17). -/
opaque Config.inputThreshold : Nat → Nat

/-- The cluster site whose router serves a unit of the soundboard or a front end, by unit number; the
manual states none. -/
opaque Config.attachSite : Nat → Nat

/-- The distance-table entry of a pair of sites with no route, by generation and entry. -/
opaque Config.unroutedDist : Nat → Nat → Nat

end Sys2Proof
end

