-- ==== Sys2Proof/Machine/Float.lean ====
section
/-! DEFINITION. Floating-point formats and their arithmetic, computed exactly and rounded once
(R120, R157, R159, R168, *Table: Floating-point encodings*). -/

namespace Sys2Proof.Machine

/-- A value read from a code: NaN, an infinity, or ±m·2^e exactly. -/
inductive FVal where
  | nan
  | inf (neg : Bool)
  | fin (neg : Bool) (m : Nat) (e : Int)
  deriving DecidableEq, Repr

/-- Which codes of a format are special: none, only S.1111.111, or the IEEE 754 ones. -/
inductive FSpecial where
  | none | topNan | ieee
  deriving DecidableEq, Repr

/-- A floating-point format: exponent and mantissa bits, special codes, and the codes that a
conversion writes on finite overflow, for an infinity and for a NaN. -/
structure Fmt where
  eb : Nat
  mb : Nat
  special : FSpecial
  maxFin : Nat
  overflow : Nat
  infCode : Nat
  nanCode : Nat
  /-- Sign 1 with all other bits 0 is −0 (R157). -/
  negZero : Bool
  deriving DecidableEq, Repr

def fmtE2M1 : Fmt := ⟨2, 1, .none, 0x7, 0x7, 0x7, 0, false⟩
def fmtE2M3 : Fmt := ⟨2, 3, .none, 0x1F, 0x1F, 0x1F, 0, false⟩
def fmtE3M2 : Fmt := ⟨3, 2, .none, 0x1F, 0x1F, 0x1F, 0, false⟩
def fmtE4M3 : Fmt := ⟨4, 3, .topNan, 0x7E, 0x7E, 0x7E, 0x7F, false⟩
def fmtE5M2 : Fmt := ⟨5, 2, .ieee, 0x7B, 0x7B, 0x7C, 0x7E, false⟩
def fmtF16 : Fmt := ⟨5, 10, .ieee, 0x7BFF, 0x7C00, 0x7C00, 0x7E00, true⟩
def fmtBF16 : Fmt := ⟨8, 7, .ieee, 0x7F7F, 0x7F80, 0x7F80, 0x7FC0, true⟩
def fmtF32 : Fmt := ⟨8, 23, .ieee, 0x7F7FFFFF, 0x7F800000, 0x7F800000, 0x7FC00000, true⟩

def Fmt.bias (f : Fmt) : Nat := 2 ^ (f.eb - 1) - 1
/-- Width in bits. -/
def Fmt.width (f : Fmt) : Nat := 1 + f.eb + f.mb
/-- The exponent of the lowest bit of a subnormal. -/
def Fmt.low (f : Fmt) : Int := 1 - (f.bias : Int) - (f.mb : Int)

/-- Read a code (R157). -/
def fdec (f : Fmt) (code : Nat) : FVal :=
  let neg := code.testBit (f.eb + f.mb)
  let ex := code / 2 ^ f.mb % 2 ^ f.eb
  let ma := code % 2 ^ f.mb
  let top := ex == 2 ^ f.eb - 1
  if f.special = .ieee ∧ top then (if ma = 0 then .inf neg else .nan)
  else if f.special = .topNan ∧ top ∧ ma = 2 ^ f.mb - 1 then .nan
  else if ex = 0 then .fin (neg && (f.negZero || ma != 0)) ma f.low
  else .fin neg (2 ^ f.mb + ma) (f.low + (ex - 1 : Nat))

/-- Divide by 2^sh, rounding to nearest even. -/
def rneShift (m sh : Nat) : Nat :=
  let q := m / 2 ^ sh
  let r := m % 2 ^ sh
  if 2 * r < 2 ^ sh then q else if 2 ^ sh < 2 * r then q + 1 else q + q % 2

/-- The magnitude code of m·2^e, m > 0, by a rounding of the shifted significand; overflow not yet
judged. -/
def magCode (f : Fmt) (rnd : Nat → Nat → Nat) (m : Nat) (e : Int) : Nat :=
  let q : Int := max (e + (Nat.log2 m : Int) - (f.mb : Int)) f.low
  let sig := if q ≤ e then m * 2 ^ (e - q).toNat else rnd m (q - e).toNat
  (q - f.low).toNat * 2 ^ f.mb + sig

/-- A code with its sign. -/
def withSign (f : Fmt) (neg : Bool) (code : Nat) : Nat := if neg then code + 2 ^ (f.eb + f.mb) else code

/-- Round a value to a format, to nearest even (*Table: Conversion to narrower formats*). -/
def fround (f : Fmt) : FVal → Nat
  | .nan => f.nanCode
  | .inf neg => withSign f neg f.infCode
  | .fin neg m e =>
    if m = 0 then withSign f (neg && f.negZero) 0
    else
      let c := magCode f rneShift m e
      if f.maxFin < c then withSign f neg f.overflow
      else withSign f (neg && (f.negZero || c != 0)) c

/-- The signed integer of a finite value, scaled to exponent `e0 ≤ e`. -/
def scaled (neg : Bool) (m : Nat) (e e0 : Int) : Int :=
  let v : Int := (m : Int) * 2 ^ (e - e0).toNat
  if neg then -v else v

/-- The exact sum (IEEE 754: an exact zero is +0 unless both are −0). -/
def exAdd : FVal → FVal → FVal
  | .nan, _ => .nan
  | _, .nan => .nan
  | .inf a, .inf b => if a = b then .inf a else .nan
  | .inf a, .fin _ _ _ => .inf a
  | .fin _ _ _, .inf b => .inf b
  | .fin n1 m1 e1, .fin n2 m2 e2 =>
    let e0 := min e1 e2
    let v := scaled n1 m1 e1 e0 + scaled n2 m2 e2 e0
    if v = 0 then .fin (n1 && n2 && m1 == 0 && m2 == 0) 0 0 else .fin (decide (v < 0)) v.natAbs e0

/-- The value with its sign changed. -/
def exNeg : FVal → FVal
  | .nan => .nan
  | .inf n => .inf (!n)
  | .fin n m e => .fin (!n) m e

/-- The exact product. -/
def exMul : FVal → FVal → FVal
  | .nan, _ => .nan
  | _, .nan => .nan
  | .inf a, .inf b => .inf (a != b)
  | .inf a, .fin b m _ => if m = 0 then .nan else .inf (a != b)
  | .fin a m _, .inf b => if m = 0 then .nan else .inf (a != b)
  | .fin n1 m1 e1, .fin n2 m2 e2 => .fin (n1 != n2) (m1 * m2) (e1 + e2)

/-- The quotient, exact but for a last bit that stands for the remainder. -/
def exDiv : FVal → FVal → FVal
  | .nan, _ => .nan
  | _, .nan => .nan
  | .inf _, .inf _ => .nan
  | .inf a, .fin b _ _ => .inf (a != b)
  | .fin a _ _, .inf b => .fin (a != b) 0 0
  | .fin n1 m1 e1, .fin n2 m2 e2 =>
    if m2 = 0 then (if m1 = 0 then .nan else .inf (n1 != n2))
    else if m1 = 0 then .fin (n1 != n2) 0 0
    else
      let k := 72 + Nat.log2 m2
      let num := m1 * 2 ^ k
      .fin (n1 != n2) (2 * (num / m2) + (if num % m2 = 0 then 0 else 1)) (e1 - e2 - (k : Int) - 1)

/-- The integer square root of a number below 4^n, bit by bit. -/
def isqrtTo (v : Nat) : Nat → Nat → Nat
  | 0, r => r
  | n + 1, r =>
    let r' := r + 2 ^ n
    isqrtTo v n (if r' * r' ≤ v then r' else r)

/-- The integer square root. -/
def isqrt (v : Nat) : Nat := isqrtTo v (Nat.log2 v / 2 + 1) 0

/-- The square root, exact but for a last bit that stands for the remainder. -/
def exSqrt : FVal → FVal
  | .nan => .nan
  | .inf neg => if neg then .nan else .inf false
  | .fin neg m e =>
    if m = 0 then .fin neg 0 0
    else if neg then .nan
    else
      let odd := e % 2 != 0
      let m := (if odd then 2 * m else m) * 2 ^ 144
      let e := (if odd then e - 1 else e) - 144
      let r := isqrt m
      .fin false (2 * r + (if r * r = m then 0 else 1)) (e / 2 - 1)

/-- Compare two values: none when either is NaN. -/
def fcmp : FVal → FVal → Option Ordering
  | .nan, _ => none
  | _, .nan => none
  | .inf a, .inf b => some (if a = b then .eq else if a then .lt else .gt)
  | .inf a, .fin _ _ _ => some (if a then .lt else .gt)
  | .fin _ _ _, .inf b => some (if b then .gt else .lt)
  | .fin n1 m1 e1, .fin n2 m2 e2 =>
    let e0 := min e1 e2
    some (compare (scaled n1 m1 e1 e0) (scaled n2 m2 e2 e0))

/-- Whether the sign of a value is set. -/
def fneg : FVal → Bool
  | .nan => false
  | .inf n => n
  | .fin n _ _ => n

/-- The smaller or larger of two values; NaN when either is NaN, and −0 below +0. -/
def exMinMax (max : Bool) (a b : FVal) : FVal :=
  match fcmp a b with
  | none => .nan
  | some .lt => if max then b else a
  | some .gt => if max then a else b
  | some .eq => if fneg a = max then b else a

/-! ## FP32 operations (R119, R168) -/

def dec32 (w : Word) : FVal := fdec fmtF32 w.toNat
def enc32 (v : FVal) : Word := BitVec.ofNat 32 (fround fmtF32 v)

def fadd (a b : Word) : Word := enc32 (exAdd (dec32 a) (dec32 b))
def fsub (a b : Word) : Word := enc32 (exAdd (dec32 a) (exNeg (dec32 b)))
def fmul (a b : Word) : Word := enc32 (exMul (dec32 a) (dec32 b))
def ffma (a b c : Word) : Word := enc32 (exAdd (exMul (dec32 a) (dec32 b)) (dec32 c))
def fdiv (a b : Word) : Word := enc32 (exDiv (dec32 a) (dec32 b))
def fsqrt (a : Word) : Word := enc32 (exSqrt (dec32 a))
def fmin (a b : Word) : Word := enc32 (exMinMax false (dec32 a) (dec32 b))
def fmax (a b : Word) : Word := enc32 (exMinMax true (dec32 a) (dec32 b))
def flt (a b : Word) : Bool := fcmp (dec32 a) (dec32 b) == some .lt
def fle (a b : Word) : Bool := fcmp (dec32 a) (dec32 b) == some .lt || fcmp (dec32 a) (dec32 b) == some .eq
def feq (a b : Word) : Bool := fcmp (dec32 a) (dec32 b) == some .eq
def fisNan (a : Word) : Bool := dec32 a == .nan
/-- Finite. -/
def ffinite (a : Word) : Bool :=
  match dec32 a with
  | .fin _ _ _ => true
  | _ => false

/-- The fused multiply-add of a 16-bit format, one rounding (*Table: Vector operations*). -/
def fma16 (f : Fmt) (a b c : Half) : Half :=
  BitVec.ofNat 16 (fround f (exAdd (exMul (fdec f a.toNat) (fdec f b.toNat)) (fdec f c.toNat)))

/-- One round of a balanced tree over pairs; an odd last element stays (its partner is missing). -/
def pairUp {α : Type} (f : α → α → α) : List α → List α
  | a :: b :: t => f a b :: pairUp f t
  | l => l

/-- A balanced binary tree: pairs (0, 1), (2, 3) and so on, then pairs of pairs. -/
def treeFold {α : Type} (f : α → α → α) : Nat → List α → List α
  | 0, l => l
  | n + 1, l => treeFold f n (pairUp f l)

/-- The FP32 sum of 2^n words by a balanced binary tree. -/
def fsumTree (n : Nat) (l : List Word) : Word := (treeFold fadd n l).headD 0

/-! ## exp2 (R120) -/

def f32One : Word := 0x3F800000#32
def f32NegInf : Word := 0xFF800000#32
def log2e : Word := 0x3FB8AA3B#32
def twoLog2e : Word := 0x4038AA3B#32
def expC1 : Word := 0x3F317218#32
def expC2 : Word := 0x3E75FDF0#32
def expC3 : Word := 0x3D635847#32
def expC4 : Word := 0x3C1D955B#32

/-- T[k] = RNE(2^(k/64)): the 64th root of 2^(k + 64·40) is six integer square roots. -/
def expT (k : Nat) : Word :=
  let m := isqrt (isqrt (isqrt (isqrt (isqrt (isqrt (2 ^ (k + 2560)))))))
  enc32 (.fin false (2 * m + (if k = 0 then 0 else 1)) (-41))

/-- A fused multiply and add with an exact multiplier: one rounding. -/
def fmaExact (a : Word) (r : FVal) (c : Word) : Word := enc32 (exAdd (exMul (dec32 a) r) (dec32 c))

/-- exp2 of a finite argument −150 ≤ v/2^d < 128; f and r are exact, of any length. -/
def exp2Of (v : Int) (d : Nat) : Word :=
  let one : Int := 2 ^ d
  let n := v / one
  let fr := (v - n * one).toNat
  let k := 64 * fr / 2 ^ d
  let r : FVal := .fin false (64 * fr - k * 2 ^ d) (-((d : Int) + 6))
  let p := fmaExact expC4 r expC3
  let p := fmaExact p r expC2
  let p := fmaExact p r expC1
  let p := fmaExact p r f32One
  let y := fmul (expT k) p
  enc32 (exMul (dec32 y) (.fin false 1 n))

/-- exp2 of an FP32 value, to the rounding of every step (R120). -/
def fexp2 (x : Word) : Word :=
  match dec32 x with
  | .nan => enc32 .nan
  | .inf neg => if neg then 0 else enc32 (.inf false)
  | .fin neg m e =>
    if fle 0x43000000#32 x then enc32 (.inf false)
    else if flt x 0xC3160000#32 then 0
    else
      let d := (-e).toNat
      let v : Int := (m : Int) * 2 ^ e.toNat
      exp2Of (if neg then -v else v) d

/-- The sign of `y` applied to a magnitude. -/
def withSignOf (y v : Word) : Word := (v &&& 0x7FFFFFFF#32) ||| (y &&& 0x80000000#32)

/-- tanh_f (R119). -/
def ftanh (y : Word) : Word :=
  let a := y &&& 0x7FFFFFFF#32
  if fisNan y then enc32 .nan
  else if flt a 0x39800000#32 then y
  else if fle 0x41100000#32 a then withSignOf y f32One
  else
    let u := fexp2 (fmul a twoLog2e ^^^ 0x80000000#32)
    withSignOf y (fdiv (fsub f32One u) (fadd f32One u))

/-! ## VRCP and VRSQRT (*Table: Vector operations*): any FP32 value within 1 ulp -/

/-- Truncate a shifted significand. -/
def truncShift (m sh : Nat) : Nat := m / 2 ^ sh

/-- Whether a value is an FP32 value. -/
def exact32 (m : Nat) (e : Int) : Bool :=
  let q : Int := max (e + (Nat.log2 m : Int) - 23) fmtF32.low
  q ≤ e || m % 2 ^ (q - e).toNat == 0

/-- An FP32 value within 1 ulp of a value: its neighbour or neighbours, by a choice. -/
def within1 (c : Nat) : FVal → Word
  | .fin neg m e =>
    if m = 0 then enc32 (.fin neg 0 0)
    else
      let lo := magCode fmtF32 truncShift m e
      let v := if exact32 m e then (if c % 3 = 0 then lo - 1 else if c % 3 = 1 then lo else lo + 1)
               else if c % 3 = 0 then lo else lo + 1
      BitVec.ofNat 32 (withSign fmtF32 neg (min v fmtF32.infCode))
  | v => enc32 v

def frcp (a : Word) : Word := within1 (Config.rcpChoice a) (exDiv (dec32 f32One) (dec32 a))

/-- The reciprocal square root: of ±0 it is ±∞ (log entry 20). -/
def frsqrt (a : Word) : Word :=
  match dec32 a with
  | .inf true => enc32 .nan
  | .fin neg 0 _ => enc32 (.inf neg)
  | v => within1 (Config.rsqrtChoice a) (exSqrt (exDiv (dec32 f32One) v))

end Sys2Proof.Machine
end

