-- ==== Sys2Proof/Machine/Sparse.lean ====
section
/-! DEFINITION. Sparse tables as plain data: lists of (key, entry) pairs with strictly rising keys.
A table with a default lists no entry equal to it, so that equal tables are equal lists. -/

namespace Sys2Proof.Machine

/-- A table by key: pairs in strictly rising order of the key. -/
abbrev Sparse (α : Type) := List (Nat × α)

variable {α : Type}

/-- The entry listed under a key, if any. -/
def slook : Sparse α → Nat → Option α
  | [], _ => none
  | (k', v) :: t, k => if k = k' then some v else slook t k

/-- List an entry under a key, in its place. -/
def sins : Sparse α → Nat → α → Sparse α
  | [], k, v => [(k, v)]
  | (k', v') :: t, k, v =>
    if k < k' then (k, v) :: (k', v') :: t
    else if k = k' then (k, v) :: t
    else (k', v') :: sins t k v

/-- Unlist the entry of a key. -/
def sdel : Sparse α → Nat → Sparse α
  | [], _ => []
  | (k', v') :: t, k => if k = k' then sdel t k else (k', v') :: sdel t k

/-- The entry of a key in a table with default `d`. -/
def sget (d : α) (m : Sparse α) (k : Nat) : α := (slook m k).getD d

/-- Set the entry of a key in a table with default `d`: the default is not listed. -/
def sput [DecidableEq α] (d : α) (m : Sparse α) (k : Nat) (v : α) : Sparse α :=
  if v = d then sdel m k else sins m k v

/-- The keys rise strictly. -/
def sorted : Sparse α → Bool
  | [] => true
  | [_] => true
  | (k, _) :: (k', v') :: t => decide (k < k') && sorted ((k', v') :: t)

/-- The canonical form of a table with default `d`. -/
def swf [DecidableEq α] (d : α) (m : Sparse α) : Bool :=
  sorted m && m.all (fun p => decide (p.2 ≠ d))

end Sys2Proof.Machine
end

