-- ==== Sys2Proof/Machine/RegMap.lean ====
section
/-! DEFINITION. The register fields of the manual's field tables: where each lies, its width, its
access code and its reset value. Each field has ONE home, named by its key; a register word is the
view assembled from its fields. Registers that the manual lists by name only (no offset) and the
counters of BAR2 stand at offsets outside BAR0 (log entry 6). -/

namespace Sys2Proof.Machine

/-- The home of one register field: its key (byte offset of its register times 128, plus its low
bit), its width in bits and its reset value. -/
structure Fld where
  key : Nat
  width : Nat
  reset : Nat
  deriving DecidableEq, Repr

/-- The access codes of *Table: Register access codes* (R4) that the field tables use. -/
inductive Acc where
  | ro | rw | wo | w1c | rwl
  deriving DecidableEq, Repr

/-- A field of a register, at the register's first instance. -/
structure FldDesc where
  fld : Fld
  acc : Acc
  deriving DecidableEq, Repr

/-- A register of a register list: BAR0 offset of its first instance, width in bits, and for each
index its (stride, count). -/
structure RegDesc where
  name : String
  off : Nat
  width : Nat
  dims : List (Nat × Nat)
  flds : List FldDesc
  deriving DecidableEq, Repr

/-- Reset values that differ by index: CAPO_DEFDECL (*Table: Default declarations*) and
PART_CFG.EN of partition 0 (*Table: PART_CFG fields*). -/
def resetOverrides : List (Nat × Nat) :=
  [
   (16786432, 5000), (16787456, 1000), (16785440, 25000), (16786464, 2000), (16787488, 50), (16788512, 1000), (67108864, 1)]

/-- The reset value of the field with a key: the override of an indexed register, else the table's. -/
def resetOf (key base : Nat) : Nat :=
  match resetOverrides.find? (fun p => p.1 == key) with
  | some p => p.2
  | none => base

/-- The same field of an instance `delta` bytes further on. -/
def Fld.shift (f : Fld) (delta : Nat) : Fld :=
  { key := f.key + delta * 128, width := f.width, reset := resetOf (f.key + delta * 128) f.reset }

namespace F

def QCTL_QOWN_PART (i : Nat) : Fld := Fld.shift ⟨134217728, 4, 0⟩ (4 * i)
def QCTL_QOWN_ENGINE (i : Nat) : Fld := Fld.shift ⟨134217732, 3, 0⟩ (4 * i)
def QCTL_QOWN_EXPRESS (i : Nat) : Fld := Fld.shift ⟨134217735, 1, 0⟩ (4 * i)
def QCTL_QOWN_VALID (i : Nat) : Fld := Fld.shift ⟨134217736, 1, 0⟩ (4 * i)
def QCTL_QOWN_WEIGHT (i : Nat) : Fld := Fld.shift ⟨134217744, 8, 1⟩ (4 * i)
def QCTL_EXPRESS_CNT : Fld := ⟨134742016, 4, 0⟩
def QCTL_DBERR_SUM (i : Nat) : Fld := Fld.shift ⟨134758400, 32, 0⟩ (4 * i)
def MEM_LAYER_MAP_L0 : Fld := ⟨402653184, 4, 0⟩
def MEM_LAYER_MAP_L1 : Fld := ⟨402653188, 4, 1⟩
def MEM_LAYER_MAP_L2 : Fld := ⟨402653192, 4, 2⟩
def MEM_LAYER_MAP_L3 : Fld := ⟨402653196, 4, 3⟩
def MEM_LAYER_MAP_L4 : Fld := ⟨402653200, 4, 5⟩
def MEM_LAYER_MAP_L5 : Fld := ⟨402653204, 4, 6⟩
def MEM_LAYER_MAP_L6 : Fld := ⟨402653208, 4, 7⟩
def MEM_LAYER_MAP_L7 : Fld := ⟨402653212, 4, 8⟩
def MEM_SPARE_PHYS : Fld := ⟨402653696, 4, 4⟩
def MEM_SPARE_AVAIL : Fld := ⟨402653700, 1, 1⟩
def MEM_SPARE_FAILED : Fld := ⟨402653704, 4, 0⟩
def MEM_SPARE_FAILED_VALID : Fld := ⟨402653708, 1, 0⟩
def MEM_SPARE_PREF : Fld := ⟨402653709, 4, 4⟩
def MEM_EVAC_CTRL_LLAYER : Fld := ⟨402655232, 3, 0⟩
def MEM_EVAC_CTRL_START : Fld := ⟨402655240, 1, 0⟩
def MEM_EVAC_STATUS_STATE : Fld := ⟨402655744, 2, 0⟩
def MEM_EVAC_STATUS_REFUSED : Fld := ⟨402655746, 1, 0⟩
def MEM_EVAC_STATUS_UE_WORDS : Fld := ⟨402655760, 16, 0⟩
def MEM_EVAC_MARK_LINE : Fld := ⟨402656256, 16, 0⟩
def MEM_EVAC_MARK_BANK : Fld := ⟨402656272, 2, 0⟩
def MEM_EVAC_MARK_COLUMN : Fld := ⟨402656274, 10, 0⟩
def MEM_LRST_CTRL_PLAYER : Fld := ⟨402657280, 4, 0⟩
def MEM_LRST_CTRL_RESET : Fld := ⟨402657288, 1, 0⟩
def MEM_LRST_STATUS_BUSY : Fld := ⟨402657792, 1, 0⟩
def MEM_LRST_STATUS_FAILED : Fld := ⟨402657793, 1, 0⟩
def MEM_LRST_STATUS_COUNT : Fld := ⟨402657808, 16, 0⟩
def MEM_SCRUB_CTRL_EN : Fld := ⟨402659328, 1, 1⟩
def MEM_SCRUB_CTRL_PERIOD_MS : Fld := ⟨402659344, 16, 1000⟩
def MEM_SCRUB_STATUS_PASSES : Fld := ⟨402659840, 32, 0⟩
def MEM_CE_CNT : Fld := ⟨402661376, 64, 0⟩
def MEM_UE_CNT : Fld := ⟨402662400, 64, 0⟩
def MEM_CRC_RETRY_CNT : Fld := ⟨402663424, 64, 0⟩
def MEM_CRC_FAIL_CNT : Fld := ⟨402664448, 64, 0⟩
def MEM_SADDLE_SEL_PLAYER : Fld := ⟨402665472, 4, 0⟩
def MEM_SADDLE_SEL_PCOL : Fld := ⟨402665476, 11, 0⟩
def MEM_SADDLE_SEL_BANK : Fld := ⟨402665488, 2, 0⟩
def MEM_SADDLE_ENTRY_LINE (i : Nat) : Fld := Fld.shift ⟨402669568, 16, 0⟩ (4 * i)
def MEM_SADDLE_ENTRY_VALID (i : Nat) : Fld := Fld.shift ⟨402669584, 1, 0⟩ (4 * i)
def MEM_SADDLE_ENTRY_ORIGIN (i : Nat) : Fld := Fld.shift ⟨402669585, 1, 0⟩ (4 * i)
def MEM_SADDLE_ENTRY_POISONED (i : Nat) : Fld := Fld.shift ⟨402669586, 1, 0⟩ (4 * i)
def MEM_RETIRED_CNT : Fld := ⟨402673664, 9, 0⟩
def MEM_RETIRED_VALID (i : Nat) : Fld := Fld.shift ⟨403177472, 1, 0⟩ (8 * i)
def MEM_RETIRED_FRAME (i : Nat) : Fld := Fld.shift ⟨403177484, 25, 0⟩ (8 * i)
def MEM_COLMAP_PCOL (i : Nat) : Fld := Fld.shift ⟨403701760, 11, 0⟩ (4 * i)
def MEM_COLMAP_VALID (i : Nat) : Fld := Fld.shift ⟨403701791, 1, 0⟩ (4 * i)
def MEM_SCRUB_MAP (i : Nat) : Fld := Fld.shift ⟨411041792, 32, 0⟩ (4 * i)
def MMU_CTX_VALID (i : Nat) : Fld := Fld.shift ⟨268435456, 1, 0⟩ (16 * i)
def MMU_CTX_PART (i : Nat) : Fld := Fld.shift ⟨268435457, 4, 0⟩ (16 * i)
def MMU_CTX_ROOT (i : Nat) : Fld := Fld.shift ⟨268435469, 27, 0⟩ (16 * i)
def MMU_INVAL_CTX : Fld := ⟨276824064, 12, 0⟩
def MMU_INVAL_ALL : Fld := ⟨276824076, 1, 0⟩
def MMU_INVAL_LOG2LEN : Fld := ⟨276824077, 5, 0⟩
def MMU_INVAL_VA : Fld := ⟨276824082, 46, 0⟩
def MMU_INVAL_STATUS_BUSY : Fld := ⟨276825088, 1, 0⟩
def MMU_PE_BASE_DPA : Fld := ⟨276826112, 40, 0⟩
def MMU_PE_SIZE_MIB : Fld := ⟨276827136, 16, 0⟩
def MMU_TREE_CFG_LOG2 : Fld := ⟨276827648, 5, 16⟩
def MMU_SEQ_SEL_SEQ : Fld := ⟨276828160, 16, 0⟩
def MMU_SEQ_CNT : Fld := ⟨276828672, 17, 0⟩
def MMU_STEER_CTRL_EN : Fld := ⟨276830208, 1, 1⟩
def MMU_STEER_CTRL_RATE : Fld := ⟨276830224, 16, 64⟩
def MMU_LAYER_HOT : Fld := ⟨276830720, 8, 0⟩
def MMU_QUAR_CNT : Fld := ⟨276831232, 32, 0⟩
def MMU_FAULT_CNT : Fld := ⟨276831744, 32, 0⟩
def MMU_POOL_GRANT0_BYTE_LO : Fld := ⟨276832256, 11, 0⟩
def MMU_POOL_GRANT0_BYTE_HI : Fld := ⟨276832272, 12, 0⟩
def MMU_POOL_GRANT1_COL_LO : Fld := ⟨276832768, 10, 0⟩
def MMU_POOL_GRANT1_COL_HI : Fld := ⟨276832778, 10, 0⟩
def MMU_POOL_GRANT1_BANK_MASK : Fld := ⟨276832788, 4, 0⟩
def MMU_POOL_GRANT1_LAYER : Fld := ⟨276832792, 3, 0⟩
def MMU_POOL_GRANT1_PART : Fld := ⟨276832795, 4, 0⟩
def MMU_POOL_GRANT1_GO : Fld := ⟨276832799, 1, 0⟩
def MMU_POOL_STATUS_BUSY : Fld := ⟨276834304, 1, 0⟩
def MMU_POOL_STATUS_GRANT_ERR : Fld := ⟨276834305, 1, 0⟩
def MMU_POOL_STATUS_PE_OFF : Fld := ⟨276834306, 1, 0⟩
def MMU_PART_KV_PAGE_LOG2 (i : Nat) : Fld := Fld.shift ⟨276840448, 5, 16⟩ (4 * i)
def MMU_PART_KV_DOMAIN (i : Nat) : Fld := Fld.shift ⟨276840456, 6, 0⟩ (4 * i)
def MMU_POOL_FREE (i j : Nat) : Fld := Fld.shift ⟨276856832, 23, 0⟩ (32 * i + 4 * j)
def MMU_SEQ_ENTRY (i : Nat) : Fld := Fld.shift ⟨276955136, 32, 0⟩ (4 * i)
def MMU_DOMAIN_KEY_KEY (i : Nat) : Fld := Fld.shift ⟨277348352, 128, 0⟩ (16 * i)
def FRET_BUDGET_TOTAL_W : Fld := ⟨536870912, 16, 450⟩
def FRET_BUDGET_LAYER_W : Fld := ⟨536870928, 8, 70⟩
def FRET_MODE_EN : Fld := ⟨536871424, 1, 1⟩
def FRET_MODE_FIXED : Fld := ⟨536871425, 1, 0⟩
def FRET_MODE_FIXED_TBPS : Fld := ⟨536871432, 8, 120⟩
def FRET_GRANT_TOTAL_W : Fld := ⟨536871936, 16, 0⟩
def FRET_GRANT_RATE_TBPS : Fld := ⟨536871952, 16, 0⟩
def FRET_STATUS_LIMITED : Fld := ⟨536872448, 8, 0⟩
def FRET_STATUS_BUDGET : Fld := ⟨536872456, 1, 0⟩
def FRET_STATUS_FIXED_ACTIVE : Fld := ⟨536872457, 1, 0⟩
def FRET_LAYER_PWR_PWR (i : Nat) : Fld := Fld.shift ⟨536872960, 12, 0⟩ (4 * i)
def FRET_LAYER_PWR_SPARE (i : Nat) : Fld := Fld.shift ⟨536872972, 1, 0⟩ (4 * i)
def FRET_ITEMS : Fld := ⟨536879104, 64, 0⟩
def FRET_HELD_NS : Fld := ⟨536880128, 64, 0⟩
def FRET_UE_ITEMS : Fld := ⟨536881152, 32, 0⟩
def UPD_REGION_BASE_BASE : Fld := ⟨671088660, 20, 0⟩
def UPD_SCHED_BASE_DPA : Fld := ⟨671089664, 40, 524288⟩
def UPD_CFG_EN : Fld := ⟨671090688, 1, 0⟩
def UPD_CFG_MAX_INSTR : Fld := ⟨671090704, 16, 4096⟩
def UPD_GROUP_SEL_GROUP : Fld := ⟨671091200, 12, 0⟩
def UPD_GROUP_CMD_WRITE : Fld := ⟨671091712, 1, 0⟩
def UPD_GROUP_CMD_INVALIDATE : Fld := ⟨671091713, 1, 0⟩
def UPD_GROUP_STATUS_BUSY : Fld := ⟨671092224, 1, 0⟩
def UPD_GROUP_STATUS_ERR : Fld := ⟨671092225, 1, 0⟩
def UPD_GROUP_STATUS_ERR_CODE : Fld := ⟨671092228, 4, 0⟩
def UPD_GROUP_STATUS_VALID_CNT : Fld := ⟨671092240, 13, 0⟩
def UPD_PSTORE_ADDR_ADDR : Fld := ⟨671092738, 13, 0⟩
def UPD_PSTORE_DATA_DATA : Fld := ⟨671093248, 32, 0⟩
def UPD_GROUP_DATA (i : Nat) : Fld := Fld.shift ⟨671105024, 32, 0⟩ (4 * i)
def UPD_UNIT_STATUS_STATE (i : Nat) : Fld := Fld.shift ⟨671154176, 2, 0⟩ (4 * i)
def UPD_UNIT_STATUS_LC (i : Nat) : Fld := Fld.shift ⟨671154184, 6, 0⟩ (4 * i)
def UPD_UNIT_STATUS_LC_VALID (i : Nat) : Fld := Fld.shift ⟨671154190, 1, 0⟩ (4 * i)
def UPD_UNIT_STATUS_EXC_CNT (i : Nat) : Fld := Fld.shift ⟨671154192, 16, 0⟩ (4 * i)
def UPD_BLOCKS : Fld := ⟨671219712, 64, 0⟩
def UPD_FLIPS : Fld := ⟨671220736, 64, 0⟩
def UPD_NOFLIP : Fld := ⟨671221760, 32, 0⟩
def UPD_FROZEN_CNT : Fld := ⟨671222272, 32, 0⟩
def NOC_STATUS_FALLBACK : Fld := ⟨805306368, 1, 0⟩
def NOC_STATUS_ROUTE_BUSY : Fld := ⟨805306369, 1, 0⟩
def NOC_STATUS_BYPASSED : Fld := ⟨805306384, 7, 0⟩
def NOC_FALLBACK_HALF : Fld := ⟨805306880, 1, 0⟩
def NOC_FALLBACK_ROW : Fld := ⟨805306881, 1, 0⟩
def NOC_FALLBACK_SEAM : Fld := ⟨805306882, 1, 0⟩
def NOC_FALLBACK_FORCE : Fld := ⟨805306888, 1, 0⟩
def NOC_FB_CNT : Fld := ⟨805307392, 32, 0⟩
def NOC_DIST_GEN : Fld := ⟨805307904, 32, 0⟩
def NOC_ROUTER_STATE (i : Nat) : Fld := Fld.shift ⟨805339136, 2, 0⟩ (4 * i)
def NOC_ROUTER_USED (i : Nat) : Fld := Fld.shift ⟨805339138, 1, 0⟩ (4 * i)
def NOC_ROUTER_LC (i : Nat) : Fld := Fld.shift ⟨805339139, 6, 0⟩ (4 * i)
def NOC_SEAM_WIDTH (i : Nat) : Fld := Fld.shift ⟨805376000, 2, 0⟩ (4 * i)
def NOC_LC_SITE_SITE (i : Nat) : Fld := Fld.shift ⟨805404672, 7, 0⟩ (4 * i)
def NOC_LC_SITE_VALID (i : Nat) : Fld := Fld.shift ⟨805404703, 1, 0⟩ (4 * i)
def NOC_DIST (i j : Nat) : Fld := Fld.shift ⟨805830656, 8, 0⟩ (72 * i + 1 * j)
def CLK_REGION_CUR_STEP (i : Nat) : Fld := Fld.shift ⟨41943040, 7, 64⟩ (4 * i)
def CLK_REGION_MAX_STEP (i : Nat) : Fld := Fld.shift ⟨41943048, 7, 80⟩ (4 * i)
def CLK_HALF_CUR_STEP (i : Nat) : Fld := Fld.shift ⟨41947136, 7, 80⟩ (4 * i)
def CLK_PLL_STATUS_EAST_LOCK : Fld := ⟨41948160, 1, 0⟩
def CLK_PLL_STATUS_WEST_LOCK : Fld := ⟨41948161, 1, 0⟩
def LNK_DEVID_DEVID : Fld := ⟨939524096, 12, 0⟩
def LNK_EPOCH_CUR : Fld := ⟨939524608, 8, 0⟩
def LNK_EPOCH_PREV : Fld := ⟨939524616, 8, 0⟩
def LNK_EPOCH_PREV_VALID : Fld := ⟨939524624, 1, 0⟩
def LNK_EPOCH_PREV_DRAINED : Fld := ⟨939524625, 1, 0⟩
def LNK_EPOCH_CTRL_NEXT : Fld := ⟨939525120, 8, 1⟩
def LNK_EPOCH_CTRL_ACTIVATE : Fld := ⟨939525128, 1, 0⟩
def LNK_EPOCH_CTRL_RETIRE : Fld := ⟨939525129, 1, 0⟩
def LNK_EPOCH_CTRL_REFUSED : Fld := ⟨939525130, 1, 0⟩
def LNK_ROUTE_MODE_ADAPT : Fld := ⟨939525632, 16, 16⟩
def LNK_STALE_CNT : Fld := ⟨939526144, 32, 0⟩
def LNK_UNREACH_CNT : Fld := ⟨939526656, 32, 0⟩
def LNK_UP_MASK : Fld := ⟨939527168, 48, 0⟩
def LNK_TRUNK_CHANNELS : Fld := ⟨939528192, 7, 0⟩
def LNK_STATUS_STATE (i : Nat) : Fld := Fld.shift ⟨940048384, 3, 0⟩ (128 * i)
def LNK_STATUS_WIDTH (i : Nat) : Fld := Fld.shift ⟨940048387, 2, 0⟩ (128 * i)
def LNK_STATUS_SAVED (i : Nat) : Fld := Fld.shift ⟨940048389, 1, 0⟩ (128 * i)
def LNK_STATUS_PEER_LINK (i : Nat) : Fld := Fld.shift ⟨940048392, 6, 0⟩ (128 * i)
def LNK_STATUS_PEER_VALID (i : Nat) : Fld := Fld.shift ⟨940048398, 1, 0⟩ (128 * i)
def LNK_STATUS_PEER_DEV (i : Nat) : Fld := Fld.shift ⟨940048400, 12, 0⟩ (128 * i)
def LNK_STATUS_WATCHDOG (i : Nat) : Fld := Fld.shift ⟨940048412, 1, 0⟩ (128 * i)
def LNK_CTRL_RETRAIN (i : Nat) : Fld := Fld.shift ⟨940048896, 1, 0⟩ (128 * i)
def LNK_CTRL_DISABLE (i : Nat) : Fld := Fld.shift ⟨940048897, 1, 0⟩ (128 * i)
def LNK_CTRL_PLUG_EN (i : Nat) : Fld := Fld.shift ⟨940048898, 1, 1⟩ (128 * i)
def LNK_TRAIN_LANE_OK (i : Nat) : Fld := Fld.shift ⟨940049408, 4, 0⟩ (128 * i)
def LNK_TRAIN_LANE_USED (i : Nat) : Fld := Fld.shift ⟨940049412, 4, 0⟩ (128 * i)
def LNK_TRAIN_ATTEMPTS (i : Nat) : Fld := Fld.shift ⟨940049416, 4, 0⟩ (128 * i)
def LNK_TRAIN_RESULT (i : Nat) : Fld := Fld.shift ⟨940049420, 4, 0⟩ (128 * i)
def LNK_TRAIN_DURATION (i : Nat) : Fld := Fld.shift ⟨940049424, 16, 0⟩ (128 * i)
def LNK_QUAL_DONE (i : Nat) : Fld := Fld.shift ⟨940049920, 1, 0⟩ (128 * i)
def LNK_QUAL_PASS (i : Nat) : Fld := Fld.shift ⟨940049921, 1, 0⟩ (128 * i)
def LNK_QUAL_UNCORR (i : Nat) : Fld := Fld.shift ⟨940049936, 16, 0⟩ (128 * i)
def LNK_QUAL_BITS (i : Nat) : Fld := Fld.shift ⟨940050432, 64, 0⟩ (128 * i)
def LNK_QUAL_ERRS (i : Nat) : Fld := Fld.shift ⟨940051456, 64, 0⟩ (128 * i)
def LNK_FEC_CORR (i : Nat) : Fld := Fld.shift ⟨940052480, 64, 0⟩ (128 * i)
def LNK_FEC_UNCORR (i : Nat) : Fld := Fld.shift ⟨940053504, 64, 0⟩ (128 * i)
def LNK_REPLAY_CNT (i : Nat) : Fld := Fld.shift ⟨940054528, 64, 0⟩ (128 * i)
def LNK_CREDIT_VC0 (i : Nat) : Fld := Fld.shift ⟨940055552, 4, 0⟩ (128 * i)
def LNK_CREDIT_VC1 (i : Nat) : Fld := Fld.shift ⟨940055556, 8, 0⟩ (128 * i)
def LNK_CREDIT_VC2 (i : Nat) : Fld := Fld.shift ⟨940055564, 8, 0⟩ (128 * i)
def LNK_CREDIT_VC3 (i : Nat) : Fld := Fld.shift ⟨940055572, 11, 0⟩ (128 * i)
def LNK_DEGRADE_CNT (i : Nat) : Fld := Fld.shift ⟨940056064, 32, 0⟩ (128 * i)
def LNK_ROUTE_NEXT_LINK0 (i : Nat) : Fld := Fld.shift ⟨956301312, 6, 0⟩ (4 * i)
def LNK_ROUTE_NEXT_V0 (i : Nat) : Fld := Fld.shift ⟨956301318, 1, 0⟩ (4 * i)
def LNK_ROUTE_NEXT_LINK1 (i : Nat) : Fld := Fld.shift ⟨956301320, 6, 0⟩ (4 * i)
def LNK_ROUTE_NEXT_V1 (i : Nat) : Fld := Fld.shift ⟨956301326, 1, 0⟩ (4 * i)
def LNK_ROUTE_NEXT_LINK2 (i : Nat) : Fld := Fld.shift ⟨956301328, 6, 0⟩ (4 * i)
def LNK_ROUTE_NEXT_V2 (i : Nat) : Fld := Fld.shift ⟨956301334, 1, 0⟩ (4 * i)
def LNK_ROUTE_NEXT_LINK3 (i : Nat) : Fld := Fld.shift ⟨956301336, 6, 0⟩ (4 * i)
def LNK_ROUTE_NEXT_V3 (i : Nat) : Fld := Fld.shift ⟨956301342, 1, 0⟩ (4 * i)
def LNK_ROUTE_CUR_LINK0 (i : Nat) : Fld := Fld.shift ⟨964689920, 6, 0⟩ (4 * i)
def LNK_ROUTE_CUR_V0 (i : Nat) : Fld := Fld.shift ⟨964689926, 1, 0⟩ (4 * i)
def LNK_ROUTE_CUR_LINK1 (i : Nat) : Fld := Fld.shift ⟨964689928, 6, 0⟩ (4 * i)
def LNK_ROUTE_CUR_V1 (i : Nat) : Fld := Fld.shift ⟨964689934, 1, 0⟩ (4 * i)
def LNK_ROUTE_CUR_LINK2 (i : Nat) : Fld := Fld.shift ⟨964689936, 6, 0⟩ (4 * i)
def LNK_ROUTE_CUR_V2 (i : Nat) : Fld := Fld.shift ⟨964689942, 1, 0⟩ (4 * i)
def LNK_ROUTE_CUR_LINK3 (i : Nat) : Fld := Fld.shift ⟨964689944, 6, 0⟩ (4 * i)
def LNK_ROUTE_CUR_V3 (i : Nat) : Fld := Fld.shift ⟨964689950, 1, 0⟩ (4 * i)
def LNK_ROUTE_PREV_LINK0 (i : Nat) : Fld := Fld.shift ⟨973078528, 6, 0⟩ (4 * i)
def LNK_ROUTE_PREV_V0 (i : Nat) : Fld := Fld.shift ⟨973078534, 1, 0⟩ (4 * i)
def LNK_ROUTE_PREV_LINK1 (i : Nat) : Fld := Fld.shift ⟨973078536, 6, 0⟩ (4 * i)
def LNK_ROUTE_PREV_V1 (i : Nat) : Fld := Fld.shift ⟨973078542, 1, 0⟩ (4 * i)
def LNK_ROUTE_PREV_LINK2 (i : Nat) : Fld := Fld.shift ⟨973078544, 6, 0⟩ (4 * i)
def LNK_ROUTE_PREV_V2 (i : Nat) : Fld := Fld.shift ⟨973078550, 1, 0⟩ (4 * i)
def LNK_ROUTE_PREV_LINK3 (i : Nat) : Fld := Fld.shift ⟨973078552, 6, 0⟩ (4 * i)
def LNK_ROUTE_PREV_V3 (i : Nat) : Fld := Fld.shift ⟨973078558, 1, 0⟩ (4 * i)
def COL_REGION_BASE_BASE : Fld := ⟨1073741844, 20, 0⟩
def COL_CFG_TMO_MS : Fld := ⟨1073742848, 16, 0⟩
def COL_PEER_DOWN_DEV : Fld := ⟨1073743360, 12, 0⟩
def COL_PEER_DOWN_GO : Fld := ⟨1073743372, 1, 0⟩
def COL_STATUS_GROUPS : Fld := ⟨1073743872, 10, 0⟩
def COL_STATUS_BROKEN : Fld := ⟨1073743882, 10, 0⟩
def CAPO_LIMIT_LIMIT_W : Fld := ⟨16777216, 13, 3000⟩
def CAPO_LIMIT_EXT_W : Fld := ⟨16777232, 13, 900⟩
def CAPO_CTRL_FORECAST_EN : Fld := ⟨16777728, 1, 1⟩
def CAPO_CTRL_COLL_DEFER : Fld := ⟨16777729, 1, 1⟩
def CAPO_CTRL_MEM_PCT : Fld := ⟨16777736, 8, 17⟩
def CAPO_CTRL_DEFER_MAX_US : Fld := ⟨16777744, 6, 50⟩
def CAPO_REASON_REASONS : Fld := ⟨16778240, 11, 0⟩
def CAPO_REASON_STICKY_REASONS : Fld := ⟨16778752, 11, 0⟩
def CAPO_STATE_EFF_W : Fld := ⟨16779264, 13, 0⟩
def CAPO_STATE_PLAN_W : Fld := ⟨16779280, 13, 0⟩
def CAPO_EXPRESS_RSV_W : Fld := ⟨16779776, 10, 200⟩
def CAPO_EXPRESS_HELD : Fld := ⟨16779786, 1, 0⟩
def CAPO_INPUT_PWR_W : Fld := ⟨16780288, 13, 0⟩
def CAPO_INPUT_VIN : Fld := ⟨16780304, 13, 0⟩
def CAPO_ENERGY_TOTAL : Fld := ⟨16781312, 64, 0⟩
def CAPO_ENERGY_IDLE : Fld := ⟨16782336, 64, 0⟩
def CAPO_DEFDECL_DUR_NS (i : Nat) : Fld := Fld.shift ⟨16785408, 32, 10000⟩ (8 * i)
def CAPO_DEFDECL_ENERGY_UJ (i : Nat) : Fld := Fld.shift ⟨16785440, 32, 5000⟩ (8 * i)
def CAPO_RSN_NS (i : Nat) : Fld := Fld.shift ⟨16809984, 64, 0⟩ (8 * i)
def CAPO_RSN_START (i : Nat) : Fld := Fld.shift ⟨16826368, 64, 0⟩ (8 * i)
def CAPO_PART_ENERGY (i : Nat) : Fld := Fld.shift ⟨16842752, 64, 0⟩ (8 * i)
def CAPO_UNDER_CNT (i : Nat) : Fld := Fld.shift ⟨16859136, 32, 0⟩ (4 * i)
def CAPO_COLL_DEFER_CNT : Fld := ⟨16875520, 32, 0⟩
def CAPO_COLL_DEFER_NS : Fld := ⟨16876544, 64, 0⟩
def CAPO_Q_ENERGY (i : Nat) : Fld := Fld.shift ⟨17301504, 64, 0⟩ (8 * i)
def PDM_VMIN_MV (i : Nat) : Fld := Fld.shift ⟨33554432, 12, 0⟩ (16 * i)
def PDM_VMIN_VALID (i : Nat) : Fld := Fld.shift ⟨33554444, 1, 0⟩ (16 * i)
def PDM_VMIN_TIME (i : Nat) : Fld := Fld.shift ⟨33554496, 64, 0⟩ (16 * i)
def PDM_CELL_SET_MV (i : Nat) : Fld := Fld.shift ⟨33816576, 10, 0⟩ (4 * i)
def PDM_CELL_PHASE_OK (i : Nat) : Fld := Fld.shift ⟨33816586, 12, 4095⟩ (4 * i)
def PDM_CELL_STATE (i : Nat) : Fld := Fld.shift ⟨33816598, 2, 0⟩ (4 * i)
def PDM_DROOP_CFG_TRIP_MV : Fld := ⟨33882112, 8, 40⟩
def PDM_DROOP_CFG_REL_MV : Fld := ⟨33882120, 8, 25⟩
def PDM_VMIN_CLR_CELL : Fld := ⟨33882624, 7, 0⟩
def PDM_VMIN_CLR_ALL : Fld := ⟨33882631, 1, 0⟩
def PDM_VMIN_CLR_GO : Fld := ⟨33882632, 1, 0⟩
def PDM_RAIL_MV (i : Nat) : Fld := Fld.shift ⟨33884160, 16, 0⟩ (4 * i)
def PDM_RAIL_AMPS (i : Nat) : Fld := Fld.shift ⟨33884176, 16, 0⟩ (4 * i)
def PDM_THRU_MV (i : Nat) : Fld := Fld.shift ⟨33890304, 12, 0⟩ (4 * i)
def PDM_THRU_OK (i : Nat) : Fld := Fld.shift ⟨33890316, 1, 0⟩ (4 * i)
def PDM_VSTK_SENSE_SENSE_OK : Fld := ⟨33898496, 8, 255⟩
def PDM_VSTK_SENSE_LOCAL : Fld := ⟨33898504, 1, 0⟩
def CLK_FIXED_EN : Fld := ⟨41949184, 1, 0⟩
def CLK_FIXED_ACTIVE : Fld := ⟨41949185, 1, 0⟩
def CLK_STRETCH_CNT_COUNT (i : Nat) : Fld := Fld.shift ⟨41951232, 32, 0⟩ (4 * i)
def THM_CFG_MARGIN_W : Fld := ⟨25165824, 10, 100⟩
def THM_CFG_FRAC_PCT : Fld := ⟨25165840, 7, 25⟩
def THM_STATUS_FLOW_STATE : Fld := ⟨25166336, 2, 0⟩
def THM_STATUS_FLOW_INVALID : Fld := ⟨25166338, 1, 0⟩
def THM_STATUS_INLET_LOST : Fld := ⟨25166339, 1, 0⟩
def THM_STATUS_OUTLET_LOST : Fld := ⟨25166340, 1, 0⟩
def THM_STATUS_AT_LIMIT : Fld := ⟨25166341, 1, 0⟩
def THM_ALLOW_ALLOW_W : Fld := ⟨25166848, 13, 0⟩
def THM_ALLOW_DIE : Fld := ⟨25166864, 4, 0⟩
def THM_COOLANT_INLET : Fld := ⟨25167360, 12, 0⟩
def THM_COOLANT_OUTLET : Fld := ⟨25167376, 12, 0⟩
def THM_FLOW_FLOW : Fld := ⟨25167872, 16, 0⟩
def THM_FLOW_PULSE_HZ : Fld := ⟨25167888, 16, 0⟩
def THM_FLOW_CFG_K : Fld := ⟨25168384, 12, 0⟩
def THM_FLOW_CFG_NOM : Fld := ⟨25168396, 8, 50⟩
def THM_FLOW_CFG_REDUCED_W : Fld := ⟨25168404, 12, 1800⟩
def THM_HOT_SET_C : Fld := ⟨25168896, 8, 85⟩
def THM_HOT_CLR_C : Fld := ⟨25168904, 8, 80⟩
def THM_SUSPECT_LAYERS : Fld := ⟨25169408, 9, 0⟩
def THM_MODEL_CFG_RL : Fld := ⟨25169920, 16, 100⟩
def THM_DISAGREE_CNT : Fld := ⟨25170432, 32, 0⟩
def THM_THETA_THETA (i : Nat) : Fld := Fld.shift ⟨25174016, 20, 0⟩ (4 * i)
def THM_THETA_LEARNT (i : Nat) : Fld := Fld.shift ⟨25174036, 1, 0⟩ (4 * i)
def THM_THETA_CLAMPED (i : Nat) : Fld := Fld.shift ⟨25174037, 1, 0⟩ (4 * i)
def THM_LAYER_SENSE (i : Nat) : Fld := Fld.shift ⟨25182208, 12, 0⟩ (8 * i)
def THM_LAYER_MODEL (i : Nat) : Fld := Fld.shift ⟨25182220, 12, 0⟩ (8 * i)
def THM_LAYER_GOVERN (i : Nat) : Fld := Fld.shift ⟨25182232, 12, 0⟩ (8 * i)
def THM_LAYER_SUSPECT (i : Nat) : Fld := Fld.shift ⟨25182244, 1, 0⟩ (8 * i)
def THM_LAYER_HOT (i : Nat) : Fld := Fld.shift ⟨25182245, 1, 0⟩ (8 * i)
def THM_LAYER_REFRESH_2X (i : Nat) : Fld := Fld.shift ⟨25182246, 1, 0⟩ (8 * i)
def THM_LAYER_NO_SENSOR (i : Nat) : Fld := Fld.shift ⟨25182247, 1, 0⟩ (8 * i)
def THM_LAYER_SHARE_W (i : Nat) : Fld := Fld.shift ⟨25182248, 8, 70⟩ (8 * i)
def THM_SENSOR_TEMP (i : Nat) : Fld := Fld.shift ⟨25231360, 12, 0⟩ (4 * i)
def THM_SENSOR_VALID (i : Nat) : Fld := Fld.shift ⟨25231372, 1, 0⟩ (4 * i)
def THM_SENSOR_IGNORED (i : Nat) : Fld := Fld.shift ⟨25231373, 1, 0⟩ (4 * i)
def LUT_STATE_STAGE : Fld := ⟨8388608, 4, 0⟩
def LUT_STATE_SLOT : Fld := ⟨8388612, 1, 0⟩
def LUT_STATE_SLOT_FALLBACK : Fld := ⟨8388613, 1, 0⟩
def LUT_STATE_HDR_BAD : Fld := ⟨8388614, 1, 0⟩
def LUT_STATE_SIGNED : Fld := ⟨8388615, 1, 0⟩
def LUT_STATE_TRAIN_USED : Fld := ⟨8388616, 1, 0⟩
def LUT_STATE_TRAIN_FALLBACK : Fld := ⟨8388617, 1, 0⟩
def LUT_STATE_TRAIN_NONE : Fld := ⟨8388618, 1, 0⟩
def LUT_STATE_DEFMAP_BAD : Fld := ⟨8388619, 1, 0⟩
def LUT_STATE_SHORT_TEST : Fld := ⟨8388620, 1, 0⟩
def LUT_TIME_TOTAL : Fld := ⟨8389120, 16, 0⟩
def LUT_CFG_MIN_LC : Fld := ⟨8389632, 7, 48⟩
def LUT_CFG_TEST_FULL : Fld := ⟨8389639, 1, 0⟩
def LUT_CFG_FULL_TRAIN : Fld := ⟨8389640, 1, 0⟩
def LUT_RESET_LEVEL : Fld := ⟨8390656, 3, 0⟩
def LUT_RESET_TARGET : Fld := ⟨8390659, 10, 0⟩
def LUT_RESET_SUBST : Fld := ⟨8390669, 4, 0⟩
def LUT_RESET_GO : Fld := ⟨8390687, 1, 0⟩
def LUT_RESET_STATUS_BUSY : Fld := ⟨8391168, 1, 0⟩
def LUT_RESET_STATUS_LEVEL : Fld := ⟨8391169, 3, 0⟩
def LUT_RESET_STATUS_RESULT : Fld := ⟨8391172, 3, 0⟩
def LUT_RESET_STATUS_COUNT : Fld := ⟨8391184, 16, 0⟩
def LUT_RELOAD_TYPE : Fld := ⟨8391680, 8, 0⟩
def LUT_RELOAD_PART : Fld := ⟨8391688, 4, 0⟩
def LUT_RELOAD_SLOT : Fld := ⟨8391692, 1, 0⟩
def LUT_RELOAD_GO : Fld := ⟨8391693, 1, 0⟩
def LUT_RELOAD_BUSY : Fld := ⟨8391694, 1, 0⟩
def LUT_RELOAD_ERR : Fld := ⟨8391695, 1, 0⟩
def LUT_RELOAD_ERR_CODE : Fld := ⟨8391696, 4, 0⟩
def LUT_STAGE_STATUS (i : Nat) : Fld := Fld.shift ⟨8421376, 3, 0⟩ (16 * i)
def LUT_STAGE_DURATION (i : Nat) : Fld := Fld.shift ⟨8421392, 16, 0⟩ (16 * i)
def LUT_STAGE_TESTED (i : Nat) : Fld := Fld.shift ⟨8421408, 16, 0⟩ (16 * i)
def LUT_STAGE_FAILED (i : Nat) : Fld := Fld.shift ⟨8421424, 16, 0⟩ (16 * i)
def LUT_STAGE_SPARED (i : Nat) : Fld := Fld.shift ⟨8421440, 16, 0⟩ (16 * i)
def LUT_STAGE_EVENTS (i : Nat) : Fld := Fld.shift ⟨8421456, 16, 0⟩ (16 * i)
def LUT_STAGE_FF_KIND (i : Nat) : Fld := Fld.shift ⟨8421472, 8, 0⟩ (16 * i)
def LUT_STAGE_FF_INDEX (i : Nat) : Fld := Fld.shift ⟨8421480, 24, 0⟩ (16 * i)
def LUT_NEWDEF_CNT : Fld := ⟨8454144, 16, 0⟩
def LUT_EXPORT_CTRL_SNAP : Fld := ⟨8486912, 1, 0⟩
def LUT_EXPORT_CTRL_VALID : Fld := ⟨8486913, 1, 0⟩
def LUT_EXPORT_LEN : Fld := ⟨8487424, 24, 0⟩
def LUT_EXPORT_ADDR_ADDR : Fld := ⟨8487938, 22, 0⟩
def LUT_EXPORT_DATA_DATA : Fld := ⟨8488448, 32, 0⟩
def LUT_NEWDEF (i : Nat) : Fld := Fld.shift ⟨8912896, 64, 0⟩ (8 * i)
def GLB_STATUS_STATE : Fld := ⟨2048, 2, 0⟩
def GLB_STATUS_NLC : Fld := ⟨2050, 7, 0⟩
def GLB_HALT_CAUSE_CAUSE : Fld := ⟨2560, 8, 0⟩
def GLB_HALT_CAUSE_UNIT : Fld := ⟨2568, 24, 0⟩
def CLK_SLEEP_CTRL_REGION_MAX : Fld := ⟨41955328, 3, 3⟩
def CLK_SLEEP_CTRL_MEM_MAX : Fld := ⟨41955331, 2, 2⟩
def CLK_SLEEP_CTRL_LINK_STBY_EN : Fld := ⟨41955333, 1, 1⟩
def CLK_SLEEP_CTRL_EXPRESS_REGIONS : Fld := ⟨41955336, 8, 0⟩
def CLK_SLEEP_STATE_R0 : Fld := ⟨41956352, 3, 0⟩
def CLK_SLEEP_STATE_R1 : Fld := ⟨41956355, 3, 0⟩
def CLK_SLEEP_STATE_R2 : Fld := ⟨41956358, 3, 0⟩
def CLK_SLEEP_STATE_R3 : Fld := ⟨41956361, 3, 0⟩
def CLK_SLEEP_STATE_R4 : Fld := ⟨41956364, 3, 0⟩
def CLK_SLEEP_STATE_R5 : Fld := ⟨41956367, 3, 0⟩
def CLK_SLEEP_STATE_R6 : Fld := ⟨41956370, 3, 0⟩
def CLK_SLEEP_STATE_R7 : Fld := ⟨41956373, 3, 0⟩
def CLK_SLEEP_STATE_M0 : Fld := ⟨41956376, 2, 0⟩
def CLK_SLEEP_STATE_M1 : Fld := ⟨41956378, 2, 0⟩
def CLK_SLEEP_STATE_M2 : Fld := ⟨41956380, 2, 0⟩
def CLK_SLEEP_STATE_M3 : Fld := ⟨41956382, 2, 0⟩
def CLK_SLEEP_STATE_M4 : Fld := ⟨41956384, 2, 0⟩
def CLK_SLEEP_STATE_M5 : Fld := ⟨41956386, 2, 0⟩
def CLK_SLEEP_STATE_M6 : Fld := ⟨41956388, 2, 0⟩
def CLK_SLEEP_STATE_M7 : Fld := ⟨41956390, 2, 0⟩
def CLK_SLEEP_STATE_M8 : Fld := ⟨41956392, 2, 0⟩
def CLK_WAKE_CNT (i : Nat) : Fld := Fld.shift ⟨41959424, 32, 0⟩ (4 * i)
def EVT_BASE_ADDR : Fld := ⟨50331654, 58, 0⟩
def EVT_CFG_LOG2N : Fld := ⟨50332672, 5, 6⟩
def EVT_CFG_EN : Fld := ⟨50332680, 1, 0⟩
def EVT_CFG_MSIX_EN : Fld := ⟨50332681, 1, 0⟩
def EVT_CFG_VECTOR : Fld := ⟨50332682, 11, 0⟩
def EVT_CFG_MIN_SEV : Fld := ⟨50332693, 2, 0⟩
def EVT_CONS_PTR : Fld := ⟨50333184, 17, 0⟩
def EVT_PROD_PTR : Fld := ⟨50333696, 17, 0⟩
def EVT_STATUS_OVF : Fld := ⟨50334208, 1, 0⟩
def EVT_STATUS_CFG_ERR : Fld := ⟨50334209, 1, 0⟩
def EVT_LOST_CNT : Fld := ⟨50334720, 32, 0⟩
def EVT_SUPPR_CNT : Fld := ⟨50335232, 32, 0⟩
def EVT_INPUT_THROTTLE : Fld := ⟨50335744, 1, 0⟩
def EVT_INPUT_THR_STUCK : Fld := ⟨50335745, 1, 0⟩
def EVT_INPUT_THR_CHATTER : Fld := ⟨50335746, 1, 0⟩
def EVT_INPUT_FLOW_FAST : Fld := ⟨50335747, 1, 0⟩
def EVT_FENCED_CORE (i : Nat) : Fld := Fld.shift ⟨50364416, 32, 0⟩ (4 * i)
def EVT_FENCED_LC : Fld := ⟨50380800, 64, 0⟩
def EVT_FENCED_UPD : Fld := ⟨50381824, 64, 0⟩
def DBG_TRACE_BASE_DPA : Fld := ⟨1207959552, 40, 0⟩
def DBG_TRACE_CFG_LOG2SZ : Fld := ⟨1207960576, 5, 22⟩
def DBG_TRACE_CFG_MODE : Fld := ⟨1207960581, 2, 2⟩
def DBG_TRACE_CFG_PRE_16 : Fld := ⟨1207960583, 5, 8⟩
def DBG_TRACE_CFG_TYPES : Fld := ⟨1207960592, 16, 6⟩
def DBG_TRACE_CFG_PARTS : Fld := ⟨1207960608, 16, 65535⟩
def DBG_TRACE_CTRL_EN : Fld := ⟨1207961600, 1, 0⟩
def DBG_TRACE_CTRL_TRIG : Fld := ⟨1207961601, 1, 0⟩
def DBG_TRACE_STATUS_STATE : Fld := ⟨1207962112, 2, 0⟩
def DBG_TRACE_STATUS_WRAPPED : Fld := ⟨1207962114, 1, 0⟩
def DBG_TRACE_STATUS_TRIGGERED : Fld := ⟨1207962115, 1, 0⟩
def DBG_TRACE_STATUS_TRIG_EXTRA : Fld := ⟨1207962128, 16, 0⟩
def DBG_TRACE_WPTR : Fld := ⟨1207962624, 30, 0⟩
def DBG_TRACE_START : Fld := ⟨1207963136, 30, 0⟩
def DBG_TRACE_DROP : Fld := ⟨1207963648, 64, 0⟩
def DBG_TRIG_CFG_CODE : Fld := ⟨1207964672, 12, 0⟩
def DBG_TRIG_CFG_FAMILY : Fld := ⟨1207964684, 4, 0⟩
def DBG_TRIG_CFG_ON_EVENT : Fld := ⟨1207964688, 1, 0⟩
def DBG_TRIG_CFG_ON_REASON : Fld := ⟨1207964689, 1, 0⟩
def DBG_TRIG_CFG_ON_STATUS : Fld := ⟨1207964690, 1, 0⟩
def DBG_TRIG_CFG_ON_STOP : Fld := ⟨1207964691, 1, 1⟩
def DBG_TRIG_CFG_REASON : Fld := ⟨1207964692, 4, 0⟩
def DBG_STOP_CTRL_GO : Fld := ⟨1207965696, 1, 0⟩
def DBG_STOP_CTRL_RESUME : Fld := ⟨1207965697, 1, 0⟩
def DBG_STOP_CTRL_KSTOP_EN : Fld := ⟨1207965698, 1, 0⟩
def DBG_STOP_CTRL_ON_TRIG : Fld := ⟨1207965699, 1, 0⟩
def DBG_STOP_STATUS_STATE : Fld := ⟨1207966208, 2, 0⟩
def DBG_STOP_STATUS_SOURCE : Fld := ⟨1207966210, 2, 0⟩
def DBG_STOP_STATUS_SPREAD_NS : Fld := ⟨1207966224, 16, 0⟩
def DBG_MARK_CTRL_PERIOD_US : Fld := ⟨1207966720, 16, 0⟩
def DBG_CNT_SNAP_GO : Fld := ⟨1207967232, 1, 0⟩
def DBG_STOP_CORE_TIME (i : Nat) : Fld := Fld.shift ⟨1208483840, 64, 0⟩ (16 * i)
def DBG_STOP_CORE_PC (i : Nat) : Fld := Fld.shift ⟨1208483904, 17, 0⟩ (16 * i)
def DBG_STOP_CORE_SLOT (i : Nat) : Fld := Fld.shift ⟨1208483921, 2, 0⟩ (16 * i)
def DBG_STOP_CORE_WAIT (i : Nat) : Fld := Fld.shift ⟨1208483923, 3, 0⟩ (16 * i)
def DBG_STOP_CORE_VALID (i : Nat) : Fld := Fld.shift ⟨1208483926, 1, 0⟩ (16 * i)
def DBG_CNT_DEV (i : Nat) : Fld := Fld.shift ⟨1210580992, 64, 0⟩ (8 * i)
def DBG_CNT_LC (i j : Nat) : Fld := Fld.shift ⟨1216348160, 64, 0⟩ (256 * i + 8 * j)
def GLB_ID : Fld := ⟨0, 32, 0⟩
def GLB_SERIAL : Fld := ⟨1024, 64, 0⟩
def GLB_TIME : Fld := ⟨3072, 64, 0⟩
def GLB_SLOT : Fld := ⟨4096, 4, 0⟩
def PART_CFG_EN (i : Nat) : Fld := Fld.shift ⟨67108864, 1, 0⟩ (4 * i)
def PART_CFG_VECTORS (i : Nat) : Fld := Fld.shift ⟨67108865, 12, 2048⟩ (4 * i)
def NVM_ADDR : Fld := ⟨1476395008, 26, 0⟩
def NVM_CMD_OP : Fld := ⟨1476395520, 2, 0⟩
def NVM_CMD_LEN1 : Fld := ⟨1476395522, 9, 0⟩
def NVM_CMD_GO : Fld := ⟨1476395551, 1, 0⟩
def NVM_STATUS_BUSY : Fld := ⟨1476396032, 1, 0⟩
def NVM_STATUS_ERR : Fld := ⟨1476396033, 1, 0⟩
def NVM_STATUS_ERR_CODE : Fld := ⟨1476396034, 4, 0⟩
def NVM_STATUS_SOURCE : Fld := ⟨1476396038, 1, 0⟩
def NVM_BUF (i : Nat) : Fld := Fld.shift ⟨1476919296, 32, 0⟩ (4 * i)
def MGT_STATUS_DYN_ADDR : Fld := ⟨1342177280, 7, 0⟩
def MGT_STATUS_LEGACY : Fld := ⟨1342177287, 1, 0⟩
def MGT_STATUS_PEC_ERRS : Fld := ⟨1342177288, 16, 0⟩
def MGT_ALERT_PENDING : Fld := ⟨1342177792, 4, 0⟩
def MGT_ALERT_ENABLE : Fld := ⟨1342177796, 4, 15⟩
def MGT_ALERT_MIN_SEV : Fld := ⟨1342177800, 2, 2⟩
def MGT_TRAY_CFG_IN_ADDR : Fld := ⟨1342179328, 7, 72⟩
def MGT_TRAY_CFG_OUT_ADDR : Fld := ⟨1342179335, 7, 73⟩
def MGT_TRAY_CFG_REG : Fld := ⟨1342179342, 8, 0⟩
def MGT_TRAY_CFG_FMT : Fld := ⟨1342179350, 2, 0⟩
def MGT_TRAY_CFG_SPEED : Fld := ⟨1342179352, 2, 1⟩
def MGT_TRAY_STATUS_NACKS : Fld := ⟨1342179840, 16, 0⟩
def MGT_EVT_LAST (i : Nat) : Fld := Fld.shift ⟨1342181376, 32, 0⟩ (4 * i)
def SQ_DB_PTR (i : Nat) : Fld := Fld.shift ⟨142606336, 17, 0⟩ (256 * i)
def CQ_DB_PTR (i : Nat) : Fld := Fld.shift ⟨142606848, 17, 0⟩ (256 * i)
def SQ_BASE_ADDR (i : Nat) : Fld := Fld.shift ⟨142608390, 58, 0⟩ (256 * i)
def SQ_CFG_LOG2N (i : Nat) : Fld := Fld.shift ⟨142609408, 5, 6⟩ (256 * i)
def SQ_CFG_LOC (i : Nat) : Fld := Fld.shift ⟨142609416, 1, 0⟩ (256 * i)
def SQ_CFG_RING_CTX (i : Nat) : Fld := Fld.shift ⟨142609424, 12, 0⟩ (256 * i)
def CQ_BASE_ADDR (i : Nat) : Fld := Fld.shift ⟨142610438, 58, 0⟩ (256 * i)
def CQ_CFG_LOG2N (i : Nat) : Fld := Fld.shift ⟨142611456, 5, 6⟩ (256 * i)
def CQ_CFG_LOC (i : Nat) : Fld := Fld.shift ⟨142611464, 1, 0⟩ (256 * i)
def CQ_CFG_MSIX_EN (i : Nat) : Fld := Fld.shift ⟨142611465, 1, 0⟩ (256 * i)
def CQ_CFG_VECTOR (i : Nat) : Fld := Fld.shift ⟨142611472, 11, 0⟩ (256 * i)
def QSTATE_STATE (i : Nat) : Fld := Fld.shift ⟨142612480, 3, 0⟩ (256 * i)
def QSTATE_DB_ERR (i : Nat) : Fld := Fld.shift ⟨142612483, 1, 0⟩ (256 * i)
def QSTATE_CFG_ERR (i : Nat) : Fld := Fld.shift ⟨142612484, 1, 0⟩ (256 * i)
def QSTATE_CQ_STALL (i : Nat) : Fld := Fld.shift ⟨142612485, 1, 0⟩ (256 * i)
def QSTATE_WAIT_BLOCKED (i : Nat) : Fld := Fld.shift ⟨142612486, 1, 0⟩ (256 * i)
def QSTATE_NB_BLOCKED (i : Nat) : Fld := Fld.shift ⟨142612487, 1, 0⟩ (256 * i)
def QSTATE_FETCH_ERR (i : Nat) : Fld := Fld.shift ⟨142612488, 1, 0⟩ (256 * i)
def QSTATE_CQ_ERR (i : Nat) : Fld := Fld.shift ⟨142612489, 1, 0⟩ (256 * i)
def QCTRL_START (i : Nat) : Fld := Fld.shift ⟨142612992, 1, 0⟩ (256 * i)
def QCTRL_STOP (i : Nat) : Fld := Fld.shift ⟨142612993, 1, 0⟩ (256 * i)
def QTMO_WAIT_US (i : Nat) : Fld := Fld.shift ⟨142613504, 16, 0⟩ (256 * i)
def SQ_PTR_FETCH (i : Nat) : Fld := Fld.shift ⟨142614528, 17, 0⟩ (256 * i)
def CQ_PTR_PRODUCER (i : Nat) : Fld := Fld.shift ⟨142615040, 17, 0⟩ (256 * i)
def OUTSTANDING (i : Nat) : Fld := Fld.shift ⟨142615552, 17, 0⟩ (256 * i)
def NEXT_SEQ (i : Nat) : Fld := Fld.shift ⟨142616064, 16, 0⟩ (256 * i)
def NOC_LINK_RETRY_CNT (i : Nat) : Fld := Fld.shift ⟨34359738368, 32, 0⟩ (4 * i)
def NOC_LINK_FAIL (i : Nat) : Fld := Fld.shift ⟨34359902208, 32, 0⟩ (4 * i)
def NOC_ECC_CNT : Fld := ⟨34360066048, 32, 0⟩
def NOC_METER_HELD : Fld := ⟨34360098816, 64, 0⟩
def COL_PEER_LOST_CNT : Fld := ⟨34360131584, 32, 0⟩
def COL_FULL_CNT : Fld := ⟨34360164352, 32, 0⟩
def COL_WAIT_NS : Fld := ⟨34360197120, 64, 0⟩
def COL_WAIT_THR_NS : Fld := ⟨34360229888, 64, 0⟩
def COL_SAT_CNT : Fld := ⟨34360262656, 64, 0⟩
def COL_GROUP_SEL : Fld := ⟨34360295424, 32, 0⟩
def DBG_STOP_ENG_TIME (i : Nat) : Fld := Fld.shift ⟨34360328192, 64, 0⟩ (8 * i)
def DBG_STOP_ENG_SEQ (i : Nat) : Fld := Fld.shift ⟨34360360960, 32, 0⟩ (4 * i)
def DBG_CORE_SEL : Fld := ⟨34360393728, 32, 0⟩
def DBG_CNT_LINK_TX (i : Nat) : Fld := Fld.shift ⟨34360426496, 64, 0⟩ (8 * i)
def DBG_CNT_LINK_RX (i : Nat) : Fld := Fld.shift ⟨34360492032, 64, 0⟩ (8 * i)
def DBG_CNT_SNAP_TIME : Fld := ⟨34360557568, 64, 0⟩
def GLB_STEP : Fld := ⟨34360590336, 32, 0⟩
def GLB_FUSE_SIGN : Fld := ⟨34360623104, 32, 0⟩
def GLB_IMAGE_GEN (i : Nat) : Fld := Fld.shift ⟨34360655872, 32, 0⟩ (4 * i)
def CNT (i j : Nat) : Fld := Fld.shift ⟨34360786944, 64, 0⟩ (256 * i + 8 * j)
def CNT_SHADOW (i j : Nat) : Fld := Fld.shift ⟨34361311232, 64, 0⟩ (256 * i + 8 * j)
def CNT_SNAP_TIME (i : Nat) : Fld := Fld.shift ⟨34361835520, 64, 0⟩ (8 * i)
def DBG_CNT_DEV_SHADOW (i : Nat) : Fld := Fld.shift ⟨34361868288, 64, 0⟩ (8 * i)
def DBG_CNT_LC_SHADOW (i j : Nat) : Fld := Fld.shift ⟨34361901056, 64, 0⟩ (256 * i + 8 * j)

end F

/-- The registers of block Qctl. -/
def regsQctl : List RegDesc :=
  [
   ⟨"QCTL_QOWN", 1048576, 32, [(4, 1024)], [⟨⟨134217728, 4, 0⟩, .rwl⟩, ⟨⟨134217732, 3, 0⟩, .rwl⟩, ⟨⟨134217735, 1, 0⟩, .rwl⟩, ⟨⟨134217736, 1, 0⟩, .rwl⟩, ⟨⟨134217744, 8, 1⟩, .rw⟩]⟩,
   ⟨"QCTL_EXPRESS_CNT", 1052672, 32, [], [⟨⟨134742016, 4, 0⟩, .ro⟩]⟩,
   ⟨"QCTL_DBERR_SUM", 1052800, 32, [(4, 32)], [⟨⟨134758400, 32, 0⟩, .ro⟩]⟩]

/-- The registers of block Mem. -/
def regsMem : List RegDesc :=
  [
   ⟨"MEM_LAYER_MAP", 3145728, 32, [], [⟨⟨402653184, 4, 0⟩, .ro⟩, ⟨⟨402653188, 4, 1⟩, .ro⟩, ⟨⟨402653192, 4, 2⟩, .ro⟩, ⟨⟨402653196, 4, 3⟩, .ro⟩, ⟨⟨402653200, 4, 5⟩, .ro⟩, ⟨⟨402653204, 4, 6⟩, .ro⟩, ⟨⟨402653208, 4, 7⟩, .ro⟩, ⟨⟨402653212, 4, 8⟩, .ro⟩]⟩,
   ⟨"MEM_SPARE", 3145732, 32, [], [⟨⟨402653696, 4, 4⟩, .ro⟩, ⟨⟨402653700, 1, 1⟩, .ro⟩, ⟨⟨402653704, 4, 0⟩, .ro⟩, ⟨⟨402653708, 1, 0⟩, .ro⟩, ⟨⟨402653709, 4, 4⟩, .rwl⟩]⟩,
   ⟨"MEM_EVAC_CTRL", 3145744, 32, [], [⟨⟨402655232, 3, 0⟩, .rw⟩, ⟨⟨402655240, 1, 0⟩, .wo⟩]⟩,
   ⟨"MEM_EVAC_STATUS", 3145748, 32, [], [⟨⟨402655744, 2, 0⟩, .ro⟩, ⟨⟨402655746, 1, 0⟩, .w1c⟩, ⟨⟨402655760, 16, 0⟩, .ro⟩]⟩,
   ⟨"MEM_EVAC_MARK", 3145752, 32, [], [⟨⟨402656256, 16, 0⟩, .ro⟩, ⟨⟨402656272, 2, 0⟩, .ro⟩, ⟨⟨402656274, 10, 0⟩, .ro⟩]⟩,
   ⟨"MEM_LRST_CTRL", 3145760, 32, [], [⟨⟨402657280, 4, 0⟩, .rw⟩, ⟨⟨402657288, 1, 0⟩, .wo⟩]⟩,
   ⟨"MEM_LRST_STATUS", 3145764, 32, [], [⟨⟨402657792, 1, 0⟩, .ro⟩, ⟨⟨402657793, 1, 0⟩, .ro⟩, ⟨⟨402657808, 16, 0⟩, .ro⟩]⟩,
   ⟨"MEM_SCRUB_CTRL", 3145776, 32, [], [⟨⟨402659328, 1, 1⟩, .rw⟩, ⟨⟨402659344, 16, 1000⟩, .rw⟩]⟩,
   ⟨"MEM_SCRUB_STATUS", 3145780, 32, [], [⟨⟨402659840, 32, 0⟩, .ro⟩]⟩,
   ⟨"MEM_CE_CNT", 3145792, 64, [], [⟨⟨402661376, 64, 0⟩, .ro⟩]⟩,
   ⟨"MEM_UE_CNT", 3145800, 64, [], [⟨⟨402662400, 64, 0⟩, .ro⟩]⟩,
   ⟨"MEM_CRC_RETRY_CNT", 3145808, 64, [], [⟨⟨402663424, 64, 0⟩, .ro⟩]⟩,
   ⟨"MEM_CRC_FAIL_CNT", 3145816, 64, [], [⟨⟨402664448, 64, 0⟩, .ro⟩]⟩,
   ⟨"MEM_SADDLE_SEL", 3145824, 32, [], [⟨⟨402665472, 4, 0⟩, .rw⟩, ⟨⟨402665476, 11, 0⟩, .rw⟩, ⟨⟨402665488, 2, 0⟩, .rw⟩]⟩,
   ⟨"MEM_SADDLE_ENTRY", 3145856, 32, [(4, 8)], [⟨⟨402669568, 16, 0⟩, .ro⟩, ⟨⟨402669584, 1, 0⟩, .ro⟩, ⟨⟨402669585, 1, 0⟩, .ro⟩, ⟨⟨402669586, 1, 0⟩, .ro⟩]⟩,
   ⟨"MEM_RETIRED_CNT", 3145888, 32, [], [⟨⟨402673664, 9, 0⟩, .ro⟩]⟩,
   ⟨"MEM_RETIRED", 3149824, 64, [(8, 256)], [⟨⟨403177472, 1, 0⟩, .ro⟩, ⟨⟨403177484, 25, 0⟩, .ro⟩]⟩,
   ⟨"MEM_COLMAP", 3153920, 32, [(4, 1024)], [⟨⟨403701760, 11, 0⟩, .ro⟩, ⟨⟨403701791, 1, 0⟩, .ro⟩]⟩,
   ⟨"MEM_SCRUB_MAP", 3211264, 32, [(4, 4096)], [⟨⟨411041792, 32, 0⟩, .rw⟩]⟩]

/-- The registers of block Mmu. -/
def regsMmu : List RegDesc :=
  [
   ⟨"MMU_CTX", 2097152, 128, [(16, 4096)], [⟨⟨268435456, 1, 0⟩, .rw⟩, ⟨⟨268435457, 4, 0⟩, .rw⟩, ⟨⟨268435469, 27, 0⟩, .rw⟩]⟩,
   ⟨"MMU_INVAL", 2162688, 64, [], [⟨⟨276824064, 12, 0⟩, .rw⟩, ⟨⟨276824076, 1, 0⟩, .rw⟩, ⟨⟨276824077, 5, 0⟩, .rw⟩, ⟨⟨276824082, 46, 0⟩, .wo⟩]⟩,
   ⟨"MMU_INVAL_STATUS", 2162696, 32, [], [⟨⟨276825088, 1, 0⟩, .ro⟩]⟩,
   ⟨"MMU_PE_BASE", 2162704, 64, [], [⟨⟨276826112, 40, 0⟩, .rwl⟩]⟩,
   ⟨"MMU_PE_SIZE", 2162712, 32, [], [⟨⟨276827136, 16, 0⟩, .rwl⟩]⟩,
   ⟨"MMU_TREE_CFG", 2162716, 32, [], [⟨⟨276827648, 5, 16⟩, .rwl⟩]⟩,
   ⟨"MMU_SEQ_SEL", 2162720, 32, [], [⟨⟨276828160, 16, 0⟩, .rw⟩]⟩,
   ⟨"MMU_SEQ_CNT", 2162724, 32, [], [⟨⟨276828672, 17, 0⟩, .ro⟩]⟩,
   ⟨"MMU_STEER_CTRL", 2162736, 32, [], [⟨⟨276830208, 1, 1⟩, .rw⟩, ⟨⟨276830224, 16, 64⟩, .rw⟩]⟩,
   ⟨"MMU_LAYER_HOT", 2162740, 32, [], [⟨⟨276830720, 8, 0⟩, .ro⟩]⟩,
   ⟨"MMU_QUAR_CNT", 2162744, 32, [], [⟨⟨276831232, 32, 0⟩, .ro⟩]⟩,
   ⟨"MMU_FAULT_CNT", 2162748, 32, [], [⟨⟨276831744, 32, 0⟩, .ro⟩]⟩,
   ⟨"MMU_POOL_GRANT0", 2162752, 32, [], [⟨⟨276832256, 11, 0⟩, .rw⟩, ⟨⟨276832272, 12, 0⟩, .rw⟩]⟩,
   ⟨"MMU_POOL_GRANT1", 2162756, 64, [], [⟨⟨276832768, 10, 0⟩, .rw⟩, ⟨⟨276832778, 10, 0⟩, .rw⟩, ⟨⟨276832788, 4, 0⟩, .rw⟩, ⟨⟨276832792, 3, 0⟩, .rw⟩, ⟨⟨276832795, 4, 0⟩, .rw⟩, ⟨⟨276832799, 1, 0⟩, .wo⟩]⟩,
   ⟨"MMU_POOL_STATUS", 2162768, 32, [], [⟨⟨276834304, 1, 0⟩, .ro⟩, ⟨⟨276834305, 1, 0⟩, .w1c⟩, ⟨⟨276834306, 1, 0⟩, .ro⟩]⟩,
   ⟨"MMU_PART_KV", 2162816, 32, [(4, 16)], [⟨⟨276840448, 5, 16⟩, .rwl⟩, ⟨⟨276840456, 6, 0⟩, .rwl⟩]⟩,
   ⟨"MMU_POOL_FREE", 2162944, 32, [(32, 16), (4, 8)], [⟨⟨276856832, 23, 0⟩, .ro⟩]⟩,
   ⟨"MMU_SEQ_ENTRY", 2163712, 32, [(4, 16)], [⟨⟨276955136, 32, 0⟩, .ro⟩]⟩,
   ⟨"MMU_DOMAIN_KEY", 2166784, 128, [(16, 64)], [⟨⟨277348352, 128, 0⟩, .wo⟩]⟩]

/-- The registers of block Fret. -/
def regsFret : List RegDesc :=
  [
   ⟨"FRET_BUDGET", 4194304, 32, [], [⟨⟨536870912, 16, 450⟩, .rw⟩, ⟨⟨536870928, 8, 70⟩, .rw⟩]⟩,
   ⟨"FRET_MODE", 4194308, 32, [], [⟨⟨536871424, 1, 1⟩, .rw⟩, ⟨⟨536871425, 1, 0⟩, .rw⟩, ⟨⟨536871432, 8, 120⟩, .rw⟩]⟩,
   ⟨"FRET_GRANT", 4194312, 32, [], [⟨⟨536871936, 16, 0⟩, .ro⟩, ⟨⟨536871952, 16, 0⟩, .ro⟩]⟩,
   ⟨"FRET_STATUS", 4194316, 32, [], [⟨⟨536872448, 8, 0⟩, .ro⟩, ⟨⟨536872456, 1, 0⟩, .ro⟩, ⟨⟨536872457, 1, 0⟩, .ro⟩]⟩,
   ⟨"FRET_LAYER_PWR", 4194320, 32, [(4, 9)], [⟨⟨536872960, 12, 0⟩, .ro⟩, ⟨⟨536872972, 1, 0⟩, .ro⟩]⟩,
   ⟨"FRET_ITEMS", 4194368, 64, [], [⟨⟨536879104, 64, 0⟩, .ro⟩]⟩,
   ⟨"FRET_HELD_NS", 4194376, 64, [], [⟨⟨536880128, 64, 0⟩, .ro⟩]⟩,
   ⟨"FRET_UE_ITEMS", 4194384, 32, [], [⟨⟨536881152, 32, 0⟩, .ro⟩]⟩]

/-- The registers of block Upd. -/
def regsUpd : List RegDesc :=
  [
   ⟨"UPD_REGION_BASE", 5242880, 64, [], [⟨⟨671088660, 20, 0⟩, .rwl⟩]⟩,
   ⟨"UPD_SCHED_BASE", 5242888, 64, [], [⟨⟨671089664, 40, 524288⟩, .ro⟩]⟩,
   ⟨"UPD_CFG", 5242896, 32, [], [⟨⟨671090688, 1, 0⟩, .rw⟩, ⟨⟨671090704, 16, 4096⟩, .rw⟩]⟩,
   ⟨"UPD_GROUP_SEL", 5242900, 32, [], [⟨⟨671091200, 12, 0⟩, .rw⟩]⟩,
   ⟨"UPD_GROUP_CMD", 5242904, 32, [], [⟨⟨671091712, 1, 0⟩, .wo⟩, ⟨⟨671091713, 1, 0⟩, .wo⟩]⟩,
   ⟨"UPD_GROUP_STATUS", 5242908, 32, [], [⟨⟨671092224, 1, 0⟩, .ro⟩, ⟨⟨671092225, 1, 0⟩, .w1c⟩, ⟨⟨671092228, 4, 0⟩, .ro⟩, ⟨⟨671092240, 13, 0⟩, .ro⟩]⟩,
   ⟨"UPD_PSTORE_ADDR", 5242912, 32, [], [⟨⟨671092738, 13, 0⟩, .rw⟩]⟩,
   ⟨"UPD_PSTORE_DATA", 5242916, 32, [], [⟨⟨671093248, 32, 0⟩, .rw⟩]⟩,
   ⟨"UPD_GROUP_DATA", 5243008, 32, [(4, 32)], [⟨⟨671105024, 32, 0⟩, .rw⟩]⟩,
   ⟨"UPD_UNIT_STATUS", 5243392, 32, [(4, 72)], [⟨⟨671154176, 2, 0⟩, .ro⟩, ⟨⟨671154184, 6, 0⟩, .ro⟩, ⟨⟨671154190, 1, 0⟩, .ro⟩, ⟨⟨671154192, 16, 0⟩, .ro⟩]⟩,
   ⟨"UPD_BLOCKS", 5243904, 64, [], [⟨⟨671219712, 64, 0⟩, .ro⟩]⟩,
   ⟨"UPD_FLIPS", 5243912, 64, [], [⟨⟨671220736, 64, 0⟩, .ro⟩]⟩,
   ⟨"UPD_NOFLIP", 5243920, 32, [], [⟨⟨671221760, 32, 0⟩, .ro⟩]⟩,
   ⟨"UPD_FROZEN_CNT", 5243924, 32, [], [⟨⟨671222272, 32, 0⟩, .ro⟩]⟩]

/-- The registers of block Noc. -/
def regsNoc : List RegDesc :=
  [
   ⟨"NOC_STATUS", 6291456, 32, [], [⟨⟨805306368, 1, 0⟩, .ro⟩, ⟨⟨805306369, 1, 0⟩, .ro⟩, ⟨⟨805306384, 7, 0⟩, .ro⟩]⟩,
   ⟨"NOC_FALLBACK", 6291460, 32, [], [⟨⟨805306880, 1, 0⟩, .ro⟩, ⟨⟨805306881, 1, 0⟩, .ro⟩, ⟨⟨805306882, 1, 0⟩, .ro⟩, ⟨⟨805306888, 1, 0⟩, .rw⟩]⟩,
   ⟨"NOC_FB_CNT", 6291464, 32, [], [⟨⟨805307392, 32, 0⟩, .ro⟩]⟩,
   ⟨"NOC_DIST_GEN", 6291468, 32, [], [⟨⟨805307904, 32, 0⟩, .ro⟩]⟩,
   ⟨"NOC_ROUTER", 6291712, 32, [(4, 72)], [⟨⟨805339136, 2, 0⟩, .ro⟩, ⟨⟨805339138, 1, 0⟩, .ro⟩, ⟨⟨805339139, 6, 0⟩, .ro⟩]⟩,
   ⟨"NOC_SEAM", 6292000, 32, [(4, 9)], [⟨⟨805376000, 2, 0⟩, .ro⟩]⟩,
   ⟨"NOC_LC_SITE", 6292224, 32, [(4, 64)], [⟨⟨805404672, 7, 0⟩, .ro⟩, ⟨⟨805404703, 1, 0⟩, .ro⟩]⟩,
   ⟨"NOC_DIST", 6295552, 8, [(72, 72), (1, 72)], [⟨⟨805830656, 8, 0⟩, .ro⟩]⟩]

/-- The registers of block Clk. -/
def regsClk : List RegDesc :=
  [
   ⟨"CLK_REGION", 327680, 32, [(4, 8)], [⟨⟨41943040, 7, 64⟩, .ro⟩, ⟨⟨41943048, 7, 80⟩, .rw⟩]⟩,
   ⟨"CLK_HALF", 327712, 32, [(4, 2)], [⟨⟨41947136, 7, 80⟩, .ro⟩]⟩,
   ⟨"CLK_PLL_STATUS", 327720, 32, [], [⟨⟨41948160, 1, 0⟩, .ro⟩, ⟨⟨41948161, 1, 0⟩, .ro⟩]⟩,
   ⟨"CLK_FIXED", 327728, 32, [], [⟨⟨41949184, 1, 0⟩, .rw⟩, ⟨⟨41949185, 1, 0⟩, .ro⟩]⟩,
   ⟨"CLK_STRETCH_CNT", 327744, 32, [(4, 8)], [⟨⟨41951232, 32, 0⟩, .ro⟩]⟩,
   ⟨"CLK_SLEEP_CTRL", 327776, 32, [], [⟨⟨41955328, 3, 3⟩, .rw⟩, ⟨⟨41955331, 2, 2⟩, .rw⟩, ⟨⟨41955333, 1, 1⟩, .rw⟩, ⟨⟨41955336, 8, 0⟩, .rw⟩]⟩,
   ⟨"CLK_SLEEP_STATE", 327784, 64, [], [⟨⟨41956352, 3, 0⟩, .ro⟩, ⟨⟨41956355, 3, 0⟩, .ro⟩, ⟨⟨41956358, 3, 0⟩, .ro⟩, ⟨⟨41956361, 3, 0⟩, .ro⟩, ⟨⟨41956364, 3, 0⟩, .ro⟩, ⟨⟨41956367, 3, 0⟩, .ro⟩, ⟨⟨41956370, 3, 0⟩, .ro⟩, ⟨⟨41956373, 3, 0⟩, .ro⟩, ⟨⟨41956376, 2, 0⟩, .ro⟩, ⟨⟨41956378, 2, 0⟩, .ro⟩, ⟨⟨41956380, 2, 0⟩, .ro⟩, ⟨⟨41956382, 2, 0⟩, .ro⟩, ⟨⟨41956384, 2, 0⟩, .ro⟩, ⟨⟨41956386, 2, 0⟩, .ro⟩, ⟨⟨41956388, 2, 0⟩, .ro⟩, ⟨⟨41956390, 2, 0⟩, .ro⟩, ⟨⟨41956392, 2, 0⟩, .ro⟩]⟩,
   ⟨"CLK_WAKE_CNT", 327808, 32, [(4, 17)], [⟨⟨41959424, 32, 0⟩, .ro⟩]⟩]

/-- The registers of block Lnk. -/
def regsLnk : List RegDesc :=
  [
   ⟨"LNK_DEVID", 7340032, 32, [], [⟨⟨939524096, 12, 0⟩, .rwl⟩]⟩,
   ⟨"LNK_EPOCH", 7340036, 32, [], [⟨⟨939524608, 8, 0⟩, .ro⟩, ⟨⟨939524616, 8, 0⟩, .ro⟩, ⟨⟨939524624, 1, 0⟩, .ro⟩, ⟨⟨939524625, 1, 0⟩, .ro⟩]⟩,
   ⟨"LNK_EPOCH_CTRL", 7340040, 32, [], [⟨⟨939525120, 8, 1⟩, .rw⟩, ⟨⟨939525128, 1, 0⟩, .wo⟩, ⟨⟨939525129, 1, 0⟩, .wo⟩, ⟨⟨939525130, 1, 0⟩, .w1c⟩]⟩,
   ⟨"LNK_ROUTE_MODE", 7340044, 32, [], [⟨⟨939525632, 16, 16⟩, .rw⟩]⟩,
   ⟨"LNK_STALE_CNT", 7340048, 32, [], [⟨⟨939526144, 32, 0⟩, .ro⟩]⟩,
   ⟨"LNK_UNREACH_CNT", 7340052, 32, [], [⟨⟨939526656, 32, 0⟩, .ro⟩]⟩,
   ⟨"LNK_UP_MASK", 7340056, 64, [], [⟨⟨939527168, 48, 0⟩, .ro⟩]⟩,
   ⟨"LNK_TRUNK", 7340064, 32, [], [⟨⟨939528192, 7, 0⟩, .ro⟩]⟩,
   ⟨"LNK_STATUS", 7344128, 32, [(128, 48)], [⟨⟨940048384, 3, 0⟩, .ro⟩, ⟨⟨940048387, 2, 0⟩, .ro⟩, ⟨⟨940048389, 1, 0⟩, .ro⟩, ⟨⟨940048392, 6, 0⟩, .ro⟩, ⟨⟨940048398, 1, 0⟩, .ro⟩, ⟨⟨940048400, 12, 0⟩, .ro⟩, ⟨⟨940048412, 1, 0⟩, .ro⟩]⟩,
   ⟨"LNK_CTRL", 7344132, 32, [(128, 48)], [⟨⟨940048896, 1, 0⟩, .wo⟩, ⟨⟨940048897, 1, 0⟩, .rw⟩, ⟨⟨940048898, 1, 1⟩, .rw⟩]⟩,
   ⟨"LNK_TRAIN", 7344136, 32, [(128, 48)], [⟨⟨940049408, 4, 0⟩, .ro⟩, ⟨⟨940049412, 4, 0⟩, .ro⟩, ⟨⟨940049416, 4, 0⟩, .ro⟩, ⟨⟨940049420, 4, 0⟩, .ro⟩, ⟨⟨940049424, 16, 0⟩, .ro⟩]⟩,
   ⟨"LNK_QUAL", 7344140, 32, [(128, 48)], [⟨⟨940049920, 1, 0⟩, .ro⟩, ⟨⟨940049921, 1, 0⟩, .ro⟩, ⟨⟨940049936, 16, 0⟩, .ro⟩]⟩,
   ⟨"LNK_QUAL_BITS", 7344144, 64, [(128, 48)], [⟨⟨940050432, 64, 0⟩, .ro⟩]⟩,
   ⟨"LNK_QUAL_ERRS", 7344152, 64, [(128, 48)], [⟨⟨940051456, 64, 0⟩, .ro⟩]⟩,
   ⟨"LNK_FEC_CORR", 7344160, 64, [(128, 48)], [⟨⟨940052480, 64, 0⟩, .ro⟩]⟩,
   ⟨"LNK_FEC_UNCORR", 7344168, 64, [(128, 48)], [⟨⟨940053504, 64, 0⟩, .ro⟩]⟩,
   ⟨"LNK_REPLAY_CNT", 7344176, 64, [(128, 48)], [⟨⟨940054528, 64, 0⟩, .ro⟩]⟩,
   ⟨"LNK_CREDIT", 7344184, 32, [(128, 48)], [⟨⟨940055552, 4, 0⟩, .ro⟩, ⟨⟨940055556, 8, 0⟩, .ro⟩, ⟨⟨940055564, 8, 0⟩, .ro⟩, ⟨⟨940055572, 11, 0⟩, .ro⟩]⟩,
   ⟨"LNK_DEGRADE_CNT", 7344188, 32, [(128, 48)], [⟨⟨940056064, 32, 0⟩, .ro⟩]⟩,
   ⟨"LNK_ROUTE_NEXT", 7471104, 32, [(4, 4096)], [⟨⟨956301312, 6, 0⟩, .rw⟩, ⟨⟨956301318, 1, 0⟩, .rw⟩, ⟨⟨956301320, 6, 0⟩, .rw⟩, ⟨⟨956301326, 1, 0⟩, .rw⟩, ⟨⟨956301328, 6, 0⟩, .rw⟩, ⟨⟨956301334, 1, 0⟩, .rw⟩, ⟨⟨956301336, 6, 0⟩, .rw⟩, ⟨⟨956301342, 1, 0⟩, .rw⟩]⟩,
   ⟨"LNK_ROUTE_CUR", 7536640, 32, [(4, 4096)], [⟨⟨964689920, 6, 0⟩, .ro⟩, ⟨⟨964689926, 1, 0⟩, .ro⟩, ⟨⟨964689928, 6, 0⟩, .ro⟩, ⟨⟨964689934, 1, 0⟩, .ro⟩, ⟨⟨964689936, 6, 0⟩, .ro⟩, ⟨⟨964689942, 1, 0⟩, .ro⟩, ⟨⟨964689944, 6, 0⟩, .ro⟩, ⟨⟨964689950, 1, 0⟩, .ro⟩]⟩,
   ⟨"LNK_ROUTE_PREV", 7602176, 32, [(4, 4096)], [⟨⟨973078528, 6, 0⟩, .ro⟩, ⟨⟨973078534, 1, 0⟩, .ro⟩, ⟨⟨973078536, 6, 0⟩, .ro⟩, ⟨⟨973078542, 1, 0⟩, .ro⟩, ⟨⟨973078544, 6, 0⟩, .ro⟩, ⟨⟨973078550, 1, 0⟩, .ro⟩, ⟨⟨973078552, 6, 0⟩, .ro⟩, ⟨⟨973078558, 1, 0⟩, .ro⟩]⟩]

/-- The registers of block Col. -/
def regsCol : List RegDesc :=
  [
   ⟨"COL_REGION_BASE", 8388608, 64, [], [⟨⟨1073741844, 20, 0⟩, .rwl⟩]⟩,
   ⟨"COL_CFG", 8388616, 32, [], [⟨⟨1073742848, 16, 0⟩, .rw⟩]⟩,
   ⟨"COL_PEER_DOWN", 8388620, 32, [], [⟨⟨1073743360, 12, 0⟩, .wo⟩, ⟨⟨1073743372, 1, 0⟩, .wo⟩]⟩,
   ⟨"COL_STATUS", 8388624, 32, [], [⟨⟨1073743872, 10, 0⟩, .ro⟩, ⟨⟨1073743882, 10, 0⟩, .ro⟩]⟩]

/-- The registers of block Capo. -/
def regsCapo : List RegDesc :=
  [
   ⟨"CAPO_LIMIT", 131072, 32, [], [⟨⟨16777216, 13, 3000⟩, .rw⟩, ⟨⟨16777232, 13, 900⟩, .rw⟩]⟩,
   ⟨"CAPO_CTRL", 131076, 32, [], [⟨⟨16777728, 1, 1⟩, .rw⟩, ⟨⟨16777729, 1, 1⟩, .rw⟩, ⟨⟨16777736, 8, 17⟩, .rw⟩, ⟨⟨16777744, 6, 50⟩, .rw⟩]⟩,
   ⟨"CAPO_REASON", 131080, 32, [], [⟨⟨16778240, 11, 0⟩, .ro⟩]⟩,
   ⟨"CAPO_REASON_STICKY", 131084, 32, [], [⟨⟨16778752, 11, 0⟩, .w1c⟩]⟩,
   ⟨"CAPO_STATE", 131088, 32, [], [⟨⟨16779264, 13, 0⟩, .ro⟩, ⟨⟨16779280, 13, 0⟩, .ro⟩]⟩,
   ⟨"CAPO_EXPRESS", 131092, 32, [], [⟨⟨16779776, 10, 200⟩, .rw⟩, ⟨⟨16779786, 1, 0⟩, .ro⟩]⟩,
   ⟨"CAPO_INPUT", 131096, 32, [], [⟨⟨16780288, 13, 0⟩, .ro⟩, ⟨⟨16780304, 13, 0⟩, .ro⟩]⟩,
   ⟨"CAPO_ENERGY_TOTAL", 131104, 64, [], [⟨⟨16781312, 64, 0⟩, .ro⟩]⟩,
   ⟨"CAPO_ENERGY_IDLE", 131112, 64, [], [⟨⟨16782336, 64, 0⟩, .ro⟩]⟩,
   ⟨"CAPO_DEFDECL", 131136, 64, [(8, 5)], [⟨⟨16785408, 32, 10000⟩, .rw⟩, ⟨⟨16785440, 32, 5000⟩, .rw⟩]⟩,
   ⟨"CAPO_RSN_NS", 131328, 64, [(8, 11)], [⟨⟨16809984, 64, 0⟩, .ro⟩]⟩,
   ⟨"CAPO_RSN_START", 131456, 64, [(8, 11)], [⟨⟨16826368, 64, 0⟩, .ro⟩]⟩,
   ⟨"CAPO_PART_ENERGY", 131584, 64, [(8, 16)], [⟨⟨16842752, 64, 0⟩, .ro⟩]⟩,
   ⟨"CAPO_UNDER_CNT", 131712, 32, [(4, 16)], [⟨⟨16859136, 32, 0⟩, .ro⟩]⟩,
   ⟨"CAPO_COLL_DEFER_CNT", 131840, 32, [], [⟨⟨16875520, 32, 0⟩, .ro⟩]⟩,
   ⟨"CAPO_COLL_DEFER_NS", 131848, 64, [], [⟨⟨16876544, 64, 0⟩, .ro⟩]⟩,
   ⟨"CAPO_Q_ENERGY", 135168, 64, [(8, 1024)], [⟨⟨17301504, 64, 0⟩, .ro⟩]⟩]

/-- The registers of block Pdm. -/
def regsPdm : List RegDesc :=
  [
   ⟨"PDM_VMIN", 262144, 128, [(16, 76)], [⟨⟨33554432, 12, 0⟩, .ro⟩, ⟨⟨33554444, 1, 0⟩, .ro⟩, ⟨⟨33554496, 64, 0⟩, .ro⟩]⟩,
   ⟨"PDM_CELL", 264192, 32, [(4, 76)], [⟨⟨33816576, 10, 0⟩, .ro⟩, ⟨⟨33816586, 12, 4095⟩, .ro⟩, ⟨⟨33816598, 2, 0⟩, .ro⟩]⟩,
   ⟨"PDM_DROOP_CFG", 264704, 32, [], [⟨⟨33882112, 8, 40⟩, .rw⟩, ⟨⟨33882120, 8, 25⟩, .rw⟩]⟩,
   ⟨"PDM_VMIN_CLR", 264708, 32, [], [⟨⟨33882624, 7, 0⟩, .wo⟩, ⟨⟨33882631, 1, 0⟩, .wo⟩, ⟨⟨33882632, 1, 0⟩, .wo⟩]⟩,
   ⟨"PDM_RAIL", 264720, 32, [(4, 6)], [⟨⟨33884160, 16, 0⟩, .ro⟩, ⟨⟨33884176, 16, 0⟩, .ro⟩]⟩,
   ⟨"PDM_THRU", 264768, 32, [(4, 9)], [⟨⟨33890304, 12, 0⟩, .ro⟩, ⟨⟨33890316, 1, 0⟩, .ro⟩]⟩,
   ⟨"PDM_VSTK_SENSE", 264832, 32, [], [⟨⟨33898496, 8, 255⟩, .ro⟩, ⟨⟨33898504, 1, 0⟩, .ro⟩]⟩]

/-- The registers of block Thm. -/
def regsThm : List RegDesc :=
  [
   ⟨"THM_CFG", 196608, 32, [], [⟨⟨25165824, 10, 100⟩, .rw⟩, ⟨⟨25165840, 7, 25⟩, .rw⟩]⟩,
   ⟨"THM_STATUS", 196612, 32, [], [⟨⟨25166336, 2, 0⟩, .ro⟩, ⟨⟨25166338, 1, 0⟩, .ro⟩, ⟨⟨25166339, 1, 0⟩, .ro⟩, ⟨⟨25166340, 1, 0⟩, .ro⟩, ⟨⟨25166341, 1, 0⟩, .ro⟩]⟩,
   ⟨"THM_ALLOW", 196616, 32, [], [⟨⟨25166848, 13, 0⟩, .ro⟩, ⟨⟨25166864, 4, 0⟩, .ro⟩]⟩,
   ⟨"THM_COOLANT", 196620, 32, [], [⟨⟨25167360, 12, 0⟩, .ro⟩, ⟨⟨25167376, 12, 0⟩, .ro⟩]⟩,
   ⟨"THM_FLOW", 196624, 32, [], [⟨⟨25167872, 16, 0⟩, .ro⟩, ⟨⟨25167888, 16, 0⟩, .ro⟩]⟩,
   ⟨"THM_FLOW_CFG", 196628, 32, [], [⟨⟨25168384, 12, 0⟩, .rwl⟩, ⟨⟨25168396, 8, 50⟩, .rwl⟩, ⟨⟨25168404, 12, 1800⟩, .rw⟩]⟩,
   ⟨"THM_HOT", 196632, 32, [], [⟨⟨25168896, 8, 85⟩, .rw⟩, ⟨⟨25168904, 8, 80⟩, .rw⟩]⟩,
   ⟨"THM_SUSPECT", 196636, 32, [], [⟨⟨25169408, 9, 0⟩, .w1c⟩]⟩,
   ⟨"THM_MODEL_CFG", 196640, 32, [], [⟨⟨25169920, 16, 100⟩, .rwl⟩]⟩,
   ⟨"THM_DISAGREE_CNT", 196644, 32, [], [⟨⟨25170432, 32, 0⟩, .ro⟩]⟩,
   ⟨"THM_THETA", 196672, 32, [(4, 11)], [⟨⟨25174016, 20, 0⟩, .ro⟩, ⟨⟨25174036, 1, 0⟩, .ro⟩, ⟨⟨25174037, 1, 0⟩, .ro⟩]⟩,
   ⟨"THM_LAYER", 196736, 64, [(8, 9)], [⟨⟨25182208, 12, 0⟩, .ro⟩, ⟨⟨25182220, 12, 0⟩, .ro⟩, ⟨⟨25182232, 12, 0⟩, .ro⟩, ⟨⟨25182244, 1, 0⟩, .ro⟩, ⟨⟨25182245, 1, 0⟩, .ro⟩, ⟨⟨25182246, 1, 0⟩, .ro⟩, ⟨⟨25182247, 1, 0⟩, .ro⟩, ⟨⟨25182248, 8, 70⟩, .ro⟩]⟩,
   ⟨"THM_SENSOR", 197120, 32, [(4, 324)], [⟨⟨25231360, 12, 0⟩, .ro⟩, ⟨⟨25231372, 1, 0⟩, .ro⟩, ⟨⟨25231373, 1, 0⟩, .ro⟩]⟩]

/-- The registers of block Lut. -/
def regsLut : List RegDesc :=
  [
   ⟨"LUT_STATE", 65536, 32, [], [⟨⟨8388608, 4, 0⟩, .ro⟩, ⟨⟨8388612, 1, 0⟩, .ro⟩, ⟨⟨8388613, 1, 0⟩, .ro⟩, ⟨⟨8388614, 1, 0⟩, .ro⟩, ⟨⟨8388615, 1, 0⟩, .ro⟩, ⟨⟨8388616, 1, 0⟩, .ro⟩, ⟨⟨8388617, 1, 0⟩, .ro⟩, ⟨⟨8388618, 1, 0⟩, .ro⟩, ⟨⟨8388619, 1, 0⟩, .ro⟩, ⟨⟨8388620, 1, 0⟩, .ro⟩]⟩,
   ⟨"LUT_TIME", 65540, 32, [], [⟨⟨8389120, 16, 0⟩, .ro⟩]⟩,
   ⟨"LUT_CFG", 65544, 32, [], [⟨⟨8389632, 7, 48⟩, .rwl⟩, ⟨⟨8389639, 1, 0⟩, .rwl⟩, ⟨⟨8389640, 1, 0⟩, .rw⟩]⟩,
   ⟨"LUT_RESET", 65552, 32, [], [⟨⟨8390656, 3, 0⟩, .rw⟩, ⟨⟨8390659, 10, 0⟩, .rw⟩, ⟨⟨8390669, 4, 0⟩, .rw⟩, ⟨⟨8390687, 1, 0⟩, .wo⟩]⟩,
   ⟨"LUT_RESET_STATUS", 65556, 32, [], [⟨⟨8391168, 1, 0⟩, .ro⟩, ⟨⟨8391169, 3, 0⟩, .ro⟩, ⟨⟨8391172, 3, 0⟩, .ro⟩, ⟨⟨8391184, 16, 0⟩, .ro⟩]⟩,
   ⟨"LUT_RELOAD", 65560, 32, [], [⟨⟨8391680, 8, 0⟩, .rw⟩, ⟨⟨8391688, 4, 0⟩, .rw⟩, ⟨⟨8391692, 1, 0⟩, .rw⟩, ⟨⟨8391693, 1, 0⟩, .wo⟩, ⟨⟨8391694, 1, 0⟩, .ro⟩, ⟨⟨8391695, 1, 0⟩, .w1c⟩, ⟨⟨8391696, 4, 0⟩, .ro⟩]⟩,
   ⟨"LUT_STAGE", 65792, 128, [(16, 9)], [⟨⟨8421376, 3, 0⟩, .ro⟩, ⟨⟨8421392, 16, 0⟩, .ro⟩, ⟨⟨8421408, 16, 0⟩, .ro⟩, ⟨⟨8421424, 16, 0⟩, .ro⟩, ⟨⟨8421440, 16, 0⟩, .ro⟩, ⟨⟨8421456, 16, 0⟩, .ro⟩, ⟨⟨8421472, 8, 0⟩, .ro⟩, ⟨⟨8421480, 24, 0⟩, .ro⟩]⟩,
   ⟨"LUT_NEWDEF_CNT", 66048, 32, [], [⟨⟨8454144, 16, 0⟩, .ro⟩]⟩,
   ⟨"LUT_EXPORT_CTRL", 66304, 32, [], [⟨⟨8486912, 1, 0⟩, .wo⟩, ⟨⟨8486913, 1, 0⟩, .ro⟩]⟩,
   ⟨"LUT_EXPORT_LEN", 66308, 32, [], [⟨⟨8487424, 24, 0⟩, .ro⟩]⟩,
   ⟨"LUT_EXPORT_ADDR", 66312, 32, [], [⟨⟨8487938, 22, 0⟩, .rw⟩]⟩,
   ⟨"LUT_EXPORT_DATA", 66316, 32, [], [⟨⟨8488448, 32, 0⟩, .ro⟩]⟩,
   ⟨"LUT_NEWDEF", 69632, 64, [(8, 256)], [⟨⟨8912896, 64, 0⟩, .ro⟩]⟩]

/-- The registers of block Glb. -/
def regsGlb : List RegDesc :=
  [
   ⟨"GLB_STATUS", 16, 32, [], [⟨⟨2048, 2, 0⟩, .ro⟩, ⟨⟨2050, 7, 0⟩, .ro⟩]⟩,
   ⟨"GLB_HALT_CAUSE", 20, 32, [], [⟨⟨2560, 8, 0⟩, .ro⟩, ⟨⟨2568, 24, 0⟩, .ro⟩]⟩,
   ⟨"GLB_ID", 0, 32, [], [⟨⟨0, 32, 0⟩, .ro⟩]⟩,
   ⟨"GLB_SERIAL", 8, 64, [], [⟨⟨1024, 64, 0⟩, .ro⟩]⟩,
   ⟨"GLB_TIME", 24, 64, [], [⟨⟨3072, 64, 0⟩, .ro⟩]⟩,
   ⟨"GLB_SLOT", 32, 32, [], [⟨⟨4096, 4, 0⟩, .ro⟩]⟩]

/-- The registers of block Evt. -/
def regsEvt : List RegDesc :=
  [
   ⟨"EVT_BASE", 393216, 64, [], [⟨⟨50331654, 58, 0⟩, .rw⟩]⟩,
   ⟨"EVT_CFG", 393224, 32, [], [⟨⟨50332672, 5, 6⟩, .rw⟩, ⟨⟨50332680, 1, 0⟩, .rw⟩, ⟨⟨50332681, 1, 0⟩, .rw⟩, ⟨⟨50332682, 11, 0⟩, .rw⟩, ⟨⟨50332693, 2, 0⟩, .rw⟩]⟩,
   ⟨"EVT_CONS", 393228, 32, [], [⟨⟨50333184, 17, 0⟩, .rw⟩]⟩,
   ⟨"EVT_PROD", 393232, 32, [], [⟨⟨50333696, 17, 0⟩, .ro⟩]⟩,
   ⟨"EVT_STATUS", 393236, 32, [], [⟨⟨50334208, 1, 0⟩, .w1c⟩, ⟨⟨50334209, 1, 0⟩, .w1c⟩]⟩,
   ⟨"EVT_LOST_CNT", 393240, 32, [], [⟨⟨50334720, 32, 0⟩, .ro⟩]⟩,
   ⟨"EVT_SUPPR_CNT", 393244, 32, [], [⟨⟨50335232, 32, 0⟩, .ro⟩]⟩,
   ⟨"EVT_INPUT", 393248, 32, [], [⟨⟨50335744, 1, 0⟩, .ro⟩, ⟨⟨50335745, 1, 0⟩, .ro⟩, ⟨⟨50335746, 1, 0⟩, .ro⟩, ⟨⟨50335747, 1, 0⟩, .ro⟩]⟩,
   ⟨"EVT_FENCED_CORE", 393472, 32, [(4, 32)], [⟨⟨50364416, 32, 0⟩, .ro⟩]⟩,
   ⟨"EVT_FENCED_LC", 393600, 64, [], [⟨⟨50380800, 64, 0⟩, .ro⟩]⟩,
   ⟨"EVT_FENCED_UPD", 393608, 64, [], [⟨⟨50381824, 64, 0⟩, .ro⟩]⟩]

/-- The registers of block Dbg. -/
def regsDbg : List RegDesc :=
  [
   ⟨"DBG_TRACE_BASE", 9437184, 64, [], [⟨⟨1207959552, 40, 0⟩, .rw⟩]⟩,
   ⟨"DBG_TRACE_CFG", 9437192, 64, [], [⟨⟨1207960576, 5, 22⟩, .rw⟩, ⟨⟨1207960581, 2, 2⟩, .rw⟩, ⟨⟨1207960583, 5, 8⟩, .rw⟩, ⟨⟨1207960592, 16, 6⟩, .rw⟩, ⟨⟨1207960608, 16, 65535⟩, .rw⟩]⟩,
   ⟨"DBG_TRACE_CTRL", 9437200, 32, [], [⟨⟨1207961600, 1, 0⟩, .rw⟩, ⟨⟨1207961601, 1, 0⟩, .wo⟩]⟩,
   ⟨"DBG_TRACE_STATUS", 9437204, 32, [], [⟨⟨1207962112, 2, 0⟩, .ro⟩, ⟨⟨1207962114, 1, 0⟩, .ro⟩, ⟨⟨1207962115, 1, 0⟩, .ro⟩, ⟨⟨1207962128, 16, 0⟩, .ro⟩]⟩,
   ⟨"DBG_TRACE_WPTR", 9437208, 32, [], [⟨⟨1207962624, 30, 0⟩, .ro⟩]⟩,
   ⟨"DBG_TRACE_START", 9437212, 32, [], [⟨⟨1207963136, 30, 0⟩, .ro⟩]⟩,
   ⟨"DBG_TRACE_DROP", 9437216, 64, [], [⟨⟨1207963648, 64, 0⟩, .ro⟩]⟩,
   ⟨"DBG_TRIG_CFG", 9437224, 32, [], [⟨⟨1207964672, 12, 0⟩, .rw⟩, ⟨⟨1207964684, 4, 0⟩, .rw⟩, ⟨⟨1207964688, 1, 0⟩, .rw⟩, ⟨⟨1207964689, 1, 0⟩, .rw⟩, ⟨⟨1207964690, 1, 0⟩, .rw⟩, ⟨⟨1207964691, 1, 1⟩, .rw⟩, ⟨⟨1207964692, 4, 0⟩, .rw⟩]⟩,
   ⟨"DBG_STOP_CTRL", 9437232, 32, [], [⟨⟨1207965696, 1, 0⟩, .wo⟩, ⟨⟨1207965697, 1, 0⟩, .wo⟩, ⟨⟨1207965698, 1, 0⟩, .rw⟩, ⟨⟨1207965699, 1, 0⟩, .rw⟩]⟩,
   ⟨"DBG_STOP_STATUS", 9437236, 32, [], [⟨⟨1207966208, 2, 0⟩, .ro⟩, ⟨⟨1207966210, 2, 0⟩, .ro⟩, ⟨⟨1207966224, 16, 0⟩, .ro⟩]⟩,
   ⟨"DBG_MARK_CTRL", 9437240, 32, [], [⟨⟨1207966720, 16, 0⟩, .rw⟩]⟩,
   ⟨"DBG_CNT_SNAP", 9437244, 32, [], [⟨⟨1207967232, 1, 0⟩, .wo⟩]⟩,
   ⟨"DBG_STOP_CORE", 9441280, 128, [(16, 1024)], [⟨⟨1208483840, 64, 0⟩, .ro⟩, ⟨⟨1208483904, 17, 0⟩, .ro⟩, ⟨⟨1208483921, 2, 0⟩, .ro⟩, ⟨⟨1208483923, 3, 0⟩, .ro⟩, ⟨⟨1208483926, 1, 0⟩, .ro⟩]⟩,
   ⟨"DBG_CNT_DEV", 9457664, 64, [(8, 32)], [⟨⟨1210580992, 64, 0⟩, .ro⟩]⟩,
   ⟨"DBG_CNT_LC", 9502720, 64, [(256, 64), (8, 32)], [⟨⟨1216348160, 64, 0⟩, .ro⟩]⟩]

/-- The registers of block Part. -/
def regsPart : List RegDesc :=
  [
   ⟨"PART_CFG", 524288, 32, [(4, 16)], [⟨⟨67108864, 1, 0⟩, .rwl⟩, ⟨⟨67108865, 12, 2048⟩, .rwl⟩]⟩]

/-- The registers of block Nvm. -/
def regsNvm : List RegDesc :=
  [
   ⟨"NVM_ADDR", 11534336, 32, [], [⟨⟨1476395008, 26, 0⟩, .rw⟩]⟩,
   ⟨"NVM_CMD", 11534340, 32, [], [⟨⟨1476395520, 2, 0⟩, .rw⟩, ⟨⟨1476395522, 9, 0⟩, .rw⟩, ⟨⟨1476395551, 1, 0⟩, .wo⟩]⟩,
   ⟨"NVM_STATUS", 11534344, 32, [], [⟨⟨1476396032, 1, 0⟩, .ro⟩, ⟨⟨1476396033, 1, 0⟩, .w1c⟩, ⟨⟨1476396034, 4, 0⟩, .ro⟩, ⟨⟨1476396038, 1, 0⟩, .ro⟩]⟩,
   ⟨"NVM_BUF", 11538432, 32, [(4, 64)], [⟨⟨1476919296, 32, 0⟩, .rw⟩]⟩]

/-- The registers of block Mgt. -/
def regsMgt : List RegDesc :=
  [
   ⟨"MGT_STATUS", 10485760, 32, [], [⟨⟨1342177280, 7, 0⟩, .ro⟩, ⟨⟨1342177287, 1, 0⟩, .ro⟩, ⟨⟨1342177288, 16, 0⟩, .ro⟩]⟩,
   ⟨"MGT_ALERT", 10485764, 32, [], [⟨⟨1342177792, 4, 0⟩, .w1c⟩, ⟨⟨1342177796, 4, 15⟩, .rw⟩, ⟨⟨1342177800, 2, 2⟩, .rw⟩]⟩,
   ⟨"MGT_TRAY_CFG", 10485776, 32, [], [⟨⟨1342179328, 7, 72⟩, .rwl⟩, ⟨⟨1342179335, 7, 73⟩, .rwl⟩, ⟨⟨1342179342, 8, 0⟩, .rwl⟩, ⟨⟨1342179350, 2, 0⟩, .rwl⟩, ⟨⟨1342179352, 2, 1⟩, .rwl⟩]⟩,
   ⟨"MGT_TRAY_STATUS", 10485780, 32, [], [⟨⟨1342179840, 16, 0⟩, .ro⟩]⟩,
   ⟨"MGT_EVT_LAST", 10485792, 32, [(4, 8)], [⟨⟨1342181376, 32, 0⟩, .ro⟩]⟩]

/-- The registers of block Queue. -/
def regsQueue : List RegDesc :=
  [
   ⟨"SQ_DB", 1114112, 32, [(256, 1024)], [⟨⟨142606336, 17, 0⟩, .wo⟩]⟩,
   ⟨"CQ_DB", 1114116, 32, [(256, 1024)], [⟨⟨142606848, 17, 0⟩, .wo⟩]⟩,
   ⟨"SQ_BASE", 1114128, 64, [(256, 1024)], [⟨⟨142608390, 58, 0⟩, .rw⟩]⟩,
   ⟨"SQ_CFG", 1114136, 32, [(256, 1024)], [⟨⟨142609408, 5, 6⟩, .rw⟩, ⟨⟨142609416, 1, 0⟩, .rw⟩, ⟨⟨142609424, 12, 0⟩, .rw⟩]⟩,
   ⟨"CQ_BASE", 1114144, 64, [(256, 1024)], [⟨⟨142610438, 58, 0⟩, .rw⟩]⟩,
   ⟨"CQ_CFG", 1114152, 32, [(256, 1024)], [⟨⟨142611456, 5, 6⟩, .rw⟩, ⟨⟨142611464, 1, 0⟩, .rw⟩, ⟨⟨142611465, 1, 0⟩, .rw⟩, ⟨⟨142611472, 11, 0⟩, .rw⟩]⟩,
   ⟨"QSTATE", 1114160, 32, [(256, 1024)], [⟨⟨142612480, 3, 0⟩, .ro⟩, ⟨⟨142612483, 1, 0⟩, .w1c⟩, ⟨⟨142612484, 1, 0⟩, .w1c⟩, ⟨⟨142612485, 1, 0⟩, .ro⟩, ⟨⟨142612486, 1, 0⟩, .ro⟩, ⟨⟨142612487, 1, 0⟩, .ro⟩, ⟨⟨142612488, 1, 0⟩, .ro⟩, ⟨⟨142612489, 1, 0⟩, .ro⟩]⟩,
   ⟨"QCTRL", 1114164, 32, [(256, 1024)], [⟨⟨142612992, 1, 0⟩, .wo⟩, ⟨⟨142612993, 1, 0⟩, .wo⟩]⟩,
   ⟨"QTMO", 1114168, 32, [(256, 1024)], [⟨⟨142613504, 16, 0⟩, .rw⟩]⟩,
   ⟨"SQ_PTR", 1114176, 32, [(256, 1024)], [⟨⟨142614528, 17, 0⟩, .ro⟩]⟩,
   ⟨"CQ_PTR", 1114180, 32, [(256, 1024)], [⟨⟨142615040, 17, 0⟩, .ro⟩]⟩,
   ⟨"OUTSTANDING", 1114184, 32, [(256, 1024)], [⟨⟨142615552, 17, 0⟩, .ro⟩]⟩,
   ⟨"NEXT_SEQ", 1114188, 32, [(256, 1024)], [⟨⟨142616064, 16, 0⟩, .ro⟩]⟩]

/-- The registers of block Named. -/
def regsNamed : List RegDesc :=
  [
   ⟨"NOC_LINK_RETRY_CNT", 268435456, 32, [(4, 288)], [⟨⟨34359738368, 32, 0⟩, .ro⟩]⟩,
   ⟨"NOC_LINK_FAIL", 268436736, 32, [(4, 288)], [⟨⟨34359902208, 32, 0⟩, .ro⟩]⟩,
   ⟨"NOC_ECC_CNT", 268438016, 32, [], [⟨⟨34360066048, 32, 0⟩, .ro⟩]⟩,
   ⟨"NOC_METER_HELD", 268438272, 64, [], [⟨⟨34360098816, 64, 0⟩, .ro⟩]⟩,
   ⟨"COL_PEER_LOST_CNT", 268438528, 32, [], [⟨⟨34360131584, 32, 0⟩, .ro⟩]⟩,
   ⟨"COL_FULL_CNT", 268438784, 32, [], [⟨⟨34360164352, 32, 0⟩, .ro⟩]⟩,
   ⟨"COL_WAIT_NS", 268439040, 64, [], [⟨⟨34360197120, 64, 0⟩, .ro⟩]⟩,
   ⟨"COL_WAIT_THR_NS", 268439296, 64, [], [⟨⟨34360229888, 64, 0⟩, .ro⟩]⟩,
   ⟨"COL_SAT_CNT", 268439552, 64, [], [⟨⟨34360262656, 64, 0⟩, .ro⟩]⟩,
   ⟨"COL_GROUP_SEL", 268439808, 32, [], [⟨⟨34360295424, 32, 0⟩, .rw⟩]⟩,
   ⟨"DBG_STOP_ENG_TIME", 268440064, 64, [(8, 5)], [⟨⟨34360328192, 64, 0⟩, .ro⟩]⟩,
   ⟨"DBG_STOP_ENG_SEQ", 268440320, 32, [(4, 5)], [⟨⟨34360360960, 32, 0⟩, .ro⟩]⟩,
   ⟨"DBG_CORE_SEL", 268440576, 32, [], [⟨⟨34360393728, 32, 0⟩, .rw⟩]⟩,
   ⟨"DBG_CNT_LINK_TX", 268440832, 64, [(8, 48)], [⟨⟨34360426496, 64, 0⟩, .ro⟩]⟩,
   ⟨"DBG_CNT_LINK_RX", 268441344, 64, [(8, 48)], [⟨⟨34360492032, 64, 0⟩, .ro⟩]⟩,
   ⟨"DBG_CNT_SNAP_TIME", 268441856, 64, [], [⟨⟨34360557568, 64, 0⟩, .ro⟩]⟩,
   ⟨"GLB_STEP", 268442112, 32, [], [⟨⟨34360590336, 32, 0⟩, .ro⟩]⟩,
   ⟨"GLB_FUSE_SIGN", 268442368, 32, [], [⟨⟨34360623104, 32, 0⟩, .ro⟩]⟩,
   ⟨"GLB_IMAGE_GEN", 268442624, 32, [(4, 256)], [⟨⟨34360655872, 32, 0⟩, .ro⟩]⟩,
   ⟨"CNT", 268443648, 64, [(256, 16), (8, 32)], [⟨⟨34360786944, 64, 0⟩, .ro⟩]⟩,
   ⟨"CNT_SHADOW", 268447744, 64, [(256, 16), (8, 32)], [⟨⟨34361311232, 64, 0⟩, .ro⟩]⟩,
   ⟨"CNT_SNAP_TIME", 268451840, 64, [(8, 16)], [⟨⟨34361835520, 64, 0⟩, .ro⟩]⟩,
   ⟨"DBG_CNT_DEV_SHADOW", 268452096, 64, [(8, 32)], [⟨⟨34361868288, 64, 0⟩, .ro⟩]⟩,
   ⟨"DBG_CNT_LC_SHADOW", 268452352, 64, [(256, 64), (8, 32)], [⟨⟨34361901056, 64, 0⟩, .ro⟩]⟩]

/-- Every register of the manual's register lists. -/
def regTable : List RegDesc :=
  regsQctl ++ regsMem ++ regsMmu ++ regsFret ++ regsUpd ++ regsNoc ++ regsClk ++ regsLnk ++ regsCol ++ regsCapo ++ regsPdm ++ regsThm ++ regsLut ++ regsGlb ++ regsEvt ++ regsDbg ++ regsPart ++ regsNvm ++ regsMgt ++ regsQueue ++ regsNamed

end Sys2Proof.Machine
end

