-- ==== Sys2Proof/Machine/State.lean ====
section
/-! DEFINITION. The state of the block as plain data, the reasons a step can stop, and the state
right after reset. Register fields are in `fields`, by key (RegMap.lean); everything else that the
manual gives the block is a field of its own. -/

namespace Sys2Proof.Machine

/-- Why a step stops. -/
inductive Fault where
  /-- Raised by any meaning whose command names a unit, queue, link, core or function that the
  hardware does not have (*Table: Physical and usable counts*). Safe: the model stops where there is
  nothing to command. -/
  | noSuchUnit
  deriving DecidableEq, Repr

/-- Why a step is refused. -/
inductive Refusal where
  /-- Raised by an arm of `exec` that has no meaning yet. Safe: nothing is claimed of it. -/
  | notModelled (mnemonic : String)
  deriving DecidableEq, Repr

/-- The answer of a command: a status, a substatus and a DETAIL (*Table: Completion record*). -/
structure Result where
  status : Nat
  sub : Nat
  detail : Nat
  /-- The command applies no signal of its own (R22, R191). -/
  noSig : Bool := false
  deriving DecidableEq, Repr

/-- A JOIN report of one work item (R36). -/
structure Report where
  seq : Nat
  res : Result
  deriving DecidableEq, Repr

/-- A command fetched and not yet dispatched; `abs` counts fetches since START, so that the sequence
number is `abs mod 65,536` (R28). -/
structure Fetched where
  abs : Nat
  cmd : CmdWord
  deriving DecidableEq, Repr

/-- The ring geometry taken at START (R52). -/
structure Ring where
  base : Nat
  log2n : Nat
  dev : Bool
  ctx : Nat
  deriving DecidableEq, Repr

/-- A queue: what the queue page's register fields do not hold. -/
structure Queue where
  sq : Ring
  cq : Ring
  prod : Nat
  cons : Nat
  nextAbs : Nat
  fetched : List Fetched
  waitSince : Option Nat
  deriving DecidableEq, Repr

/-- A sequence table entry (*Table: Sequence table entry (64 bytes)*); an unlisted entry is free. -/
structure Seq where
  base : Nat
  ctx : Nat
  limit : Nat
  sumVa : Nat
  pos : Nat
  maxTokens : Nat
  kvfmt : Nat
  sumEn : Bool
  heads : Nat
  layers : Nat
  hdim : Nat
  p : Nat
  pageLog2 : Nat
  part : Nat
  domain : Nat
  node : Option Nat
  deriving DecidableEq, Repr

/-- A dispatched command that has not completed. -/
structure OpenCmd where
  q : Nat
  tag : Nat
  abs : Nat
  cmd : CmdWord
  tDispatch : Nat
  /-- Declared energy (µJ) and duration (ns) after R261, 0 energy and `express` for express queues. -/
  energy : Nat
  dur : Nat
  express : Bool
  /-- The join point (R35), a unit number of *Table: Unit numbers in TH.SRC and TH.DST [11:0]*. -/
  join : Nat
  /-- The engine has begun it. -/
  begun : Bool
  /-- Number of work items, once the item with LAST is issued (R36). -/
  items : Option Nat
  /-- Reports sent and not yet received by the join point. -/
  sent : List Report
  /-- Reports received. -/
  got : List Report
  /-- DETAIL on ST_OK. -/
  okDetail : Nat
  /-- Energy attributed so far, µJ (R267). -/
  attributed : Nat
  /-- For an attend command: the sequence entry read at dispatch, and FRET_MODE.EN then (R115, R136). -/
  entry : Option Seq
  fretOn : Bool
  /-- For a LAUNCH: the ranges (context, address, bytes) that its cores have stored to (R38). -/
  outs : List (Nat × Nat × Nat)
  /-- For a LAUNCH that has begun: the clusters on which it is still to start (R314). -/
  starts : List Nat
  deriving DecidableEq, Repr

/-- The registers that an instruction names, of a core or of an update unit (*Table: Register
files*). Registers that a table does not list are 0. -/
structure RegFile where
  pc : Nat
  x : Sparse PWord
  v : Sparse PWord
  p : Sparse Word
  deriving DecidableEq, Repr

/-- A running kernel of a core: its command and its slot (R43). -/
structure Kernel where
  q : Nat
  tag : Nat
  part : Nat
  ctx : Nat
  mask : DWord
  slot : Nat
  express : Bool
  item : Nat
  cyc0 : Nat
  deriving DecidableEq, Repr

/-- What a waiting core waits for (R177). -/
inductive Wait where
  | waitd (mask : Nat)
  | waita (mask : Nat)
  | fence
  | sigw (word : Nat) (val : Word)
  | bar (scope : Bool) (id : Nat) (d : Nat)
  | dwait (mask : Word) (d : Nat) (poison : Bool)
  deriving DecidableEq, Repr

/-- An array instruction in flight: the descriptors copied at issue (R172). -/
structure ArrOp where
  op : Nat
  mode : Nat
  ts : BitVec 256
  tx : BitVec 256
  ty : BitVec 256
  acc : Bool
  tok : Nat
  anchor : BitVec 10
  /-- The instruction's number in program order since LAUNCH (R182). -/
  seq : Nat
  /-- Ranges (first byte, length) written to its inputs after issue: outputs that depend on them are undefined
  (R174). -/
  dirty : List (Nat × Nat)
  /-- 16-byte units of its outputs that it wrote before a store to them, and the bytes of those stores,
  which stay (R174). -/
  passed : List Nat
  kept : List Nat
  deriving DecidableEq, Repr

/-- A column DMA transfer in flight, with the values read at issue (R174, R175). -/
structure DmaOp where
  put : Bool
  l : Nat
  va : DWord
  n : Nat
  vstride : BitVec 32
  lstride : Nat
  rows : Nat
  tok : Nat
  ctx : Nat
  /-- The instruction's number in program order since LAUNCH (R182). -/
  seq : Nat
  /-- PUT: 16-byte units read before a store to them, as data and poison per word (R140). -/
  got : Sparse (BitVec 128 × BitVec 2)
  /-- GET: units written before a store to them, and the bytes of those stores. -/
  passed : List Nat
  kept : List Nat
  /-- Draws of the packets of this transfer that arrived poisoned (R212). -/
  bad : List Nat
  deriving DecidableEq, Repr

/-- An entry of a core's mismatch counts (R154). -/
structure CellCount where
  row : Nat
  col : Nat
  count : Nat
  deriving DecidableEq, Repr

/-- A logical core. -/
structure Core where
  rf : RegFile
  t : Sparse (BitVec 256)
  astat : BitVec 4
  db : Word
  kernel : Option Kernel
  wait : Option Wait
  /-- END has executed; the kernel ends once array and DMA work has completed. -/
  ending : Bool
  /-- Counts as arrived at every later barrier: END, exception or reset (R178, R300). -/
  gone : Bool
  arr : List ArrOp
  dma : List DmaOp
  /-- Instructions issued since LAUNCH, and the first exception in program order (R182). -/
  issued : Nat
  exc : Option Report
  ls : Sparse Byte
  lp : Sparse Bool
  /-- Bits of each local-store word's SEC-DED code that have changed since the word was written (R139). -/
  le : Sparse Nat
  cells : List CellCount
  /-- Cells that have reached a count of 3, in order (R155). -/
  subPending : List (Nat × Nat)
  rowSub : Option Nat
  colSub : Option Nat
  /-- Spare lane, row and column position of wear levelling (R137). -/
  wear : Nat
  /-- Stopped by a global stop (R339). -/
  stopped : Bool
  /-- The registers were lost in OFF: they mean nothing until the next LAUNCH or core reset (R310). -/
  lost : Bool
  deriving DecidableEq, Repr

/-- A program slot of a cluster: a range of the instruction store (R47). -/
structure Slot where
  off : Nat
  len : Nat
  loaded : Bool
  /-- Undefined after a failed load (R45). -/
  undef : Bool
  deriving DecidableEq, Repr

/-- What the 16 cores of a logical cluster share. -/
structure Cluster where
  slots : Sparse Slot
  istore : Sparse Byte
  lastSlot : Option Nat
  /-- Held while a cluster reset drains (R301). -/
  hold : Bool
  deriving DecidableEq, Repr

/-- A doorbell on its way to a core (R179). -/
structure Bell where
  core : Nat
  val : Word
  deriving DecidableEq, Repr

/-- A load of a program into the named clusters (R47). -/
structure Load where
  q : Nat
  tag : Nat
  slot : Nat
  off : Nat
  bytes : List Byte
  left : List Nat
  deriving DecidableEq, Repr

/-- A line declared a hard fault whose saddle entry is not installed yet (R72). -/
structure SaddleHold where
  line : Nat
  dpa : Nat
  deriving DecidableEq, Repr

/-- A saddle entry (*Table: Saddle, retired-frame and column-map fields*). -/
structure Saddle where
  line : Nat
  origin : Bool
  poisoned : Bool
  deriving DecidableEq, Repr

/-- An evacuation that has begun (R77). -/
structure Evac where
  layer : Nat
  src : Nat
  dst : Nat
  /-- The bank at the mark is copied and waits for its switch (R130). -/
  copied : Bool
  deriving DecidableEq, Repr

/-- A cached translation (R88): one leaf covers a whole page. -/
structure TlbEntry where
  ctx : Nat
  va : Nat
  size : Nat
  leaf : DWord
  deriving DecidableEq, Repr

/-- An invalidation that is in progress (R88). -/
structure Inval where
  ctx : Nat
  all : Bool
  va : Nat
  len : Nat
  deriving DecidableEq, Repr

/-- A prefix node (*Table: Prefix node (64 bytes)*); an unlisted bucket is free. The page vector is
the list of its pages, DPA[36:14] each. -/
structure Node where
  hash : DWord
  parent : Option Nat
  vec : Nat
  layout : Nat
  refs : Nat
  domain : Nat
  hold : Bool
  depth : Nat
  pages : List Nat
  deriving DecidableEq, Repr

/-- A range granted to a pool (R93). -/
structure Grant where
  part : Nat
  layer : Nat
  colLo : Nat
  colHi : Nat
  banks : BitVec 4
  lo : Nat
  hi : Nat
  log2 : Nat
  deriving DecidableEq, Repr

/-- The use of a granted page that is not free. -/
structure PageUse where
  refs : Nat
  /-- Withheld from its pool when its count reaches 0 (R112). -/
  withhold : Bool
  /-- Out of the pool for good until a device warm reset. -/
  quarantined : Bool
  /-- Left a mapping: returns once these commands have completed (R110). -/
  returning : Option (List (Nat × Nat))
  deriving DecidableEq, Repr

/-- The state of one query vector (R121): m, l and the o elements, as FP32 bits. -/
structure Softmax where
  m : Word
  l : Word
  o : List Word
  deriving DecidableEq, Repr

/-- A fret work item (R117). -/
structure AttItem where
  seq : Nat
  head : Nat
  group : Nat
  block : Nat
  issued : Bool
  /-- Its place in the order in which items reach the frets (R133). -/
  arr : Nat
  /-- Its column, once it has started on a fret (R130). -/
  served : Bool
  merged : Bool
  res : Result
  /-- The partial of each vector of its group, on its way to the merge unit. -/
  partials : List Softmax
  deriving DecidableEq, Repr

/-- An attend command in service: the entry read at dispatch, the descriptor and the items. -/
structure Attend where
  q : Nat
  tag : Nat
  entry : Seq
  layer : Nat
  flags : Nat
  kvEnd : Nat
  qctx : Nat
  core : Nat
  window : Nat
  headFirst : Nat
  headCount : Nat
  nq : Nat
  softcap : Word
  out : DWord
  st : DWord
  sinks : Nat
  qpos : List Nat
  scale : List Word
  query : List (BitVec 16)
  items : List AttItem
  deriving DecidableEq, Repr

/-- A parameter group (*Table: Group table entry (128 bytes)*); an unlisted entry reads 0. The host's
128 bytes stand in `data`; what the engine sets stands beside them. -/
structure Group where
  data : BitVec 1024
  valid : Bool
  version : Nat
  busy : Bool
  curves : List (List (Nat × Word))
  /-- Commands (queue, fetch count) that were open when the group flipped to its version (R192). -/
  drain : List (Nat × Nat)
  deriving DecidableEq, Repr

/-- The passes of an UPDATE (R193). -/
inductive Pass where
  | hold | stats | statsDone | prologue | prologueDone | apply
  deriving DecidableEq, Repr

/-- What a block reads: element codes, scale, state words as bits, gradient values, frozen lanes. -/
structure Blk where
  codes : Nat
  scale : Nat
  st : List Nat
  grad : List Word
  mask : Word
  deriving DecidableEq, Repr

/-- An invocation of an update unit: its command, its block (none: the prologue) and its count. -/
structure Invocation where
  q : Nat
  tag : Nat
  pass : Pass
  block : Nat
  /-- The block as read; none for the prologue. -/
  blk : Option Blk
  count : Nat
  ended : Bool
  /-- The exception or the limit that ended it (R197). -/
  exc : Option Result
  limit : Nat
  deriving DecidableEq, Repr

/-- A physical update unit. -/
structure UpdUnit where
  rf : RegFile
  inv : Option Invocation
  deriving DecidableEq, Repr

/-- An UPDATE in service. -/
structure Upd where
  q : Nat
  tag : Nat
  group : Nat
  step : Nat
  pass : Pass
  /-- Blocks of the pass still to start, by physical update unit. -/
  todo : Sparse (List Nat)
  frozen : Nat
  /-- Statistics outputs per block: 8 registers of 32 lanes. -/
  stats : Sparse (List Word)
  /-- Prologue outputs: 16 registers of 32 lanes. -/
  pro : List Word
  /-- Failures, by block. -/
  fails : List Report
  /-- Words of the new copy stored poisoned (R205): address and bytes. -/
  bad : List (Nat × Nat)
  deriving DecidableEq, Repr

/-- A packet waiting at a router output (R208): its number in order of injection, and how long it waits: the
time of the last change of the NoC clock or its coming, and the fortieths of a cycle waited before. -/
structure NocWait where
  no : Nat
  pkt : Packet
  inPort : Nat
  aged : Bool
  since : Nat
  cycles : Nat
  deriving DecidableEq, Repr

/-- The waiting packets of one router output and its round-robin position. -/
structure NocOut where
  waiting : List NocWait
  rr : Nat
  deriving DecidableEq, Repr

/-- A route change in progress (R212). -/
structure RouteChange where
  router : Nat
  /-- The failed mesh link of the router; none when the router itself is bypassed. -/
  dir : Option Nat
  since : Nat
  deriving DecidableEq, Repr

/-- A flit in a replay buffer (R226). -/
structure Replay where
  seq : Nat
  flit : FlitWord
  resends : Nat
  /-- The switch forwarded its packet (R342). -/
  fwd : Bool
  deriving DecidableEq, Repr

/-- A packet queued at a link port, with its epoch and whether the switch forwards it (R342). -/
structure TxPkt where
  pkt : Packet
  epoch : Nat
  fwd : Bool
  deriving DecidableEq, Repr

/-- A link port: what its registers do not hold. -/
structure Link where
  txSeq : Nat
  replay : List Replay
  rxSeq : Nat
  nakSent : Bool
  ackOwed : Option Nat
  credOwed : List Nat
  /-- Queued packets of VC0 to VC3. -/
  queues : List (List TxPkt)
  /-- The link is held by a HOLD flit since this time (R304). -/
  heldSince : Option Nat
  lastData : Nat
  sleepSent : Bool
  probe : Nat
  lastProbe : Nat
  /-- Flits sent on the wire, oldest first. -/
  outbox : List FlitWord
  /-- A retrain is under way since this time, over these lanes at most. -/
  retraining : Option Nat
  lanes : BitVec 4
  /-- The least width code that a retrain may reach: a link widens only when asked to (R228). -/
  cap : Nat
  /-- The sequence numbers live on over a soundboard reset (R304). -/
  kept : Bool
  progress : List Nat
  deriving DecidableEq, Repr

/-- A packet in the link switch (R230 to R236). -/
structure SwPkt where
  pkt : Packet
  vc : Nat
  epoch : Nat
  fromLink : Option Nat
  /-- The packet came from a link: the port that sends it records FWD (R342). -/
  fwd : Bool
  deriving DecidableEq, Repr

/-- A LINK_SEND from another device whose segments are arriving (R238). -/
structure Recv where
  part : Nat
  src : Nat
  q : Nat
  tag : Nat
  /-- Segments written, and the number of the last one once it has come. -/
  got : List Nat
  last : Option Nat
  deriving DecidableEq, Repr

/-- A collective group (R240); an unlisted entry is free. -/
structure ColGroup where
  part : Nat
  key : Word
  rank : Nat
  members : List Nat
  broken : Bool
  nextSeq : Nat
  deriving DecidableEq, Repr

/-- A contribution received: the sender's rank, its segment, and its bytes with their poison. -/
structure Contribution where
  rank : Nat
  seg : Nat
  data : List (Byte × Bool)
  deriving DecidableEq, Repr

/-- A COLLECTIVE in service on this member: `own` is the block that the member itself contributes to its
own output. -/
structure Coll where
  q : Nat
  tag : Nat
  group : Nat
  seq : Nat
  cmd : CmdWord
  own : List (Byte × Bool)
  got : List Contribution
  /-- Time of the last contribution, or of the start; and of the time up to which waiting is counted. -/
  lastRx : Nat
  /-- Nanoseconds since then for which a global stop paused COL_CFG.TMO_MS (R339). -/
  paused : Nat
  deriving DecidableEq, Repr

/-- A refused segment to be sent again (R242). -/
structure Retry where
  pkt : Packet
  since : Nat
  deriving DecidableEq, Repr

/-- Stretching of one cluster site (R252, R254). -/
structure Stretch where
  droop : Bool
  /-- Stretched for the current of the site's cell, and for VSTK current. -/
  current : Bool
  vstk : Bool
  /-- Device time of the last release of a stretch for droop; none before the first. -/
  released : Option Nat
  /-- Eightieths of a cycle that stretching has removed. -/
  lost : Nat
  deriving DecidableEq, Repr

/-- Cycles of a region's clock up to a time, in eightieths of a cycle, without those that stretching
removes. -/
structure RegionClk where
  base : Nat
  since : Nat
  deriving DecidableEq, Repr

/-- The capo's state that no register holds. -/
structure Capo where
  /-- Unattributed power of the last ms, W (R260). -/
  pIdle : Nat
  /-- Reduction of the thermal allowance, W, steps taken from each region, and limits on the share of
  each physical layer, at a temperature limit (R279). -/
  thermalCut : Nat
  regionCut : Sparse Nat
  shareCap : Sparse Nat
  /-- Steps taken from each region and watts from each layer's share by the thermal forecast (R283). -/
  foreCut : Sparse Nat
  foreShare : Sparse Nat
  /-- Steps requested and not yet in effect: regions 0–7, halves 8–9 (R219, R253). -/
  stepWait : Sparse Nat
  /-- Regions that the power loop holds below MAX_STEP (R258). -/
  powerLow : List Nat
  /-- Lowerings that wait for a collective: their start, those of the thermal forecast, those of the power
  loop, and the end of the last one (R265). -/
  deferSince : Sparse Nat
  deferThm : List Nat
  deferPwr : List Nat
  deferLast : Sparse Nat
  /-- NoC cells that have failed (R257). -/
  nocLost : List Nat
  reasonSince : Sparse Nat
  /-- Dies whose actions at a temperature limit are not yet undone, and whether regions lose steps now
  (R269, R279). -/
  hotDies : List Nat
  stepCut : Bool
  /-- The power loop lowers for a hard term of P_lim (R269). -/
  hardLow : Bool
  /-- Logical layers whose frets held queued items since the limiters' last report, and those whose limiter
  holds an item (R132). -/
  fretSeen : List Nat
  fretHold : List Nat
  deriving DecidableEq, Repr

/-- The thermal side's state that no register holds. -/
structure Therm where
  /-- Thermal resistances of the image's thermal table. -/
  thetaImg : Sparse Nat
  /-- Excluded sensors, by the time of the last implausible reading (R271). -/
  excluded : Sparse Nat
  /-- Sites whose two readings differ (R272). -/
  disagree : List Nat
  flowLast : Option Nat
  period : Nat
  inletOut : Bool
  /-- What the last counted inlet reading had above a multiple of 0.125 °C, in 1/256 °C (R275). -/
  inletFrac : Nat
  /-- Tray sensors excluded or lost, 0 inlet and 1 outlet, and since when each has read plausibly again; and of
  these the ones that an implausible reading excluded (R271, R275). -/
  trayBack : Sparse (Option Nat)
  trayOut : List Nat
  /-- A hot spot takes its temperature from its region (R272). -/
  borrowed : Bool
  reversed : Bool
  /-- The thermal allowance, W (R282). -/
  pth : Nat
  /-- An action of R279 or the flow-loss state has been in force in the present 50 ms interval (R281). -/
  disturbed : Bool
  /-- THM_CFG.MARGIN_W, THM_FLOW_CFG.REDUCED_W, K and NOM and THM_MODEL_CFG.RL as the last loop period took them,
  and the suspect marks that a write clears at the next (R286). -/
  margin : Nat
  reducedW : Nat
  flowK : Nat
  flowNom : Nat
  modelRl : Nat
  unsuspect : List Nat
  deriving DecidableEq, Repr

/-- The fuses (R296). -/
structure Fuses where
  id : Word
  serial : DWord
  step : Word
  signReq : Bool
  keyHash : BitVec 384
  bad : List UnitRef
  vf : List Nat
  read : Bool
  deriving DecidableEq, Repr

/-- A partition reset: its partition, the time of its STOP, whether its drain has ended, whether LUT_RESET
asked for it, and the slot whose PARTITION segment it is to apply (R302, R307). -/
structure PartRst where
  part : Nat
  since : Nat
  drained : Bool
  lut : Bool
  reload : Option Nat
  /-- EVT_CFG.EN clears once the reset is over (R347). -/
  evt : Bool
  deriving DecidableEq, Repr

/-- The luthier's state that no register holds. -/
structure Luthier where
  /-- Device time of the start of bring-up. -/
  t0 : Nat
  tStage : Nat
  trainOk : Bool
  defects : List UnitRef
  badLines : List LineRef
  siteBad : List Nat
  coreBad : List Nat
  colBad : List Nat
  unitBad : List Nat
  /-- Failed vector lanes, array rows and array columns (R296). -/
  laneBad : List UnitRef
  trunkPool : List Nat
  trunkBad : List Nat
  snapshot : List Byte
  qualStep : Sparse Nat
  /-- Sites and units asked for by a cluster reset (R303), and its drain. -/
  clusterRst : Option (Nat × Nat)
  partRst : List PartRst
  ioRst : Bool
  /-- A segment reload waits for a flash command to end (R349). -/
  reloadWaits : Option (Nat × Nat × Nat)
  /-- Fences that wait for the end of a reset of the same unit: kind, logical ID, rule (R328). -/
  fences : List (Nat × Nat × Nat)
  deriving DecidableEq, Repr

/-- A flash command under way (R349). -/
structure FlashOp where
  erase : Bool
  addr : Nat
  bytes : List Byte
  deriving DecidableEq, Repr

/-- A sleep scope: 0–7 regions, 8–16 layers, 32–79 links (*Table: Trace record types*). -/
structure Scope where
  /-- State being entered, and when the entry ends. -/
  entering : Option Nat
  /-- A wake is under way. -/
  waking : Bool
  /-- Time of the next known event, when one is known. -/
  wakeAt : Option Nat
  deriving DecidableEq, Repr

/-- An event as its source raised it (*Table: Event record (32 bytes)*). -/
structure Event where
  time : Nat
  famCode : Nat
  sev : Nat
  part : Option Nat
  srcKind : Nat
  srcIndex : Nat
  suppressed : Nat
  aux : Nat
  data : Nat
  deriving DecidableEq, Repr

/-- A rate-limit window (R325). -/
structure Window where
  ev : Event
  count : Nat
  opened : Nat
  deriving DecidableEq, Repr

/-- The event unit's state that no register holds. -/
structure EventUnit where
  waiting : List Event
  windows : List Window
  base : Nat
  log2n : Nat
  lostSince : Nat
  deriving DecidableEq, Repr

/-- The THROTTLE_N filter (R327). -/
structure Throttle where
  level : Bool
  since : Nat
  edges : List Nat
  deriving DecidableEq, Repr

/-- A trace record (*Table: Trace record (32 bytes)*). -/
structure TraceRec where
  time : Nat
  type : Nat
  flags : Nat
  src : Nat
  payload : BitVec 160
  deriving DecidableEq, Repr

/-- The trace writer. -/
structure Trace where
  staging : List TraceRec
  dropped : Nat
  dropFirst : Nat
  dropLast : Nat
  written : Nat
  postLeft : Option Nat
  draining : Bool
  /-- A full region ended the trace: later records count as dropped (R335). -/
  full : Bool
  deriving DecidableEq, Repr

/-- The global stop (R338 to R341). -/
structure Stop where
  token : Nat
  feStopped : List Nat
  latest : Nat
  deriving DecidableEq, Repr

/-- Power of the module: what PWR_EN and the input have led to (R355, R356). -/
inductive Power where
  /-- The converter is stopped and may start. -/
  | off
  /-- 12 V and the rails are up. -/
  | on
  /-- The converter has started; stage 0 begins once VAO is in band (R355). -/
  | rising
  /-- Power-off sequence or the 100 ms after it. -/
  | holdoff
  deriving DecidableEq, Repr

/-- The signals of J5 (*Table: J5 discrete signals*), as levels the block has accepted or drives. -/
structure Pins where
  pwrEn : Bool
  pwrGood : Bool
  perst : Bool
  thermtrip : Bool
  slotId : BitVec 4
  /-- The input lies within its thresholds (R17). -/
  vinOk : Bool
  /-- The last stop of the converter was an over-voltage stop. -/
  vinHigh : Bool
  deriving DecidableEq, Repr

/-- Something bound for the host. -/
inductive HostOut where
  | write (addr : Nat) (bytes : List Byte) (poison : Bool)
  | msix (fn vec : Nat)
  deriving DecidableEq, Repr

/-- The PCIe endpoint. -/
structure Pcie where
  /-- The endpoint has begun link training, or its link is up. -/
  up : Bool
  /-- Records and interrupts held until the link returns, oldest first (R304). -/
  held : List HostOut
  /-- MSI-X messages sent: function and vector. -/
  msix : List (Nat × Nat)
  /-- MSI-X tables, by function × 8,192 + dword, and the pending-bit arrays: function and vector. -/
  table : Sparse Nat
  pending : List (Nat × Nat)
  /-- Configuration space as host software has written it, by function × 1,024 + dword; the BAR assignments are
  dwords 4 to 7 of a function (R345, R347). -/
  config : Sparse Word
  /-- AER uncorrectable error status of a function. -/
  aer : Sparse Nat
  /-- MSI-X message control of a function: bit 15 Enable, bit 14 Function Mask. -/
  msixCtl : Sparse Nat
  deriving DecidableEq, Repr

/-- The management target (R350, R351). -/
structure Mgmt where
  resp : List Byte
  /-- Low halves of 64-bit registers written as two 4-byte writes, by byte offset (R348). -/
  lowWord : Sparse Nat
  deriving DecidableEq, Repr

/-- The turn of one engine's arbiter (R369): the queue that has it, its dispatches left, the
express queue served last. -/
structure Turn where
  queue : Nat
  left : Nat
  lastExpress : Nat
  /-- Sequence number of the engine's last dispatch (R340). -/
  lastSeq : Nat
  deriving DecidableEq, Repr

/-- The state of the block. -/
structure State where
  /-- The commands waiting, first in, first out. -/
  pending : List Instr
  /-- Device time, ns. -/
  time : Nat
  /-- The model's own counter of free values drawn (log entry 2). -/
  freeCtr : Nat
  /-- The model's own count of memory losses: never-written words hold new bits after each (R64). -/
  memEpoch : Nat
  /-- Register fields by key; an unlisted field holds its reset value. -/
  fields : Sparse Nat
  power : Power
  pins : Pins
  pcie : Pcie
  mgmt : Mgmt
  queues : Sparse Queue
  turns : Sparse Turn
  open_ : List OpenCmd
  /-- Signal words by partition × 4,096 + word. -/
  sigs : Sparse Nat
  /-- Codewords of device memory by physical word; an unlisted word was never written. -/
  mem : Sparse Codeword
  hostMem : List Host.Cell
  hostPoison : Sparse Bool
  flash : List Host.Cell
  flashOp : Option FlashOp
  saddles : Sparse Saddle
  /-- Lines held while their saddle entry is installed, by bank × 8 + entry. -/
  saddleHolds : Sparse SaddleHold
  evac : Option Evac
  layerRst : Option Nat
  layerDead : List Nat
  scrubbed : List Nat
  channelOut : Sparse (List PWord)
  /-- Words that a failed channel transfer has still to deliver poisoned, by column × 2 + direction (R60). -/
  channelBad : Sparse Nat
  /-- An access of the command being carried out met a layer in reset or a held line: the command waits (R72,
  R82). Never set between commands. -/
  stalled : Bool
  /-- Commands one of whose accesses waits for the end of a reset or of a hold, in arrival order (R72, R82). -/
  waiting : List Instr
  spareCoils : Sparse Nat
  /-- The switch of the through slices is open (R11). -/
  thruOpen : Bool
  tlb : List TlbEntry
  inval : Option Inval
  /-- The page engine's tables, which it writes through to its region of device memory (R92; log entry 106). -/
  seqs : Sparse Seq
  nodes : Sparse Node
  grants : List Grant
  pages : Sparse PageUse
  poolLast : Sparse Nat
  /-- Times of the thermal steering moves of the last ms (R111). -/
  steered : List Nat
  attends : List Attend
  cores : Sparse Core
  clusters : Sparse Cluster
  loads : List Load
  bells : List Bell
  /-- Physical core site of each logical core; physical update unit of each logical cluster. -/
  coreSite : Sparse Nat
  updOf : Sparse Nat
  groups : Sparse Group
  /-- The words written to UPD_GROUP_DATA, and whether reads of it return them. -/
  groupStage : BitVec 1024
  groupStaged : Bool
  pstore : Sparse Word
  units : Sparse UpdUnit
  upds : List Upd
  noc : Sparse NocOut
  routes : Sparse Nat
  /-- The model's own number of the next packet injected (R207). -/
  nocNext : Nat
  /-- Packets held at their source while routes change: router, input port, packet (R212). -/
  nocHeld : List (Nat × Nat × Packet)
  routeChanges : List RouteChange
  fallbackClear : Option Nat
  delivered : List Packet
  links : Sparse Link
  switch : List SwPkt
  recvs : List Recv
  colGroups : Sparse ColGroup
  colls : List Coll
  retries : List Retry
  /-- The group, as partition × 2^32 + KEY, of the collective packets that this device sent for a device,
  queue and tag, by (device × 1,024 + queue) × 65,536 + tag: a notice of a lost packet names them (R246). -/
  colTags : Sparse Nat
  stretch : Sparse Stretch
  /-- Cycle counts of the eight regions (R43, *Table: System operations*). -/
  regionClk : Sparse RegionClk
  capo : Capo
  /-- Minimum-voltage records latched by a read of word 0, by cell (R251). -/
  vminLatch : Sparse Nat
  /-- Device time of the last clear of a cell's minimum-voltage record. -/
  vminFrom : Sparse Nat
  therm : Therm
  fuses : Fuses
  luthier : Luthier
  scopes : Sparse Scope
  /-- Regions whose sleeping column ports wake for a packet, since when (R311). -/
  portWake : Sparse Nat
  /-- Layers that an access of the command in hand has woken (R313). -/
  woken : List Nat
  drones : Sparse Nat
  /-- Refresh intervals for which the refresh of a bank has been postponed (R319). -/
  postponed : Sparse Nat
  events : EventUnit
  throttle : Throttle
  trace : Trace
  stop : Stop
  deriving DecidableEq, Repr

def Ring.zero : Ring := { base := 0, log2n := 6, dev := false, ctx := 0 }

/-- A queue no START has taken: DISABLED (R24). -/
def Queue.zero : Queue :=
  { sq := .zero, cq := .zero, prod := 0, cons := 0, nextAbs := 0,
    fetched := [], waitSince := none }

def RegFile.zero : RegFile := { pc := 0, x := [], v := [], p := [] }

/-- A core without a kernel; its local store is unwritten. -/
def Core.zero : Core :=
  { rf := .zero, t := [], astat := 0, db := 0, kernel := none, wait := none, ending := false,
    gone := false, arr := [], dma := [], issued := 0, exc := none, ls := [], lp := [], le := [], cells := [],
    subPending := [], rowSub := none, colSub := none, wear := 0, stopped := false, lost := false }

def Slot.zero : Slot := { off := 0, len := 0, loaded := false, undef := false }

def Cluster.zero : Cluster := { slots := [], istore := [], lastSlot := none, hold := false }

def PageUse.zero : PageUse := { refs := 0, withhold := false, quarantined := false, returning := none }

def Group.zero : Group := { data := 0, valid := false, version := 0, busy := false, curves := [[], [], [], []], drain := [] }

def UpdUnit.zero : UpdUnit := { rf := .zero, inv := none }

def NocOut.zero : NocOut := { waiting := [], rr := 0 }

def Link.zero : Link :=
  { txSeq := 0, replay := [], rxSeq := 0, nakSent := false, ackOwed := none, credOwed := [0, 0, 0, 0],
    queues := [[], [], [], []], heldSince := none, lastData := 0, sleepSent := false, probe := 0,
    lastProbe := 0, outbox := [], retraining := none, lanes := 0, cap := 0, kept := false, progress := [0, 0, 0, 0] }

def Stretch.zero : Stretch := { droop := false, current := false, vstk := false, released := none, lost := 0 }

def RegionClk.zero : RegionClk := { base := 0, since := 0 }

def Scope.zero : Scope := { entering := none, waking := false, wakeAt := none }

def Turn.zero : Turn := { queue := 0, left := 0, lastExpress := 0, lastSeq := 0 }

def Capo.zero : Capo :=
  { pIdle := 0, thermalCut := 0, regionCut := [], shareCap := [], foreCut := [], foreShare := [], stepWait := [], powerLow := [],
    deferSince := [], deferThm := [], deferPwr := [], deferLast := [], nocLost := [], reasonSince := [],
    hotDies := [], stepCut := false, hardLow := false, fretSeen := [], fretHold := [] }

def Therm.zero : Therm :=
  { thetaImg := [], excluded := [], disagree := [], flowLast := none, period := 0, inletOut := false,
    inletFrac := 0, trayBack := [], trayOut := [], borrowed := false, reversed := false, pth := 3300,
    disturbed := false, margin := 100, reducedW := 1800, flowK := 0, flowNom := 50, modelRl := 100, unsuspect := [] }

def Fuses.zero : Fuses :=
  { id := 0, serial := 0, step := 0, signReq := false, keyHash := 0, bad := [], vf := [], read := false }

def Luthier.zero : Luthier :=
  { t0 := 0, tStage := 0, trainOk := false, defects := [], badLines := [],
    siteBad := [], coreBad := [], colBad := [], unitBad := [], laneBad := [],
    trunkPool := [], trunkBad := [], snapshot := [], qualStep := [],
    clusterRst := none, partRst := [], ioRst := false, reloadWaits := none, fences := [] }

def EventUnit.zero : EventUnit :=
  { waiting := [], windows := [], base := 0, log2n := 6, lostSince := 0 }

def Throttle.zero : Throttle := { level := false, since := 0, edges := [] }

def Trace.zero : Trace :=
  { staging := [], dropped := 0, dropFirst := 0, dropLast := 0, written := 0, postLeft := none,
    draining := false, full := false }

def Stop.zero : Stop := { token := 0, feStopped := [], latest := 0 }

/-- The signals right after power application: PWR_EN asserted, PWR_GOOD driven, every other input
deasserted, the slot straps at 0 (log entry 3). -/
def Pins.zero : Pins :=
  { pwrEn := true, pwrGood := true, perst := false, thermtrip := false, slotId := 0, vinOk := true,
    vinHigh := false }

def Pcie.zero : Pcie :=
  { up := false, held := [], msix := [], table := [], pending := [], config := [], aer := [], msixCtl := [] }

def Mgmt.zero : Mgmt := { resp := [], lowWord := [] }

/-- The block right after power-on reset: stage 0 begins (R305, R355). Every register field holds the
reset value of its table, and nothing else holds anything yet. -/
def State.reset : State :=
  { pending := [], time := 0, freeCtr := 0, memEpoch := 0, fields := [], power := .on,
    pins := .zero, pcie := .zero, mgmt := .zero, queues := [], turns := [], open_ := [], sigs := [],
    mem := [], hostMem := [], hostPoison := [], flash := [], flashOp := none, saddles := [],
    saddleHolds := [], evac := none, layerRst := none, layerDead := [], scrubbed := [],
    channelOut := [], channelBad := [], stalled := false, waiting := [], spareCoils := [], thruOpen := true,
    tlb := [], inval := none, seqs := [], nodes := [],
    grants := [], pages := [], poolLast := [], steered := [], attends := [], cores := [],
    clusters := [], loads := [], bells := [], coreSite := [], updOf := [],
    groups := [], groupStage := 0, groupStaged := false, pstore := [], units := [], upds := [], noc := [],
    routes := [], nocNext := 0, nocHeld := [], routeChanges := [], fallbackClear := none, delivered := [], links := [],
    switch := [], recvs := [], colGroups := [], colls := [], retries := [], colTags := [], stretch := [], regionClk := [],
    capo := .zero, vminLatch := [], vminFrom := [], therm := .zero, fuses := .zero, luthier := .zero, scopes := [],
    portWake := [], woken := [], drones := [], postponed := [],
    events := .zero, throttle := .zero, trace := .zero, stop := .zero }

end Sys2Proof.Machine
end

