-- ==== Sys2Proof/Machine/Ops.lean ====
section
/-! DEFINITION. The named operations over register fields, events, trace records, counters and the
device state, and the gates under which a command acts. -/

namespace Sys2Proof.Machine

/-- The answer of a meaning. -/
abbrev Out := Host.Outcome State Fault Refusal

/-! ## Register fields -/

/-- The value of a register field (R4): as many bits as the field has. -/
def getF (s : State) (f : Fld) : Nat := sget f.reset s.fields f.key % 2 ^ f.width

/-- Set a register field to the low bits of a value. -/
def setF (s : State) (f : Fld) (v : Nat) : State :=
  { s with fields := sput f.reset s.fields f.key (v % 2 ^ f.width) }

/-- The value of a signed field. -/
def getI (s : State) (f : Fld) : Int := (BitVec.ofNat f.width (getF s f)).toInt

/-- A signed number as the bits of a field of `w` bits. -/
def signedBits (w : Nat) (v : Int) : Nat := (BitVec.ofInt w v).toNat

/-- A one-bit field. -/
def getB (s : State) (f : Fld) : Bool := getF s f != 0

/-- Set a one-bit field. -/
def setB (s : State) (f : Fld) (b : Bool) : State := setF s f b.toNat

/-- Add to a saturating counter (R330 and the counters of the register lists). -/
def addF (s : State) (f : Fld) (n : Nat) : State := setF s f (min (getF s f + n) (2 ^ f.width - 1))

/-- Add one to a saturating counter. -/
def incF (s : State) (f : Fld) : State := addF s f 1

/-- Add to a wrapping counter. -/
def wrapF (s : State) (f : Fld) (n : Nat) : State := setF s f (getF s f + n)

/-- Replace the bit `i` of a number. -/
def withBit (n i : Nat) (b : Bool) : Nat :=
  if b then (if n.testBit i then n else n + 2 ^ i) else (if n.testBit i then n - 2 ^ i else n)

/-- Set bit `i` of a field. -/
def setBit (s : State) (f : Fld) (i : Nat) (b : Bool) : State := setF s f (withBit (getF s f) i b)

/-- Apply an update for each element of a list, in order. -/
def forEach {α β : Type} (l : List α) (s : β) (f : β → α → β) : β := l.foldl f s

/-! ## Device state and gates -/

/-- GLB_STATUS.STATE: 0 BRINGUP, 1 READY, 2 READY_DEGRADED, 3 HALTED. -/
def devState (s : State) : Nat := getF s F.GLB_STATUS_STATE

/-- READY or READY-DEGRADED. -/
def ready (s : State) : Bool := s.power == .on && (devState s == 1 || devState s == 2)

/-- HALTED (R295, R323). -/
def halted (s : State) : Bool := devState s == 3

/-- What happens inside the block happens while it is powered and not halted. -/
def live (s : State) (f : State → State) : State :=
  if s.power == .on && !halted s then f s else s

/-- What the circuits of the module do whenever it is powered, halted or not. -/
def powered (s : State) (f : State → State) : State := if s.power == .on then f s else s

/-- What a command list, a kernel or host software does acts only in READY or READY-DEGRADED: BAR
writes before are discarded (R294), and so are those in HALTED (R295). -/
def inService (s : State) (f : State → State) : State := if ready s then f s else s

/-- What happens at a stage of bring-up: the luthier runs stage `n` next. -/
def atStage (s : State) (n : Nat) (f : State → State) : State :=
  if s.power == .on && devState s == 0 && getF s F.LUT_STATE_STAGE == n then f s else s

/-- A command that names a unit the hardware has goes on; another stops. -/
def onUnit (ok : Bool) (t : State) : Out := if ok then .next t else .fault .noSuchUnit

/-- A command goes on. -/
def done (t : State) : Out := .next t

/-! ## Free values -/

/-- Draw a fresh undefined word. -/
def freeWord (s : State) : DWord := Config.freeWord s.freeCtr

/-- The state after a draw. -/
def drawn (s : State) : State := { s with freeCtr := s.freeCtr + 1 }

/-! ## Events -/

/-- Event severities. -/
def sevInfo : Nat := 0
def sevWarn : Nat := 1
def sevError : Nat := 2
def sevFatal : Nat := 3

/-- Raise an event: it goes to the event unit with the time of its detection (R322). Events of bring-up
also count in the report of the stage (R324). -/
def raiseEv (s : State) (famCode sev : Nat) (part : Option Nat) (kind index aux data : Nat) : State :=
  let e : Event := { time := s.time, famCode := famCode, sev := sev, part := part, srcKind := kind,
                     srcIndex := index, suppressed := 0, aux := aux, data := data }
  let s := { s with events := { s.events with waiting := s.events.waiting ++ [e] } }
  if devState s == 0 then incF s (F.LUT_STAGE_EVENTS (getF s F.LUT_STATE_STAGE)) else s

/-- An EV_CFG event that names a register. -/
def raiseCfg (s : State) (code off data : Nat) : State := raiseEv s code sevWarn none 0x23 off 0 data

/-- A fatal event; HALTED follows its record (R323). -/
def raiseFatal (s : State) (famCode kind index data : Nat) : State :=
  raiseEv s famCode sevFatal none kind index 0 data

/-! ## Trace records (R333, R334) -/

/-- Number of records the staging buffer holds, of which 64 are kept for GAP, TRIGGER and STOP. -/
def stagingMax : Nat := 262144

/-- The FLAGS byte of a trace record. -/
def traceFlags (part : Option Nat) (express retry fwd : Bool) : Nat :=
  (match part with | some p => p % 16 + 16 | none => 0) +
    (if express then 32 else 0) + (if retry then 64 else 0) + (if fwd then 128 else 0)

/-- Whether the trace writer records happenings now. -/
def tracing (s : State) : Bool :=
  getB s F.DBG_TRACE_CTRL_EN &&
    (getF s F.DBG_TRACE_STATUS_STATE == 1 || getF s F.DBG_TRACE_STATUS_STATE == 2)

/-- Put a record of a GAP, TRIGGER or STOP kind into the staging buffer: never dropped. -/
def traceForce (s : State) (r : TraceRec) : State :=
  if tracing s then { s with trace := { s.trace with staging := s.trace.staging ++ [r] } } else s

/-- Put a record in its place by TIME: an event notification can come after later happenings (R334). -/
def insertRec (l : List TraceRec) (r : TraceRec) : List TraceRec :=
  if l.all (fun x => decide (x.time ≤ r.time)) then l ++ [r]
  else l.takeWhile (fun x => decide (x.time ≤ r.time)) ++ r :: l.dropWhile (fun x => decide (x.time ≤ r.time))

/-- Stage a record, or count it as dropped when the buffer is full (R334). -/
def traceStage (s : State) (r : TraceRec) : State :=
  if s.trace.staging.length + 64 < stagingMax then
    { s with trace := { s.trace with staging := insertRec s.trace.staging r } }
  else
    let t := s.trace
    { s with trace := { t with dropped := t.dropped + 1, dropLast := r.time,
                               dropFirst := if t.dropped = 0 then r.time else t.dropFirst } }

/-- Record a happening of a time when its type bit is set and its partition bit is set or it concerns no
partition (R333). After a full region has ended the trace it only counts as dropped (R335). -/
def traceHapAt (s : State) (time type : Nat) (part : Option Nat) (express retry fwd : Bool) (src : Nat)
    (payload : BitVec 160) : State :=
  let wanted := (getF s F.DBG_TRACE_CFG_TYPES).testBit type &&
    (match part with | some p => (getF s F.DBG_TRACE_CFG_PARTS).testBit p | none => true)
  if tracing s && wanted then
    traceStage s { time := time, type := type, flags := traceFlags part express retry fwd, src := src,
                   payload := payload }
  else if wanted && s.trace.full then incF s F.DBG_TRACE_DROP
  else s

/-- Record a happening of now. -/
def traceHap (s : State) (type : Nat) (part : Option Nat) (express retry fwd : Bool) (src : Nat)
    (payload : BitVec 160) : State :=
  traceHapAt s s.time type part express retry fwd src payload

/-- A payload from (byte offset from 12, value) pairs. -/
def payloadOf (l : List (Nat × Nat)) : BitVec 160 :=
  l.foldl (fun a p => a ||| BitVec.ofNat 160 (p.2 * 2 ^ (8 * p.1))) 0

/-- Send the stop token (R338): STOPPING, a STOP record and GLOBAL_STOP. A request while STATE is not
RUNNING is ignored. -/
def stopToken (s : State) (source : Nat) : State :=
  if getF s F.DBG_STOP_STATUS_STATE = 0 then
    let s := setF (setF s F.DBG_STOP_STATUS_STATE 1) F.DBG_STOP_STATUS_SOURCE source
    let s := { s with stop := { token := s.time, feStopped := [], latest := s.time } }
    let s := forEach (List.range 1024) s (fun s c => setB s (F.DBG_STOP_CORE_VALID c) false)
    let s := traceForce s { time := s.time, type := 0x0B, flags := 0, src := 0,
                            payload := payloadOf [(0, source), (4, s.time)] }
    raiseEv s 0x7103 sevInfo none 0x00 0 source s.time
  else s

/-- Bytes to write from the TRIGGER record on, in TRIGGER_CENTRED mode (R335). -/
def postSpan (s : State) : Nat :=
  let size := 2 ^ getF s F.DBG_TRACE_CFG_LOG2SZ
  size - size / 16 * getF s F.DBG_TRACE_CFG_PRE_16

/-- The trace trigger fires on its first enabled cause and writes a TRIGGER record; further causes only
count (R336, R337). -/
def fireTrigger (s : State) (cause matched : Nat) : State :=
  let s := setF (setB s F.DBG_TRACE_STATUS_TRIGGERED true) F.DBG_TRACE_STATUS_STATE 2
  let s := if getF s F.DBG_TRACE_CFG_MODE = 2 then
      { s with trace := { s.trace with postLeft := some (postSpan s) } } else s
  let s := traceForce s { time := s.time, type := 0x0A, flags := 0, src := 0,
                          payload := payloadOf [(0, cause), (4, matched)] }
  raiseEv s 0x7101 sevInfo none 0x00 0 (getF s F.DBG_TRACE_WPTR) cause

/-- A cause of the trace trigger. A trigger that fires with ON_TRIG set also stops the device (R338),
and that stop is itself a further cause when ON_STOP is set. -/
def traceTrigger (s : State) (cause matched : Nat) : State :=
  if tracing s then
    if getB s F.DBG_TRACE_STATUS_TRIGGERED then incF s F.DBG_TRACE_STATUS_TRIG_EXTRA
    else
      let s := fireTrigger s cause matched
      if getB s F.DBG_STOP_CTRL_ON_TRIG && getF s F.DBG_STOP_STATUS_STATE == 0 then
        let s := stopToken s 2
        if getB s F.DBG_TRIG_CFG_ON_STOP then incF s F.DBG_TRACE_STATUS_TRIG_EXTRA else s
      else s
  else s

/-- A request for a global stop: the stop, and the trigger it causes when ON_STOP is set. -/
def stopRequest (s : State) (source : Nat) : State :=
  if getF s F.DBG_STOP_STATUS_STATE = 0 then
    let s := stopToken s source
    if getB s F.DBG_TRIG_CFG_ON_STOP then traceTrigger s 19 0 else s
  else s

/-! ## Throttle reasons (R266) -/

/-- Set or clear bit `i` of CAPO_REASON: the sticky bit, the times of R266, the CAPO trace record and
the trigger of R336 follow. -/
def setReason (s : State) (i : Nat) (on : Bool) : State :=
  let cur := (getF s F.CAPO_REASON_REASONS).testBit i
  if cur = on then s
  else
    let s := setBit s F.CAPO_REASON_REASONS i on
    let s :=
      if on then
        let s := setBit s F.CAPO_REASON_STICKY_REASONS i true
        let s := setF s (F.CAPO_RSN_START i) s.time
        { s with capo := { s.capo with reasonSince := sput 0 s.capo.reasonSince i s.time } }
      else addF s (F.CAPO_RSN_NS i) (s.time - sget 0 s.capo.reasonSince i)
    let s := traceHap s 8 none false false false 0
      (payloadOf [(0, getF s F.CAPO_REASON_REASONS), (2, getF s F.CAPO_STATE_EFF_W)])
    if on && getB s F.DBG_TRIG_CFG_ON_REASON && getF s F.DBG_TRIG_CFG_REASON == i then
      traceTrigger s 17 i else s

/-- Bit `i` of CAPO_REASON. -/
def reason (s : State) (i : Nat) : Bool := (getF s F.CAPO_REASON_REASONS).testBit i

/-! ## Operation counters (R329) -/

/-- Count `n` items of kind `i` against a partition, and in the device-global counter. -/
def countOp (s : State) (part i n : Nat) : State :=
  addF (addF s (F.CNT part i) n) (F.DBG_CNT_DEV i) n

/-- Count also against the logical cluster. -/
def countLc (s : State) (part lc i n : Nat) : State := addF (countOp s part i n) (F.DBG_CNT_LC lc i) n

/-- Count `n` payload bytes up (22) or down (23) the vertical channel of a logical column. -/
def countChan (s : State) (part i col n : Nat) : State := countLc s part (col / 16) i n

/-! ## Numbering -/

/-- The site of a logical cluster, when present (*Table: NOC field maps*). -/
def siteOf (s : State) (lc : Nat) : Option Nat :=
  if getB s (F.NOC_LC_SITE_VALID lc) then some (getF s (F.NOC_LC_SITE_SITE lc)) else none

/-- The logical cluster of a site, when it holds one. -/
def lcOf (s : State) (site : Nat) : Option Nat :=
  if getB s (F.NOC_ROUTER_USED site) then some (getF s (F.NOC_ROUTER_LC site)) else none

/-- The clock region of a site: its grid column (R7). -/
def regionOf (site : Nat) : Nat := site % 8

/-- The half of a site: grid columns 0 to 3 form the east half, 0 (R7). -/
def halfOf (site : Nat) : Nat := if site % 8 < 4 then 0 else 1

/-- Whether a logical core is fenced or absent. -/
def coreAbsent (s : State) (c : Nat) : Bool := (getF s (F.EVT_FENCED_CORE (c / 32))).testBit (c % 32)

/-- Whether a logical cluster is fenced or absent. -/
def lcAbsent (s : State) (n : Nat) : Bool := (getF s F.EVT_FENCED_LC).testBit n

/-- The cores of a logical cluster. -/
def coresOf (lc : Nat) : List Nat := (List.range 16).map (fun i => 16 * lc + i)

/-- The clusters of a mask, ascending. -/
def lcsOf (mask : DWord) : List Nat := (List.range 64).filter (fun i => mask.getLsbD i)

def getCore (s : State) (c : Nat) : Core := sget .zero s.cores c
def setCore (s : State) (c : Nat) (k : Core) : State := { s with cores := sput .zero s.cores c k }
def getCluster (s : State) (l : Nat) : Cluster := sget .zero s.clusters l
def setCluster (s : State) (l : Nat) (k : Cluster) : State :=
  { s with clusters := sput .zero s.clusters l k }
def getQueue (s : State) (q : Nat) : Queue := sget .zero s.queues q
def setQueue (s : State) (q : Nat) (k : Queue) : State := { s with queues := sput .zero s.queues q k }
def getLink (s : State) (l : Nat) : Link := sget .zero s.links l
def setLink (s : State) (l : Nat) (k : Link) : State := { s with links := sput .zero s.links l k }
def getScope (s : State) (i : Nat) : Scope := sget .zero s.scopes i
def setScope (s : State) (i : Nat) (k : Scope) : State := { s with scopes := sput .zero s.scopes i k }
def getUnit (s : State) (n : Nat) : UpdUnit := sget .zero s.units n
def setUnit (s : State) (n : Nat) (k : UpdUnit) : State := { s with units := sput .zero s.units n k }

/-- The partition of a queue. -/
def partOf (s : State) (q : Nat) : Nat := getF s (F.QCTL_QOWN_PART q)

/-- A valid queue (R20). -/
def validQ (s : State) (q : Nat) : Bool := getB s (F.QCTL_QOWN_VALID q)

/-- An express queue: VALID and EXPRESS (R49). -/
def expressQ (s : State) (q : Nat) : Bool := validQ s q && getB s (F.QCTL_QOWN_EXPRESS q)

/-- Number of express queues. -/
def expressCnt (s : State) : Nat := ((List.range 1024).filter (expressQ s)).length

/-! ## Host memory and MSI-X -/

/-- Write bytes to host memory. -/
def hostPut (m : List Host.Cell) (addr : Nat) (bs : List Byte) : List Host.Cell :=
  (bs.zipIdx.foldl (fun (m : List Host.Cell) (p : Byte × Nat) => sins m (addr + p.2) p.1) m)

/-- Carry out what is bound for the host. -/
def hostDo (s : State) : HostOut → State
  | .write addr bs poison =>
    { s with hostMem := hostPut s.hostMem addr bs,
             hostPoison := (List.range bs.length).foldl (fun m i => sput false m (addr + i) poison) s.hostPoison }
  | .msix fn vec => { s with pcie := { s.pcie with msix := s.pcie.msix ++ [(fn, vec)] } }

/-- What is bound for the host is carried out, or waits while the PCIe link is away (R304, R347). -/
def hostSend (s : State) (o : HostOut) : State :=
  if s.pcie.up then hostDo s o else { s with pcie := { s.pcie with held := s.pcie.held ++ [o] } }

/-- A posted write to host memory. -/
def hostWrite (s : State) (addr : Nat) (bs : List Byte) : State := hostSend s (.write addr bs false)

/-- A read of host memory: none, its data poisoned, when the host does not back an address or a byte
carries the data-poisoning indication (R346). -/
def hostRead (s : State) (addr n : Nat) : Option (List Byte) :=
  if s.pcie.up then (List.range n).mapM (fun i =>
    if sget false s.hostPoison (addr + i) then none else slook s.hostMem (addr + i)) else none

/-- A word of the MSI-X table of a function; a vector is masked until the host clears bit 0 of the last word of
its entry, as PCI Express has it (PRESUMED, log entry 103). -/
def msixWord (s : State) (fn w : Nat) : Nat := sget (if w % 4 = 3 then 1 else 0) s.pcie.table (fn * 8192 + w)

/-- MSI-X message control of a function. DESIGN CHOICE (log entry 102): it starts enabled and not masked, since no row
of the table is the configuration write with which the host enables it. -/
def msixCtl (s : State) (fn : Nat) : Nat := sget 0x8000 s.pcie.msixCtl fn
def msixEnabled (s : State) (fn : Nat) : Bool := (msixCtl s fn).testBit 15

/-- A vector is masked by its own bit or by Function Mask. -/
def msixMasked (s : State) (fn vec : Nat) : Bool := (msixCtl s fn).testBit 14 || msixWord s fn (4 * vec + 3) % 2 == 1

/-- The vectors that a function exposes (*Table: PART_CFG fields*). -/
def msixVectors (s : State) (fn : Nat) : Nat :=
  let n := getF s (F.PART_CFG_VECTORS fn)
  if n = 0 ∨ 2048 < n then 2048 else n

/-- Send an MSI-X vector of a function (R40, R324): while it is masked its pending bit is set instead; a vector
that the function does not expose, or a function whose MSI-X is disabled, sends nothing. -/
def sendMsix (s : State) (fn vec : Nat) : State :=
  if msixVectors s fn ≤ vec || !msixEnabled s fn then s
  else if msixMasked s fn vec then
    { s with pcie := { s.pcie with pending := s.pcie.pending.filter (· != (fn, vec)) ++ [(fn, vec)] } }
  else hostSend s (.msix fn vec)

/-- The host writes a word of an MSI-X table: a vector that it unmasks is sent if it is pending. The last word of
an entry holds its mask bit alone; its other bits are reserved (R5, log entry 103). -/
def msixWrite (s : State) (fn w v : Nat) : State :=
  let x := if w % 4 = 3 then v % 2 else v % 2 ^ 32
  let s := { s with pcie := { s.pcie with table := sput (if w % 4 = 3 then 1 else 0) s.pcie.table (fn * 8192 + w) x } }
  let vec := w / 4
  if msixEnabled s fn && !msixMasked s fn vec && s.pcie.pending.contains (fn, vec) then
    sendMsix { s with pcie := { s.pcie with pending := s.pcie.pending.filter (· != (fn, vec)) } } fn vec
  else s

/-- Send what is pending in a function and no longer masked, in ascending vectors. -/
def msixFlush (s : State) (fn : Nat) : State :=
  forEach ((s.pcie.pending.filter (fun p => p.1 == fn && !msixMasked s fn p.2)).map (·.2)) s (fun s vec =>
    sendMsix { s with pcie := { s.pcie with pending := s.pcie.pending.filter (· != (fn, vec)) } } fn vec)

/-- The pending-bit array of a function. -/
def msixPending (s : State) (fn vec : Nat) : Bool := s.pcie.pending.contains (fn, vec)

/-! ## Numbers as bytes (R3: little-endian) -/

/-- The `n` bytes of a number, lowest first. -/
def bytesOf (n v : Nat) : List Byte := (List.range n).map (fun i => BitVec.ofNat 8 (v / 2 ^ (8 * i)))

/-- The number that bytes hold, lowest first. -/
def natOf : List Byte → Nat
  | [] => 0
  | b :: t => b.toNat + 256 * natOf t

/-- Bits [hi:lo] of a number. -/
def bits (v hi lo : Nat) : Nat := v / 2 ^ lo % 2 ^ (hi + 1 - lo)

/-- A field of a command: bytes `a` to `a + n − 1`. -/
def cmdField (c : CmdWord) (a n : Nat) : Nat := (c.extractLsb' (8 * a) (8 * n)).toNat

/-- Round up to a multiple. -/
def roundUp (a m : Nat) : Nat := (a + m - 1) / m * m

/-- Division rounded up. -/
def ceilDiv (a b : Nat) : Nat := (a + b - 1) / b

end Sys2Proof.Machine
end

