-- ==== Sys2Proof/Machine/Formats.lean ====
section
/-! DEFINITION. The MX formats and their blocks (R158, R159), the KV record formats (R91, *Table: KV
formats*), the butterfly (*Table: Butterfly*) and HR4 (R108). -/

namespace Sys2Proof.Machine

/-! ## Packed elements: element 0 in the lowest bits (R91) -/

/-- Pack codes of `w` bits. -/
def packCodes (w : Nat) (l : List Nat) : Nat := l.foldr (fun c a => c + a * 2 ^ w) 0

/-- Code `i` of `w` bits in a packed number. -/
def codeAt (w v i : Nat) : Nat := v / 2 ^ (w * i) % 2 ^ w

/-- Consecutive blocks of `n` elements. -/
def blocksOf {α : Type} (n : Nat) (l : List α) : List (List α) :=
  (List.range (l.length / n)).map (fun b => (l.drop (b * n)).take n)

/-! ## MX formats -/

/-- The MX element formats. -/
inductive Mx where
  | e4m3 | e5m2 | e2m3 | e3m2 | e2m1 | int8
  deriving DecidableEq, Repr

def Mx.fmt : Mx → Option Fmt
  | .e4m3 => some fmtE4M3
  | .e5m2 => some fmtE5M2
  | .e2m3 => some fmtE2M3
  | .e3m2 => some fmtE3M2
  | .e2m1 => some fmtE2M1
  | .int8 => none

/-- Element bits. -/
def Mx.bits : Mx → Nat
  | .e2m3 | .e3m2 => 6
  | .e2m1 => 4
  | _ => 8

def Mx.emax : Mx → Int
  | .e4m3 => 8
  | .e5m2 => 15
  | .e2m3 => 2
  | .e3m2 => 4
  | .e2m1 => 2
  | .int8 => 0

/-- A finite value times 2^n. -/
def scaleBy (v : FVal) (n : Int) : FVal :=
  match v with
  | .fin s m e => .fin s m (e + n)
  | v => v

/-- A two's-complement code of `w` bits as a value times 2^e. -/
def intVal (w code : Nat) (e : Int) : FVal :=
  if code < 2 ^ (w - 1) then .fin false code e else .fin true (2 ^ w - code) e

/-- Round a finite magnitude m·2^e to an integer, ties to even. -/
def rneInt (m : Nat) (e : Int) : Nat := if 0 ≤ e then m * 2 ^ e.toNat else rneShift m (-e).toNat

/-- A signed integer as a two's-complement code of `w` bits. -/
def signCode (w : Nat) (neg : Bool) (n : Nat) : Nat := if neg && n != 0 then 2 ^ w - n else n

/-- Convert a value to an MXINT8 element: nearest even, clamped to ±127 (R159). -/
def int8Enc : FVal → Nat
  | .fin neg m e => signCode 8 neg (min 127 (rneInt m (e + 6)))
  | _ => 0

def Mx.dec (k : Mx) (code : Nat) : FVal :=
  match k.fmt with
  | some f => fdec f code
  | none => intVal 8 code (-6)

def Mx.enc (k : Mx) (v : FVal) : Nat :=
  match k.fmt with
  | some f => fround f v
  | none => int8Enc v

/-- An E8M0 scale (*Table: Integer and scale encodings*). -/
def e8m0 (e : Nat) : FVal := if e = 255 then .nan else .fin false 1 ((e : Int) - 127)

/-- The exponent floor(log2 |v|) of a finite non-zero value. -/
def expOf : FVal → Option Int
  | .fin _ m e => if m = 0 then none else some (e + (Nat.log2 m : Int))
  | _ => none

/-- A NaN or an infinity. -/
def nonfinite : FVal → Bool
  | .fin _ _ _ => false
  | _ => true

/-- The scale code of a block (R159). -/
def mxScale (k : Mx) (vs : List FVal) : Nat :=
  if vs.any nonfinite then 255
  else match (vs.filterMap expOf).max? with
    | none => 0
    | some x => (max (-127) (min 127 (x - k.emax)) + 127).toNat

/-- The element codes of a block (R159). -/
def mxCodes (k : Mx) (vs : List FVal) : List Nat :=
  if vs.any nonfinite then vs.map (fun _ => 0)
  else vs.map (fun v => k.enc (scaleBy v (127 - (mxScale k vs : Int))))

/-- A block element as its value: element times scale, exactly. -/
def mxDec (k : Mx) (scale code : Nat) : FVal := exMul (k.dec code) (e8m0 scale)

/-! ## Directed rounding -/

/-- Divide by 2^sh, rounding up. -/
def ceilShift (m sh : Nat) : Nat := (m + 2 ^ sh - 1) / 2 ^ sh

/-- Round to a format towards +∞ or towards −∞. -/
def fdirected (f : Fmt) (up : Bool) : FVal → Nat
  | .fin neg m e =>
    if m = 0 then fround f (.fin neg 0 0)
    else
      let away := up != neg
      let c := magCode f (if away then ceilShift else truncShift) m e
      withSign f neg (if f.maxFin < c then (if away then f.overflow else f.maxFin) else c)
  | v => fround f v

/-! ## The butterfly and HR4 -/

/-- One pass of the butterfly. -/
def butterflyPass (x : List Word) (s : Nat) : List Word :=
  (List.range 64).map (fun i =>
    if i / s % 2 = 0 then fadd (x.getD i 0) (x.getD (i + s) 0) else fsub (x.getD (i - s) 0) (x.getD i 0))

/-- The butterfly of a 64-element block. -/
def butterfly (x : List Word) : List Word :=
  ([1, 2, 4, 8, 16, 32].foldl butterflyPass x).map (fun v => fmul v 0x3E000000#32)

/-- The butterfly of every 64-element block. -/
def butterflyAll (l : List Word) : List Word := (blocksOf 64 l).flatMap butterfly

/-- The magnitude of an FP32 value. -/
def fabs (a : Word) : Word := a &&& 0x7FFFFFFF#32

/-- The FP16 scale of an HR4 block with largest magnitude `mx` (R108). -/
def hr4Scale (mx : Word) : Nat := min 0x7BFF (fdirected fmtF16 true (dec32 (fdiv mx 0x40E00000#32)))

/-- The HR4 code of an element, of a quotient rounded to FP32. -/
def hr4Code (quo : Word) : Nat :=
  match dec32 quo with
  | .fin neg m e => signCode 4 neg (min 7 (rneInt m e))
  | .inf neg => signCode 4 neg 7
  | .nan => 0

/-- An HR4 block from 64 FP32 elements: its scale and its element codes (R108). -/
def hr4Block (x : List Word) : Nat × List Nat :=
  let y := butterfly x
  if y.any fisNan then (Config.hr4Nan y 64 % 2 ^ 16, (List.range 64).map (fun i => Config.hr4Nan y i % 16))
  else
    let mx := y.foldl (fun a v => fmax a (fabs v)) 0
    if mx = 0 then (0, y.map (fun _ => 0))
    else
      let sc := hr4Scale mx
      (sc, y.map (fun v => hr4Code (fdiv v (enc32 (fdec fmtF16 sc)))))

/-! ## KV records (R91) -/

/-- The MX element format of a KV format. -/
def kvMx (k : Nat) : Option Mx :=
  match k with
  | 2 => some .e2m3
  | 3 => some .e3m2
  | 4 => some .e2m1
  | _ => none

/-- Element bits of a KV format. -/
def kvBits (k : Nat) : Nat := if k ≤ 1 then 8 else if k ≤ 3 then 6 else 4

/-- Bytes of the elements and of the scales of D keys, or of D values. -/
def kvElemBytes (k d : Nat) : Nat := d * kvBits k / 8
def kvScaleBytes (k d : Nat) : Nat := if k ≤ 1 then 0 else d / 32
def kvHalf (k d : Nat) : Nat := kvElemBytes k d + kvScaleBytes k d
/-- Bytes per token per head. -/
def kvRecord (k d : Nat) : Nat := 2 * kvHalf k d
/-- Elements per scale block (R119). -/
def kvBlock (k : Nat) : Nat := if (kvMx k).isSome then 32 else 64

def decBF16 (h : Half) : FVal := fdec fmtBF16 h.toNat

/-- Convert D BF16 keys or values to a KV format (R97). -/
def kvEncode (k d : Nat) (vals : List Half) : List Byte :=
  match kvMx k with
  | some m =>
    let bs := blocksOf 32 (vals.map decBF16)
    bytesOf (kvElemBytes k d) (packCodes m.bits (bs.flatMap (mxCodes m))) ++
      bytesOf (kvScaleBytes k d) (packCodes 8 (bs.map (mxScale m)))
  | none =>
    if k = 5 then
      let bs := (blocksOf 64 (vals.map (fun h => enc32 (decBF16 h)))).map hr4Block
      bytesOf (kvElemBytes k d) (packCodes 4 (bs.flatMap (·.2))) ++
        bytesOf (kvScaleBytes k d) (packCodes 16 (bs.map (·.1)))
    else
      bytesOf d (packCodes 8 (vals.map (fun h => fround (if k = 0 then fmtE4M3 else fmtE5M2) (decBF16 h))))

/-- Element `i` of packed keys or values. -/
def kvElem (k packed i : Nat) : FVal :=
  let c := codeAt (kvBits k) packed i
  match kvMx k with
  | some m => m.dec c
  | none => if k = 5 then intVal 4 c 0 else fdec (if k = 0 then fmtE4M3 else fmtE5M2) c

/-- The D elements of keys or values. -/
def kvElems (k d : Nat) (bs : List Byte) : List FVal :=
  let v := natOf (bs.take (kvElemBytes k d))
  (List.range d).map (kvElem k v)

/-- The scales of keys or values, one per scale block. -/
def kvScales (k d : Nat) (bs : List Byte) : List FVal :=
  let v := natOf (bs.drop (kvElemBytes k d))
  (List.range (d / kvBlock k)).map (fun j =>
    if k ≤ 1 then .fin false 1 0
    else if k = 5 then fdec fmtF16 (codeAt 16 v j) else e8m0 (codeAt 8 v j))

/-- The D dequantised elements, in the stored domain (R107). -/
def kvValues (k d : Nat) (bs : List Byte) : List FVal :=
  let sc := kvScales k d bs
  (kvElems k d bs).zipIdx.map (fun p => exMul p.1 (sc.getD (p.2 / kvBlock k) .nan))

end Sys2Proof.Machine
end

