-- ==== Sys2Proof/Machine/ArrayOps.lean ====
section
/-! DEFINITION. What a matrix-array instruction computes: tiles, exact accumulation, sixteen-bit
accumulation and outputs (R141 to R151). -/

namespace Sys2Proof.Machine

/-! ## Tiles (R141) -/

/-- The fields of a tile descriptor. -/
structure Tile where
  base : Nat
  rows : Nat
  cols : Nat
  stride : Nat
  fmt : Nat
  scaleBase : Nat
  sstride : Nat
  deriving DecidableEq, Repr

def tileOf (t : BitVec 256) : Tile :=
  let v := t.toNat
  { base := bits v 18 0, rows := bits v 55 32, cols := bits v 87 64, stride := bits v 111 96,
    fmt := bits v 115 112, scaleBase := bits v 146 128, sstride := bits v 175 160 }

/-- The reserved bits of a descriptor are 0. -/
def tileReserved (t : BitVec 256) : Bool :=
  let v := t.toNat
  bits v 31 19 == 0 && bits v 63 56 == 0 && bits v 95 88 == 0 && bits v 127 116 == 0 && bits v 159 147 == 0 &&
    bits v 255 176 == 0

/-- Element bits of a tile format (*Table: Tile formats*). -/
def tileBits (fmt : Nat) : Nat :=
  if fmt ≤ 5 then 8 else if fmt ≤ 7 then 6 else if fmt = 8 then 4
  else if fmt ≤ 10 then 16 else if fmt ≤ 12 then 32 else 128

/-- The MX element format of a tile format. -/
def tileMx (fmt : Nat) : Option Mx :=
  match fmt with
  | 1 => some .int8
  | 4 => some .e4m3
  | 5 => some .e5m2
  | 6 => some .e2m3
  | 7 => some .e3m2
  | 8 => some .e2m1
  | _ => none

def Tile.rowBytes (t : Tile) : Nat := ceilDiv (t.cols * tileBits t.fmt) 8

/-- Bytes of the local store. -/
def lsSize : Nat := 0x80000

/-- A descriptor that breaks none of the cases of R141. -/
def tileOk (d : BitVec 256) : Bool :=
  let t := tileOf d
  tileReserved d && decide (0 < t.rows) && decide (0 < t.cols) && decide (t.rowBytes ≤ 16 * t.stride) &&
    decide (t.base + (t.rows - 1) * 16 * t.stride + t.rowBytes ≤ lsSize) &&
    (match tileMx t.fmt with
     | some _ => t.cols % 32 == 0 &&
         decide (t.scaleBase + (t.rows - 1) * t.sstride + t.cols / 32 ≤ lsSize)
     | none => true)

/-- The number of `n` bytes of the local store. -/
def lsNat (rd : Nat → Byte) (a n : Nat) : Nat := natOf ((List.range n).map (fun i => rd (a + i)))

/-- The bytes that hold element (r, c) of a tile: the first and their number. -/
def Tile.elemBytes (t : Tile) (r c : Nat) : Nat × Nat :=
  let o := c * tileBits t.fmt
  (t.base + r * 16 * t.stride + o / 8, (o % 8 + tileBits t.fmt + 7) / 8)

/-- The code of element (r, c). -/
def Tile.code (t : Tile) (rd : Nat → Byte) (r c : Nat) : Nat :=
  let w := tileBits t.fmt
  let b := t.elemBytes r c
  lsNat rd b.1 b.2 / 2 ^ (c * w % 8) % 2 ^ w

/-- Where the scale of element (r, c) lies. -/
def Tile.scaleAt (t : Tile) (r c : Nat) : Nat := t.scaleBase + r * t.sstride + c / 32

/-- An unscaled code of a tile format as a value. -/
def plainVal (fmt code : Nat) : FVal :=
  match fmt with
  | 0 => intVal 8 code 0
  | 2 => fdec fmtE4M3 code
  | 3 => fdec fmtE5M2 code
  | 9 => fdec fmtBF16 code
  | 10 => fdec fmtF16 code
  | 11 => fdec fmtF32 code
  | _ => intVal 32 code 0

/-- Element (r, c) of an input tile, dequantised exactly (R146). -/
def Tile.elem (t : Tile) (rd : Nat → Byte) (r c : Nat) : FVal :=
  match tileMx t.fmt with
  | some m => mxDec m (rd (t.scaleAt r c)).toNat (t.code rd r c)
  | none => plainVal t.fmt (t.code rd r c)

/-- Element (r, c) lies in a poisoned word, or its scale does. -/
def Tile.poison (t : Tile) (rp : Nat → Bool) (r c : Nat) : Bool :=
  let b := t.elemBytes r c
  rp b.1 || rp (b.1 + b.2 - 1) || ((tileMx t.fmt).isSome && rp (t.scaleAt r c))

/-! ## Shapes and formats (R142, R143) -/

/-- FP6 or FP4. -/
def fmtSmall (fmt : Nat) : Bool := decide (6 ≤ fmt) && decide (fmt ≤ 8)

/-- Both inputs are of the narrow class. -/
def narrowClass (f1 f2 : Nat) : Bool := decide (f1 ≤ 8) && decide (f2 ≤ 8)

/-- Both inputs are of the sixteen-bit class. -/
def sixteenClass (f1 f2 : Nat) : Bool := f1 == f2 && (f1 == 9 || f1 == 10)

/-- The output formats of the two classes. -/
def outFmtOk (op f1 f2 fy : Nat) : Bool :=
  if op = 5 then fy == 12 && (narrowClass f1 f2 || sixteenClass f1 f2)
  else if narrowClass f1 f2 then [2, 3, 9, 10, 11, 12, 13].contains fy
  else sixteenClass f1 f2 && [2, 3, 9, 10, 11].contains fy

/-- The limits and the output shape of a mode (0 WS, 1 IS, 2 OS). -/
def shapeOk (mode : Nat) (ts tx ty : Tile) : Bool :=
  ts.cols == tx.cols && decide (ts.rows ≤ 64) &&
    (match mode with
     | 0 => decide (ts.cols ≤ (if fmtSmall ts.fmt && fmtSmall tx.fmt then 128 else 64)) &&
         ty.rows == tx.rows && ty.cols == ts.rows
     | 1 => decide (ts.cols ≤ (if fmtSmall ts.fmt && fmtSmall tx.fmt then 128 else 64)) &&
         ty.rows == ts.rows && ty.cols == tx.rows
     | _ => decide (tx.rows ≤ 64) && ty.rows == ts.rows && ty.cols == tx.rows)

/-- The operands of an array instruction are legal (R141, R142, R143). -/
def arrOk (op mode : Nat) (ts tx ty : BitVec 256) : Bool :=
  tileOk ts && tileOk tx && tileOk ty && outFmtOk op (tileOf ts).fmt (tileOf tx).fmt (tileOf ty).fmt &&
    shapeOk mode (tileOf ts) (tileOf tx) (tileOf ty)

/-! ## Terms (*Table: Array operations*, R147) -/

def fvAbs (v : FVal) : FVal :=
  match v with
  | .nan => .nan
  | .inf _ => .inf false
  | .fin _ m e => .fin false m e

/-- The term of an operation: 0 MAC, 1 L1, 2 L2SQ, 3 MAXPLUS, 4 MINPLUS, 5 CMPCNT. -/
def termOf (op : Nat) (a b : FVal) : FVal :=
  match op with
  | 0 => exMul a b
  | 1 => fvAbs (exAdd a (exNeg b))
  | 2 => let d := exAdd a (exNeg b); exMul d d
  | 5 =>
    match fcmp a b with
    | some .lt => .fin false 0 0
    | some _ => .fin false 1 0
    | none => .fin false 0 0
  | _ => exAdd a b

/-! ## Exact accumulation (R145 to R149) -/

/-- The special state of an accumulator. -/
inductive Special where
  | none | nan | pinf | ninf
  deriving DecidableEq, Repr

/-- An exact accumulator, with whether a clamp or saturation and a truncation happened. -/
structure Accum where
  n : Int
  st : Special
  sat : Bool
  trunc : Bool
  deriving DecidableEq, Repr

/-- The largest magnitude of N. -/
def accMax : Int := 2 ^ 127 - 1

/-- A value as a term: truncated towards zero to units of 2^(A−100), and clamped to ±2^128 (R146). -/
def truncTerm (anchor : Int) (v : FVal) : Int × Bool × Bool :=
  match v with
  | .fin neg m e =>
    let sh := e - anchor + 100
    let t := if 0 ≤ sh then m * 2 ^ sh.toNat else m / 2 ^ (-sh).toNat
    let lost := decide (sh < 0) && m % 2 ^ (-sh).toNat != 0
    let big := decide (2 ^ 128 < t)
    let t : Int := (min t (2 ^ 128) : Nat)
    (if neg then -t else t, big, lost)
  | _ => (0, false, false)

/-- The special state that a list of values gives (R147). -/
def specialOf (vs : List FVal) : Special :=
  let p := vs.any (· == .inf false)
  let n := vs.any (· == .inf true)
  if vs.any (· == .nan) || (p && n) then .nan else if p then .pinf else if n then .ninf else .none

/-- The value that stands for a special state. -/
def stateVal : Special → FVal
  | .nan => .nan
  | .pinf => .inf false
  | .ninf => .inf true
  | .none => .fin false 0 0

/-- Saturate N (R146). -/
def saturate (n : Int) : Int × Bool :=
  if accMax < n then (accMax, true) else if n < -accMax then (-accMax, true) else (n, false)

/-- Read a WIDE value (R149). -/
def wideDec (v : Nat) : Accum :=
  if bits v 127 32 = 2 ^ 95 then
    { n := 0, st := (match v % 2 ^ 32 with | 1 => .pinf | 2 => .ninf | _ => .nan), sat := false, trunc := false }
  else
    let n : Int := (BitVec.ofNat 128 v).toInt
    { n := n, st := .none, sat := n == accMax || n == -accMax, trunc := false }

/-- Write an accumulator as WIDE (R148). -/
def wideEnc (a : Accum) : Nat :=
  match a.st with
  | .none => (BitVec.ofInt 128 a.n).toNat
  | .nan => 2 ^ 127
  | .pinf => 2 ^ 127 + 1
  | .ninf => 2 ^ 127 + 2

/-- Add two accumulators (R149). -/
def accAdd (a b : Accum) : Accum :=
  let s := saturate (a.n + b.n)
  { n := s.1, st := specialOf [stateVal a.st, stateVal b.st], sat := a.sat || b.sat || s.2, trunc := a.trunc || b.trunc }

/-- An initial value in a format other than WIDE (R149). -/
def accOf (anchor : Int) (v : FVal) : Accum :=
  let t := truncTerm anchor v
  let s := saturate t.1
  { n := s.1, st := specialOf [v], sat := t.2.1 || s.2, trunc := t.2.2 }

/-- Reduce integer terms by an operation, from an initial value if there is one. -/
def reduceInts (op : Nat) (init : Option Int) (ts : List Int) : Int :=
  match op with
  | 3 => let l := init.toList ++ ts; l.tail.foldl max (l.headD 0)
  | 4 => let l := init.toList ++ ts; l.tail.foldl min (l.headD 0)
  | _ => ts.foldl (· + ·) (init.getD 0)

/-- Reduce the terms of one output of the narrow class (R142, R146, R147). -/
def narrowReduce (op : Nat) (anchor : Int) (init : Option Accum) (terms : List FVal) : Accum :=
  let ts := terms.map (truncTerm anchor)
  let s := saturate (reduceInts op (init.map (·.n)) (ts.map (·.1)))
  { n := s.1, st := specialOf ((init.map (fun a => stateVal a.st)).toList ++ terms),
    sat := s.2 || ts.any (·.2.1) || (init.map (·.sat)).getD false,
    trunc := ts.any (·.2.2) || (init.map (·.trunc)).getD false }

/-! ## Outputs (R148) -/

/-- The floating-point format of an output format. -/
def outFmt (fmt : Nat) : Fmt :=
  match fmt with
  | 2 => fmtE4M3
  | 3 => fmtE5M2
  | 9 => fmtBF16
  | 10 => fmtF16
  | _ => fmtF32

/-- An output code, with whether it sets SAT and SPECIAL. -/
structure OutCode where
  code : Nat
  sat : Bool
  special : Bool
  deriving DecidableEq, Repr

/-- Convert to INT32: truncated, clamped to ±(2^31 − 1). -/
def outInt (v : FVal) : OutCode :=
  let top : Int := 2 ^ 31 - 1
  let enc (n : Int) : Nat := (BitVec.ofInt 32 n).toNat
  match v with
  | .nan => { code := 0, sat := true, special := true }
  | .inf neg => { code := enc (if neg then -top else top), sat := true, special := true }
  | .fin neg m e =>
    let t : Int := (if 0 ≤ e then m * 2 ^ e.toNat else m / 2 ^ (-e).toNat : Nat)
    let t := if neg then -t else t
    let c := max (-top) (min top t)
    { code := enc c, sat := c != t, special := false }

/-- Convert a value to a floating-point output. -/
def outFloat (fmt : Nat) (v : FVal) : OutCode :=
  let c := fround (outFmt fmt) v
  { code := c, sat := false, special := nonfinite (fdec (outFmt fmt) c) }

/-- The value of an accumulator. -/
def accVal (anchor : Int) (a : Accum) : FVal :=
  match a.st with
  | .none => .fin (decide (a.n < 0)) a.n.natAbs (anchor - 100)
  | st => stateVal st

/-- The output code of an accumulator. -/
def accOut (fmt : Nat) (anchor : Int) (a : Accum) : OutCode :=
  let sp := a.st != .none
  if fmt = 13 then { code := wideEnc a, sat := false, special := sp }
  else
    let o := if fmt = 12 then outInt (accVal anchor a) else outFloat fmt (accVal anchor a)
    { o with special := o.special || sp }

/-! ## Sixteen-bit accumulation (R151) -/

/-- Sum a group of at most 64 terms by a balanced tree; missing leaves are +0. -/
def groupSum (ts : List Word) : Word := fsumTree 6 (ts ++ List.replicate (64 - ts.length) 0)

/-- The groups of 64 terms, ascending. -/
def groupsOf (ts : List Word) : List (List Word) :=
  (List.range (ceilDiv ts.length 64)).map (fun g => (ts.drop (64 * g)).take 64)

/-- Reduce the terms of one output of the sixteen-bit class to an FP32 value. -/
def sixteenReduce (op : Nat) (init : Option Word) (ts : List Word) : Word :=
  match op with
  | 3 => ts.foldl fmax (init.getD f32NegInf)
  | 4 => ts.foldl fmin (init.getD 0x7F800000#32)
  | _ => (groupsOf ts).foldl (fun y g => fadd y (groupSum g)) (init.getD 0)

/-! ## One instruction -/

/-- The operand tiles by output row and by output column (R142). -/
def rowTile (op : ArrOp) : Tile := if op.mode = 0 then tileOf op.tx else tileOf op.ts
def colTile (op : ArrOp) : Tile := if op.mode = 0 then tileOf op.ts else tileOf op.tx

/-- The dequantised operands of output (i, j). -/
def arrTerms (op : ArrOp) (rd : Nat → Byte) (i j : Nat) : List FVal :=
  let a := rowTile op
  let b := colTile op
  (List.range a.cols).map (fun k => termOf op.op (a.elem rd i k) (b.elem rd j k))

/-- The anchored accumulator of output (i, j) in the narrow class, wrong by `err`. -/
def narrowAccum (op : ArrOp) (rd : Nat → Byte) (err : FVal) (i j : Nat) : Accum :=
  let y := tileOf op.ty
  let anchor := op.anchor.toInt
  let old := y.code rd i j
  let init := if op.acc then some (if y.fmt = 13 then wideDec old else accOf anchor (plainVal y.fmt old)) else none
  accAdd (narrowReduce op.op anchor init (arrTerms op rd i j)) (accOf anchor err)

/-- The running FP32 value of output (i, j) in the sixteen-bit class, wrong by `err`. -/
def sixteenValue (op : ArrOp) (rd : Nat → Byte) (err : FVal) (i j : Nat) : Word :=
  let y := tileOf op.ty
  let init := if op.acc then some (enc32 (plainVal y.fmt (y.code rd i j))) else none
  let v := sixteenReduce op.op init ((arrTerms op rd i j).map enc32)
  if err = .fin false 0 0 then v else enc32 (exAdd (dec32 v) err)

/-- Output (i, j), wrong by `err` before it is converted: its code and the ASTAT bits SAT, TRUNC and SPECIAL it
sets. -/
def arrOutput (op : ArrOp) (rd : Nat → Byte) (err : FVal) (i j : Nat) : Nat × BitVec 4 :=
  let y := tileOf op.ty
  let flags (o : OutCode) (sat trunc : Bool) : Nat × BitVec 4 :=
    (o.code, BitVec.ofNat 4 ((o.sat || sat).toNat + 2 * trunc.toNat + 4 * o.special.toNat))
  if narrowClass (rowTile op).fmt (colTile op).fmt then
    let r := narrowAccum op rd err i j
    flags (accOut y.fmt op.anchor.toInt r) r.sat r.trunc
  else if op.op = 5 then
    let v := exAdd (if op.acc then intVal 32 (y.code rd i j) 0 else .fin false 0 0)
      (.fin false ((arrTerms op rd i j).filter (· == .fin false 1 0)).length 0)
    flags (outInt (exAdd v err)) false false
  else flags (outFloat y.fmt (dec32 (sixteenValue op rd err i j))) false false

/-- A poisoned term or initial value of output (i, j). -/
def arrPoison (op : ArrOp) (rp : Nat → Bool) (i j : Nat) : Bool :=
  let a := rowTile op
  let b := colTile op
  (List.range a.cols).any (fun k => a.poison rp i k || b.poison rp j k) ||
    (op.acc && (tileOf op.ty).poison rp i j)

/-- Bytes of one output element. -/
def outSize (op : ArrOp) : Nat := tileBits (tileOf op.ty).fmt / 8

/-- Every output of an instruction: its address, its bytes, whether it is poisoned. -/
structure OutPiece where
  addr : Nat
  bytes : List Byte
  poison : Bool
  deriving DecidableEq, Repr

/-- The output positions of an instruction. -/
def outCells (op : ArrOp) : List (Nat × Nat) :=
  let y := tileOf op.ty
  (List.range y.rows).flatMap (fun i => (List.range y.cols).map (fun j => (i, j)))

/-- The exact sum of values. -/
def exactSum (l : List FVal) : FVal := l.foldl exAdd (.fin false 0 0)

/-- An error as a value. -/
def errVal (m e : Int) : FVal := .fin (decide (m < 0)) m.natAbs e

/-- By how much the compute cells get output (i, j) wrong. -/
def cellErr (fs : List ArrFault) (i j : Nat) : FVal :=
  exactSum (fs.filterMap (fun f => match f with
    | .cell r c m e => if r = i ∧ c = j then some (errVal m e) else none
    | _ => none))

/-- What an instruction writes to an output, and the ASTAT bits it sets. -/
structure ArrOut where
  row : Nat
  col : Nat
  piece : OutPiece
  flags : BitVec 4
  deriving DecidableEq, Repr

/-- Every output of an instruction. -/
def arrEval (op : ArrOp) (fs : List ArrFault) (rd : Nat → Byte) (rp : Nat → Bool) : List ArrOut :=
  (outCells op).map (fun c =>
    let o := arrOutput op rd (cellErr fs c.1 c.2) c.1 c.2
    { row := c.1, col := c.2, flags := o.2,
      piece := { addr := ((tileOf op.ty).elemBytes c.1 c.2).1, bytes := bytesOf (outSize op) o.1,
                 poison := arrPoison op rp c.1 c.2 } })

/-! ## Checksums (R152, R154) -/

/-- Two sides of a sixteen-bit check differ by more than 2^−12 of their magnitudes and 2^−126. -/
def sidesOff (c s : FVal) : Bool :=
  fcmp (exAdd (exMul (.fin false 1 (-12)) (exAdd (fvAbs c) (fvAbs s))) (.fin false 1 (-126)))
    (fvAbs (exAdd c (exNeg s))) == some .lt

/-- A check value disagrees with the sum of its line of outputs. In the narrow class both sides hold the same exact
terms, so they differ by the errors alone; in the sixteen-bit class DESIGN CHOICE (log entry 97): the check value is
the exact sum of the outputs that an array without faults gives. Outputs in a special state and non-finite ones are
left out. -/
def lineOff (op : ArrOp) (fs : List ArrFault) (rd : Nat → Byte) (err : FVal) (cells : List (Nat × Nat)) : Bool :=
  let cs := cells.filter (fun c => !(arrOutput op rd (cellErr fs c.1 c.2) c.1 c.2).2.getLsbD 2)
  if narrowClass (rowTile op).fmt (colTile op).fmt then
    fcmp err (exactSum (cs.map (fun c => cellErr fs c.1 c.2))) != some .eq
  else
    let val (e : Nat × Nat → FVal) : FVal := exactSum (cs.map (fun c => dec32 (sixteenValue op rd (e c) c.1 c.2)))
    sidesOff (exAdd (val (fun _ => .fin false 0 0)) err) (val (fun c => cellErr fs c.1 c.2))

/-- The output rows whose check fails: only the checksum cells of a MAC find an error. -/
def badRows (op : ArrOp) (fs : List ArrFault) (rd : Nat → Byte) : List Nat :=
  let y := tileOf op.ty
  let named (i : Nat) : Bool := fs.any (fun f => match f with
    | .cell r _ _ _ => r == i | .rowCheck r _ _ => r == i | .colCheck _ _ _ => false)
  let err (i : Nat) : FVal := exactSum (fs.filterMap (fun f => match f with
    | .rowCheck r m e => if r = i then some (errVal m e) else none | _ => none))
  if op.op ≠ 0 then []
  else (List.range y.rows).filter (fun i => named i && lineOff op fs rd (err i) ((List.range y.cols).map (fun j => (i, j))))

/-- The output columns whose check fails. -/
def badCols (op : ArrOp) (fs : List ArrFault) (rd : Nat → Byte) : List Nat :=
  let y := tileOf op.ty
  let named (j : Nat) : Bool := fs.any (fun f => match f with
    | .cell _ c _ _ => c == j | .colCheck c _ _ => c == j | .rowCheck _ _ _ => false)
  let err (j : Nat) : FVal := exactSum (fs.filterMap (fun f => match f with
    | .colCheck c m e => if c = j then some (errVal m e) else none | _ => none))
  if op.op ≠ 0 then []
  else (List.range y.cols).filter (fun j => named j && lineOff op fs rd (err j) ((List.range y.rows).map (fun i => (i, j))))

/-! ## Input and output bytes -/

/-- A byte range meets row `r` of a tile, or its scales. -/
def rowMeets (t : Tile) (r a n : Nat) : Bool :=
  (decide (t.base + r * 16 * t.stride < a + n) && decide (a < t.base + r * 16 * t.stride + t.rowBytes)) ||
    ((tileMx t.fmt).isSome && decide (t.scaleBase + r * t.sstride < a + n) &&
      decide (a < t.scaleBase + r * t.sstride + t.cols / 32))

/-- A byte range meets a tile or its scales. -/
def tileMeets (t : Tile) (a n : Nat) : Bool := (List.range t.rows).any (fun r => rowMeets t r a n)

/-- Output (i, j) depends on a byte of a range: it lies in its row or column of operands, or in its initial value. -/
def outMeets (op : ArrOp) (i j a n : Nat) : Bool :=
  let y := tileOf op.ty
  let b := y.elemBytes i j
  rowMeets (rowTile op) i a n || rowMeets (colTile op) j a n ||
    (op.acc && decide (b.1 < a + n) && decide (a < b.1 + b.2))

/-- A byte range meets the inputs of an instruction, its initial value among them. -/
def meetsInputs (op : ArrOp) (a n : Nat) : Bool :=
  tileMeets (tileOf op.ts) a n || tileMeets (tileOf op.tx) a n || (op.acc && tileMeets (tileOf op.ty) a n)

/-- The counter and the number of terms of an instruction (*Table: Counter indices*). -/
def arrCount (op : ArrOp) : Nat × Nat :=
  let f1 := (rowTile op).fmt
  let f2 := (colTile op).fmt
  let n := (outCells op).length * (rowTile op).cols
  if op.op = 0 then
    (if f1 ≤ 1 && f2 ≤ 1 then 0
     else if fmtSmall f1 && fmtSmall f2 then 2
     else if narrowClass f1 f2 then 1
     else if f1 = 9 then 3 else 4, n)
  else (if narrowClass f1 f2 then 5 else 6, n)

end Sys2Proof.Machine
end

