-- ==== Sys2Proof/Machine/Ecc.lean ====
section
/-! DEFINITION. The codeword of device memory: BCH check bits, parity, poison, and the outcomes of
decoding (R61 to R63). -/

namespace Sys2Proof.Machine

/-- Shift the 14-bit remainder once and take in a data bit (R62). -/
def bchStep (r : BitVec 14) (d : Bool) : BitVec 14 :=
  let fb := d ^^ r.msb
  let r := r <<< 1
  if fb then r ^^^ 0x0377#14 else r

/-- The check bits of a data word: the remainder of D(x)·x^14 by g(x), data bit 63 first (R62). -/
def bchCheck (d : DWord) : BitVec 14 :=
  (List.range 64).foldl (fun r i => bchStep r (d.getLsbD (63 - i))) 0

/-- The XOR of the bits of a word. -/
def parity {w : Nat} (v : BitVec w) : Bool := (List.range w).foldl (fun a i => a ^^ v.getLsbD i) false

/-- The stored form of a word (*Table: Codeword layout*). -/
def encodeWord (d : DWord) (poison : Bool) : Codeword :=
  let p := bchCheck d
  let par := parity d ^^ parity p ^^ poison
  (BitVec.ofBool poison ++ BitVec.ofBool par ++ p ++ d : BitVec 80)

/-- The data, check, parity and poison parts of a codeword. -/
def cwData (c : Codeword) : DWord := c.extractLsb' 0 64
def cwCheck (c : Codeword) : BitVec 14 := c.extractLsb' 64 14
def cwPoison (c : Codeword) : Bool := c.getLsbD 79

/-- The syndrome: the remainder of the received word. -/
def syndrome (c : Codeword) : BitVec 14 := bchCheck (cwData c) ^^^ cwCheck c

/-- The syndrome of one error in bit `b` of [77:0]. -/
def bitSyndrome (b : Nat) : BitVec 14 :=
  if b < 64 then bchCheck (BitVec.twoPow 64 b) else BitVec.twoPow 14 (b - 64)

/-- The bit of [77:0] whose single error gives a syndrome. -/
def oneError (sy : BitVec 14) : Option Nat := (List.range 78).find? (fun b => bitSyndrome b == sy)

/-- The two bits of [77:0] whose errors give a syndrome. -/
def twoErrors (sy : BitVec 14) : Option (Nat × Nat) :=
  (List.range 78).findSome? (fun a =>
    ((List.range 78).find? (fun b => decide (a < b) && (bitSyndrome a ^^^ bitSyndrome b) == sy)).map
      (fun b => (a, b)))

/-- What decoding a codeword finds (*Table: Decode outcomes*). -/
inductive Decoded where
  | clean
  /-- Corrected: the error bits flipped back. -/
  | corrected (c : Codeword)
  | uncorrectable
  deriving DecidableEq, Repr

/-- Flip one bit of a codeword. -/
def flipBit (c : Codeword) (b : Nat) : Codeword := c ^^^ BitVec.twoPow 80 b

/-- Decode a codeword (R63). -/
def decodeWord (c : Codeword) : Decoded :=
  let sy := syndrome c
  let odd := parity c
  if sy == 0 then (if odd then .uncorrectable else .clean)
  else match oneError sy with
    | some b => if odd then .corrected (flipBit c b) else .uncorrectable
    | none => match twoErrors sy with
      | some (a, b) => if odd then .uncorrectable else .corrected (flipBit (flipBit c a) b)
      | none => .uncorrectable

end Sys2Proof.Machine
end

