-- ==== Sys2Proof/Machine/Mem.lean ====
section
/-! DEFINITION. Device memory: the address windows and the spread hash (R56 to R58), the mapping to
physical words through the layer map, the column map, an evacuation and the saddles (R72, R75, R76,
R78), and reads and writes of words through ECC (R63 to R66). -/

namespace Sys2Proof.Machine

/-- A DPA of one of the two windows (*Table: DPA windows*). -/
def dpaValid (a : Nat) : Bool := a < 2 ^ 37 || (2 ^ 39 ≤ a && a < 2 ^ 39 + 2 ^ 37)

/-- The column-local DPA of a spread offset (*Table: Spread hash*). -/
def spreadToLocal (s : Nat) : Nat :=
  let col := (bits s 21 12 ^^^ bits s 31 22) ^^^ bits s 36 32
  col * 2 ^ 27 + bits s 24 22 * 2 ^ 24 + bits s 26 25 * 2 ^ 22 + bits s 36 27 * 2 ^ 12 + bits s 11 0

/-- The spread offset of a column-local DPA: the inverse (R57). -/
def localToSpread (a : Nat) : Nat :=
  let hi := bits a 21 12 * 2 ^ 27 + bits a 23 22 * 2 ^ 25 + bits a 26 24 * 2 ^ 22
  let mid := (bits a 36 27 ^^^ bits hi 31 22) ^^^ bits hi 36 32
  hi + mid * 2 ^ 12 + bits a 11 0

/-- The column-local DPA of a valid DPA (R57). -/
def toLocal (a : Nat) : Nat := if a < 2 ^ 37 then a else spreadToLocal (a - 2 ^ 39)

/-- Logical column, layer, bank and byte within the bank of a column-local DPA. -/
def dpaCol (a : Nat) : Nat := bits a 36 27
def dpaLayer (a : Nat) : Nat := bits a 26 24
def dpaBank (a : Nat) : Nat := bits a 23 22
def dpaByte (a : Nat) : Nat := bits a 21 0

/-- The layer-map field of a logical layer. -/
def layerFld (l : Nat) : Fld := { key := F.MEM_LAYER_MAP_L0.key + 4 * l, width := 4, reset := if l < 4 then l else l + 1 }

/-- The sleep-state field of a physical layer (*Table: CLK sleep field maps*). -/
def layerSleepFld (p : Nat) : Fld := { key := F.CLK_SLEEP_STATE_M0.key + 2 * p, width := 2, reset := 0 }

/-- The sleep-state field of a compute region. -/
def regionSleepFld (k : Nat) : Fld := { key := F.CLK_SLEEP_STATE_R0.key + 3 * k, width := 3, reset := 0 }

/-- A logical column whose accesses touch nothing: absent, of an absent or fenced cluster, or fenced
(R69, R298, R328). -/
def colGone (s : State) (col : Nat) : Bool := lcAbsent s (col / 16) || !getB s (F.MEM_COLMAP_VALID col)

/-- Number of a bank among all physical banks. -/
def bankIndex (player pcol bank : Nat) : Nat := (player * 1224 + pcol) * 4 + bank

/-- Words of a bank: 4 MiB, then the 8 spare lines of its saddle. -/
def bankWords : Nat := 2 ^ 19 + 64

/-- The saddle entry that redirects a line: the last installed, since entries fill in ascending order. -/
def saddleFor (s : State) (bi line : Nat) : Option Nat :=
  [7, 6, 5, 4, 3, 2, 1, 0].find? (fun e => match slook s.saddles (bi * 8 + e) with
    | some d => d.line == line | none => false)

/-- The physical word that a word of a physical bank lies in, through the bank's saddle (R72). -/
def physWord (s : State) (player pcol bank w : Nat) : Nat :=
  let bi := bankIndex player pcol bank
  match saddleFor s bi (w / 8) with
  | some e => bi * bankWords + 2 ^ 19 + 8 * e + w % 8
  | none => bi * bankWords + w

/-- Position of a bank in the order of an evacuation. -/
def bankOrd (col bank : Nat) : Nat := col * 4 + bank

/-- The bank at the mark. -/
def markOrd (s : State) : Nat := bankOrd (getF s F.MEM_EVAC_MARK_COLUMN) (getF s F.MEM_EVAC_MARK_BANK)

/-- The physical layer that serves reads of a bank of a logical layer (R78). -/
def readLayer (s : State) (layer col bank : Nat) : Nat :=
  match s.evac with
  | some e => if e.layer = layer then (if bankOrd col bank < markOrd s then e.dst else e.src)
              else getF s (layerFld layer)
  | none => getF s (layerFld layer)

/-- The physical layers that a write of a line goes to (R78). -/
def writeLayers (s : State) (layer col bank line : Nat) : List Nat :=
  match s.evac with
  | some e =>
    if e.layer = layer then
      if bankOrd col bank < markOrd s then [e.dst]
      else if bankOrd col bank = markOrd s && (e.copied || decide (line < getF s F.MEM_EVAC_MARK_LINE)) then
        [e.src, e.dst]
      else [e.src]
    else [getF s (layerFld layer)]
  | none => [getF s (layerFld layer)]

/-- Record a change of a sleep state in the trace (*Table: Trace record types*). -/
def traceSleep (s : State) (scope old new : Nat) : State :=
  traceHap s 9 none false false false 0 (payloadOf [(0, scope), (1, old), (2, new)])

/-- The drone tasks of a scope run in a wake window, which moves their deadlines on (R320). -/
def runDrones (s : State) (sc : Nat) : State :=
  { s with drones := s.drones.map (fun d => (d.1, if d.1 % 128 == sc then s.time else d.2)) }

/-- An access wakes a sleeping memory layer (R314), which is a wake window for its drones; only timing changes
(R310). -/
def wakeLayer (s : State) (p : Nat) : State :=
  let st := getF s (layerSleepFld p)
  let s := if (getScope s (8 + p)) = .zero then s else { setScope s (8 + p) .zero with woken := p :: s.woken }
  if st = 0 then s
  else
    let s := traceSleep (incF (setF s (layerSleepFld p) 0) (F.CLK_WAKE_CNT (8 + p))) (8 + p) st 0
    runDrones { s with woken := p :: s.woken } (8 + p)

/-- The codeword stored in a physical word. -/
def cwAt (s : State) (pw : Nat) : Codeword :=
  (slook s.mem pw).getD (Config.unwrittenWord s.memEpoch pw)

/-- Store a codeword. -/
def cwPut (s : State) (pw : Nat) (c : Codeword) : State := { s with mem := sins s.mem pw c }

/-- Count an uncorrectable word and raise MEM_UE with the DPA, the physical column as source (R63). -/
def memUe (s : State) (pcol dpa : Nat) : State :=
  raiseEv (incF s F.MEM_UE_CNT) 0x3002 sevError none 3 pcol 0 dpa

/-- Count a corrected word; one never written is delivered with no count (R63, R64). -/
def countCe (s : State) (pw : Nat) : State := if (slook s.mem pw).isSome then incF s F.MEM_CE_CNT else s

/-- Read a physical word through ECC (R63): an uncorrectable word is delivered with undefined data and
poison, counted and reported; a corrected word is counted. -/
def readPhys (s : State) (pcol pw dpa : Nat) : State × PWord :=
  let c := cwAt s pw
  match decodeWord c with
  | .clean => (s, { data := cwData c, poison := cwPoison c })
  | .corrected c' => (countCe s pw, { data := cwData c', poison := cwPoison c' })
  | .uncorrectable => (drawn (memUe s pcol dpa), { data := freeWord s, poison := true })

/-- A line of a bank is held while its saddle entry is installed (R72). -/
def lineHeld (s : State) (bi line : Nat) : Bool :=
  (List.range 8).any (fun e => match slook s.saddleHolds (bi * 8 + e) with | some h => h.line == line | none => false)

/-- An access that meets a layer in reset or a held line waits, and with it the command that makes it. -/
def stallAt (s : State) (pl bi line : Nat) : State :=
  if s.layerRst == some pl || lineHeld s bi line then { s with stalled := true } else s

/-- No layer is in reset and no line is held: no access can stall. -/
def memQuiet (s : State) : Bool := s.layerRst.isNone && s.saddleHolds.isEmpty

/-- Take one word of the poison that a failed transfer of a channel leaves (R60). -/
def takeBad (s : State) (key : Nat) : State × Bool :=
  match sget 0 s.channelBad key with
  | 0 => (s, false)
  | n + 1 => ({ s with channelBad := sput 0 s.channelBad key n }, true)

/-- Read the word of a column-local DPA in its bank; none when its column touches nothing. Words of a layer
that failed its post-reset check are poisoned (R82). -/
def readBank (s : State) (a : Nat) : State × Option PWord :=
  let col := dpaCol a
  if colGone s col then (s, none)
  else
    let pl := readLayer s (dpaLayer a) col (dpaBank a)
    let pcol := getF s (F.MEM_COLMAP_PCOL col)
    let s := stallAt (wakeLayer s pl) pl (bankIndex pl pcol (dpaBank a)) (dpaByte a / 64)
    if s.layerDead.contains pl then (drawn s, some { data := freeWord s, poison := true })
    else
      let r := readPhys s pcol (physWord s pl pcol (dpaBank a) (dpaByte a / 8)) (a / 8 * 8)
      (r.1, some r.2)

/-- Read the word of a column-local DPA over its vertical channel (R60). -/
def readWord (s : State) (a : Nat) : State × Option PWord :=
  match readBank s a with
  | (s, none) => (s, none)
  | (s, some w) =>
    let r := takeBad s (2 * getF s (F.MEM_COLMAP_PCOL (dpaCol a)) + 1)
    (r.1, some { w with poison := w.poison || r.2 })

/-- Replace the bytes of a word that a mask names. -/
def mergeBytes (old new : DWord) (mask : BitVec 8) : DWord :=
  (List.range 8).foldl (fun w i =>
    if mask.getLsbD i then (w &&& ~~~(0xFF#64 <<< (8 * i))) ||| (new &&& (0xFF#64 <<< (8 * i))) else w) old

/-- What became of a write of one word. -/
inductive Wrote where
  | ok
  /-- Merged with an uncorrectable or poisoned word, or written to a dead layer (R65, R82). -/
  | ue
  /-- The column touches nothing. -/
  | fenced
  deriving DecidableEq, Repr

/-- Write one physical word (R65): a full write replaces it; a partial one merges, and is stored
poisoned when the read of the merge is uncorrectable or poisoned. -/
def writePhys (s : State) (pcol pw dpa : Nat) (data : DWord) (mask : BitVec 8) (poison : Bool) :
    State × Wrote :=
  if mask = 0xFF#8 then (cwPut s pw (encodeWord data poison), .ok)
  else
    let r := readPhys s pcol pw dpa
    let bad := r.2.poison
    (cwPut r.1 pw (encodeWord (mergeBytes r.2.data data mask) (bad || poison)), if bad then .ue else .ok)

/-- Write the bytes of a mask to the word of a column-local DPA in its bank, on every layer that R78 names. -/
def writeBank (s : State) (a : Nat) (data : DWord) (mask : BitVec 8) (poison : Bool) : State × Wrote :=
  let col := dpaCol a
  if colGone s col then (s, .fenced)
  else
    let pcol := getF s (F.MEM_COLMAP_PCOL col)
    let w := dpaByte a / 8
    (writeLayers s (dpaLayer a) col (dpaBank a) (w / 8)).foldl (fun acc pl =>
      let s := stallAt (wakeLayer acc.1 pl) pl (bankIndex pl pcol (dpaBank a)) (w / 8)
      if s.layerDead.contains pl then (s, .ue)
      else
        let r := writePhys s pcol (physWord s pl pcol (dpaBank a) w) (a / 8 * 8) data mask poison
        (r.1, if acc.2 = .ok then r.2 else acc.2)) (s, .ok)

/-- Write the bytes of a mask to the word of a column-local DPA over its vertical channel (R60). -/
def writeWord (s : State) (a : Nat) (data : DWord) (mask : BitVec 8) (poison : Bool) : State × Wrote :=
  let r := takeBad s (2 * getF s (F.MEM_COLMAP_PCOL (dpaCol a)))
  let w := writeBank r.1 a data mask (poison || r.2)
  (w.1, if r.2 && w.2 = .ok then .ue else w.2)

/-! ## Accesses by the page engine and the luthier at a DPA -/

/-- A layer that takes no writes: it failed its post-reset check (R82). -/
def deadWrite (s : State) (a : Nat) : Bool :=
  (writeLayers s (dpaLayer a) (dpaCol a) (dpaBank a) (dpaByte a / 64)).any (fun p => s.layerDead.contains p)

/-- Count the word of a column-local DPA that a partition's work reads over the vertical channel (R329). -/
def countUp (s : State) (part a : Nat) : State := countChan s part 22 (dpaCol a) 8
def countDown (s : State) (part a : Nat) : State := countChan s part 23 (dpaCol a) 8

/-- Read a word for a partition's work, counted where the column answers. -/
def readCounted (s : State) (part a : Nat) : State × Option PWord :=
  let r := readWord s a
  (if r.2.isSome then countUp r.1 part a else r.1, r.2)

/-- Write a word for a partition's work, counted where the column takes it. -/
def writeCounted (s : State) (part a : Nat) (data : DWord) (mask : BitVec 8) (poison : Bool) : State × Wrote :=
  let r := writeWord s a data mask poison
  (if r.2 = .fenced then r.1 else countDown r.1 part a, r.2)

end Sys2Proof.Machine
end

