-- ==== Sys2Proof/Machine/Groups.lean ====
section
/-! DEFINITION. The group table of the update engine: the fields of an entry, its bytes in the update region
(R187), and the byte ranges of the two copies of a group (R188, R189). -/

namespace Sys2Proof.Machine

/-- Fields of a group table entry (*Table: Group table entry (128 bytes)*). -/
def grpField (g : Group) (a n : Nat) : Nat := (g.data.extractLsb' (8 * a) (8 * n)).toNat
def grpServed (g : Group) : Bool := (grpField g 0 1).testBit 1
def grpMaskEn (g : Group) : Bool := (grpField g 0 1).testBit 2
def grpOwner (g : Group) : Nat := bits (grpField g 1 1) 3 0
def grpWfmt (g : Group) : Nat := bits (grpField g 1 1) 7 4
def grpShare (g : Group) : Nat := grpField g 2 2
def grpCtx (g : Group) : Nat := bits (grpField g 4 2) 11 0
def grpNstate (g : Group) : Nat := bits (grpField g 6 1) 2 0
def grpSbf16 (g : Group) : Bool := (grpField g 6 1).testBit 3
def grpNblk (g : Group) : Nat := grpField g 8 4
def grpVerSig (g : Group) : Nat := bits (grpField g 12 2) 11 0
def grpWva (g : Group) : Nat := bits (grpField g 16 8) 51 0
def grpWsva (g : Group) : Nat := bits (grpField g 24 8) 51 0
def grpStva (g : Group) : Nat := bits (grpField g 32 8) 51 0
def grpMva (g : Group) : Nat := bits (grpField g 40 8) 51 0
def grpStride (g : Group) : Nat := bits (grpField g 48 8) 51 0
def grpPro (g : Group) : Nat := grpField g 56 2
def grpStat (g : Group) : Nat := grpField g 58 2
def grpApply (g : Group) : Nat := grpField g 60 2

def getGroup (s : State) (g : Nat) : Group := sget .zero s.groups g

/-- The 128 bytes of an entry, with what the engine sets in it. -/
def Group.bits (g : Group) : Nat :=
  let keep := 2 ^ 512 - 2
  (g.data.toNat &&& keep) + g.valid.toNat + g.version % 2 ^ 32 * 2 ^ 512 + g.busy.toNat * 2 ^ 544 +
    ((g.curves.map List.length).zipIdx.map (fun p => p.1 % 256 * 2 ^ (576 + 8 * p.2))).sum

/-- Store consecutive words at a DPA of an engine's region for a partition, where it lies in a window. -/
def regionPut (s : State) (part a : Nat) (ws : List Nat) : State :=
  ws.zipIdx.foldl (fun s p =>
    if dpaValid (a + 8 * p.2) then (writeCounted s part (toLocal (a + 8 * p.2)) (BitVec.ofNat 64 p.1) 0xFF false).1
    else s) s

/-- Where the update region, and a schedule curve of a group in it, lie (*Table: Update region*). -/
def updBase (s : State) : Nat := getF s F.UPD_REGION_BASE_BASE * 2 ^ 20
def curveAddr (s : State) (g c : Nat) : Nat := updBase s + 0x80000 + 0x800 * g + 512 * c

/-- Change an entry: the engine holds the table, and writes it through to the update region (R187; log entry
94). -/
def setGroup (s : State) (g : Nat) (k : Group) : State :=
  regionPut { s with groups := sput .zero s.groups g k } (grpOwner k) (updBase s + 128 * g)
    ((List.range 16).map (fun i => k.bits / 2 ^ (64 * i)))

/-- Element bytes, scale bytes and state bytes of one version. -/
def wBytes (g : Group) : Nat := grpNblk g * 32 * tileBits (grpWfmt g) / 8
def wsBytes (g : Group) : Nat := if (tileMx (grpWfmt g)).isSome then grpNblk g else 0
def stSize (g : Group) : Nat := if grpSbf16 g then 2 else 4
def stBytes (g : Group) : Nat := grpNstate g * grpNblk g * 32 * stSize g

/-- The copy that a version number stands for. -/
def copyOff (g : Group) (v : Nat) : Nat := v % 2 * grpStride g

/-- Bytes of one block of elements. -/
def blkBytes (g : Group) : Nat := 4 * tileBits (grpWfmt g)

/-- The virtual address of a block's elements in a copy. -/
def wAt (g : Group) (v b : Nat) : Nat := grpWva g + copyOff g v + b * blkBytes g

/-- The virtual ranges of one version. -/
def copyRanges (g : Group) (v : Nat) : List (Nat × Nat) :=
  ([(grpWva g, wBytes g), (grpWsva g, wsBytes g), (grpStva g, stBytes g)].filter (fun x => x.2 != 0)).map
    (fun x => (x.1 + copyOff g v, x.2))

end Sys2Proof.Machine
end

