-- ==== Sys2Proof/Machine/Mmu.lean ====
section
/-! DEFINITION. Translation: page-table entries and the walk (R83 to R87), cached translations (R88,
R89), translation faults (R90), and reads and writes by virtual address. -/

namespace Sys2Proof.Machine

/-- Why an access by virtual address fails. -/
inductive XFault where
  | notMapped | badEntry | writeDenied | readDenied | notKv | ctxInvalid | tablePoison
  /-- A page-table word or the target lies in a column that touches nothing (R298). -/
  | fenced
  deriving DecidableEq, Repr

/-- Status codes (*Table: Completion status codes*). -/
def stOk : Nat := 0x00
def stAborted : Nat := 0x01
def stInvalid : Nat := 0x02
def stXlate : Nat := 0x03
def stUe : Nat := 0x04
def stNonfinite : Nat := 0x05
def stFrozen : Nat := 0x06
def stTableFull : Nat := 0x07
def stPeerLost : Nat := 0x08
def stLinkReset : Nat := 0x09
def stAbft : Nat := 0x0A
def stFenced : Nat := 0x0B
def stNotReady : Nat := 0x0C
def stPermission : Nat := 0x0D
def stTimeout : Nat := 0x0E
def stPageExhausted : Nat := 0x0F

def okResult : Result := { status := stOk, sub := 0, detail := 0 }

/-- The result of an item whose access failed (R90, *Table: Translation substatus codes*). -/
def xResult (f : XFault) (va : Nat) : Result :=
  match f with
  | .notMapped => { status := stXlate, sub := 0x0200, detail := va }
  | .badEntry => { status := stXlate, sub := 0x0201, detail := va }
  | .writeDenied => { status := stXlate, sub := 0x0202, detail := va }
  | .readDenied => { status := stXlate, sub := 0x0203, detail := va }
  | .notKv => { status := stXlate, sub := 0x0204, detail := va }
  | .ctxInvalid => { status := stXlate, sub := 0x0205, detail := va }
  | .tablePoison => { status := stUe, sub := 0x0206, detail := va }
  | .fenced => { status := stFenced, sub := 0, detail := 0 }

/-- What an access does: a plain read, a write, a read by a fret or attend work (R87), or a plain read by the
update engine. -/
inductive Access where
  | read | write | kv | engine
  deriving DecidableEq, Repr

/-- Fields of a page-table entry (*Table: Page-table entry*). -/
def pteType (e : Nat) : Nat := bits e 1 0
def pteSize (e : Nat) : Nat := bits e 10 6
def pteShift (e : Nat) : Nat := bits e 5 2
def pteNext (e : Nat) : Nat := bits e 39 13 * 2 ^ 13
def pteFrame (e : Nat) : Nat := bits e 39 12 * 2 ^ 12

/-- A non-zero reserved bit of an entry (R86). -/
def pteReserved (e : Nat) : Bool :=
  bits e 63 40 != 0 ||
  (match pteType e with
   | 1 => bits e 12 2 != 0
   | 2 => bits e 5 5 != 0 || bits e 11 11 != 0
   | 3 => bits e 39 6 != 0
   | _ => false)

/-- A leaf that R85, R86 and R87 allow at a level. -/
def leafOk (lvl e : Nat) : Bool :=
  let sz := pteSize e
  lvl ≤ 1 && 10 * lvl ≤ sz && sz - 10 * lvl ≤ 9 && sz ≤ 18 &&
    pteFrame e % 2 ^ (12 + sz) == 0 && dpaValid (pteFrame e) &&
    (bits e 4 4 == 0 || (pteFrame e < 2 ^ 37 && sz ≤ 10))

/-- Read a page-table word at a DPA. -/
def readPte (s : State) (dpa : Nat) : State × Except XFault Nat :=
  if dpaValid dpa then
    match readWord s (toLocal dpa) with
    | (s, none) => (s, .error .fenced)
    | (s, some w) => (s, if w.poison then .error .tablePoison else .ok w.data.toNat)
  else (s, .error .badEntry)

/-- What one level of the walk finds. -/
inductive WalkStep where
  | fault (f : XFault)
  | table (next : Nat)
  | leaf (e : Nat)
  deriving DecidableEq, Repr

/-- Judge an entry that is not a span. DESIGN CHOICE (log entry 87): as in the walk's pseudocode, a leaf in a
slot that R85 would not give it is taken. -/
def judgeEntry (lvl e : Nat) : WalkStep :=
  if pteType e = 0 then .fault .notMapped
  else if pteReserved e then .fault .badEntry
  else if pteType e = 1 then (if lvl = 0 then .fault .badEntry else .table (pteNext e))
  else if pteType e = 2 then (if leafOk lvl e then .leaf e else .fault .badEntry)
  else .fault .badEntry

/-- One level of the walk: the entry of the index, or through a span entry its head (R85). -/
def walkLevel (s : State) (t lvl va : Nat) : State × WalkStep :=
  let i := bits va (21 + 10 * lvl) (12 + 10 * lvl)
  match readPte s (t + 8 * i) with
  | (s, .error f) => (s, .fault f)
  | (s, .ok e) =>
    if pteType e = 3 then
      if pteReserved e || decide (lvl > 1) || pteShift e == 0 then (s, .fault .badEntry)
      else
        let k := pteShift e
        match readPte s (t + 8 * (i / 2 ^ k * 2 ^ k)) with
        | (s, .error f) => (s, .fault f)
        | (s, .ok h) =>
          if pteType h = 2 && pteSize h == k + 10 * lvl then (s, judgeEntry lvl h)
          else (s, .fault .badEntry)
    else (s, judgeEntry lvl e)

/-- The walk over the levels listed, from a table address. -/
def walkFrom (s : State) (t va : Nat) : List Nat → State × Except XFault Nat
  | [] => (s, .error .notMapped)
  | lvl :: rest =>
    match walkLevel s t lvl va with
    | (s, .fault f) => (s, .error f)
    | (s, .leaf e) => (s, .ok e)
    | (s, .table n) => walkFrom s n va rest

/-- The leaf that maps a virtual address of a context (R83 to R87). -/
def walk (s : State) (ctx va : Nat) : State × Except XFault Nat :=
  if getB s (F.MMU_CTX_VALID ctx) then
    if va < 2 ^ 52 then walkFrom s (getF s (F.MMU_CTX_ROOT ctx) * 2 ^ 13) va [3, 2, 1, 0]
    else (s, .error .notMapped)
  else (s, .error .ctxInvalid)

/-- The DPA that a leaf gives an address. -/
def leafDpa (e va : Nat) : Nat := pteFrame e + va % 2 ^ (12 + pteSize e)

/-- Whether a leaf permits an access (R87, *Table: Translation substatus codes*). -/
def leafPermits (e : Nat) (a : Access) : Option XFault :=
  match a with
  | .read | .engine => if bits e 2 2 = 1 then none else some .readDenied
  | .write => if bits e 3 3 = 1 && bits e 4 4 == 0 then none else some .writeDenied
  | .kv => if bits e 4 4 = 0 then some .notKv else if bits e 2 2 = 1 then none else some .readDenied

/-- The cached translation of an address. -/
def tlbFind (s : State) (ctx va : Nat) : Option TlbEntry :=
  s.tlb.find? (fun t => t.ctx == ctx && va / 2 ^ t.size == t.va / 2 ^ t.size)

/-- Cache a leaf that a walk found, in place of what the page was cached as. -/
def tlbFill (s : State) (ctx va e : Nat) : State :=
  let z := 12 + pteSize e
  let t : TlbEntry := { ctx := ctx, va := va / 2 ^ z * 2 ^ z, size := z, leaf := BitVec.ofNat 64 e }
  if s.tlb.contains t then s else { s with tlb := s.tlb ++ [t] }

/-- The entries that one level of a walk reads: that of the index, and the head of a span. -/
def levelReads (s : State) (t lvl va : Nat) : List Nat :=
  let i := bits va (21 + 10 * lvl) (12 + 10 * lvl)
  match (readPte s (t + 8 * i)).2 with
  | .ok e =>
    let k := pteShift e
    if pteType e = 3 && !(pteReserved e || decide (lvl > 1) || k == 0) then [t + 8 * i, t + 8 * (i / 2 ^ k * 2 ^ k)]
    else [t + 8 * i]
  | .error .tablePoison => [t + 8 * i]
  | .error _ => []

/-- The entries that a walk over the levels listed reads. -/
def walkReads (s : State) (t va : Nat) : List Nat → List Nat
  | [] => []
  | lvl :: rest =>
    levelReads s t lvl va ++ (match (walkLevel s t lvl va).2 with
      | .table n => walkReads s n va rest
      | _ => [])

/-- Count what a walk reads over the vertical channels, for the context's partition (R329). DESIGN CHOICE (log
entry 110): an address whose translation is cached walks no table again. -/
def countWalk (s : State) (ctx va : Nat) : State :=
  if getB s (F.MMU_CTX_VALID ctx) && decide (va < 2 ^ 52) then
    forEach (walkReads s (getF s (F.MMU_CTX_ROOT ctx) * 2 ^ 13) va [3, 2, 1, 0]) s
      (fun s a => countUp s (getF s (F.MMU_CTX_PART ctx)) (toLocal a))
  else s

/-- The leaf in use for an address: the one the tables hold, or, until an invalidation completes, the
one cached before, as a free choice (R88). A context with VALID = 0 gives none (R83). -/
def lookupLeaf (s : State) (ctx va : Nat) : State × Except XFault Nat :=
  let r := walk s ctx va
  match tlbFind s ctx va with
  | none =>
    match walk (countWalk s ctx va) ctx va with
    | (s, .ok e) => (tlbFill s ctx va e, .ok e)
    | (s, .error f) => (s, .error f)
  | some t =>
    if r.2.toOption = some t.leaf.toNat || !getB s (F.MMU_CTX_VALID ctx) then r
    else if Config.takesNew s.freeCtr 0 then (drawn r.1, r.2)
    else (drawn s, .ok t.leaf.toNat)

/-- Translate an address for an access to a column-local DPA (R86, R87). A failed translation counts
(R90). -/
def translate (s : State) (ctx va : Nat) (a : Access) : State × Except XFault Nat :=
  let count (s : State) (f : XFault) : State := if f = .fenced then s else incF s F.MMU_FAULT_CNT
  match lookupLeaf s ctx va with
  | (s, .error f) => (count s f, .error f)
  | (s, .ok e) =>
    match leafPermits e a with
    | some f => (count s f, .error f)
    | none => (s, .ok (toLocal (leafDpa e va)))

/-- A word read by virtual address: its data, or why the access failed. -/
inductive VWord where
  | word (w : PWord)
  | fail (f : XFault) (va : Nat)
  deriving DecidableEq, Repr

/-- The bytes of a word that an access through a context moves over a vertical channel count for the
context's partition: 22 up, 23 down (R329). -/
def countVa (s : State) (i ctx dpa : Nat) : State := countChan s (getF s (F.MMU_CTX_PART ctx)) i (dpaCol dpa) 8

/-- The addresses of the aligned words that `n` bytes from `va` touch. -/
def wordAddrs (va n : Nat) : List Nat :=
  if n = 0 then [] else (List.range ((va + n - 1) / 8 + 1 - va / 8)).map (fun i => va / 8 * 8 + 8 * i)

/-- The first address that an access to each word touches: faults name the byte accessed first. -/
def firstByte (va w : Nat) : Nat := max va w

/-- The bytes of a range that lie in the word at `w`, as a byte mask. -/
def maskIn (va n w : Nat) : BitVec 8 :=
  BitVec.ofNat 8 (((List.range 8).filter (fun i => decide (va ≤ w + i) && decide (w + i < va + n))).map (2 ^ ·)).sum

/-- The bytes of the word of a column-local DPA that lie in a range of a context. -/
def rangeMask (s : State) (ctx va n dpa : Nat) : BitVec 8 :=
  (wordAddrs va n).foldl (fun m w =>
    match (walk s ctx (firstByte va w)).2 with
    | .ok e => if toLocal (leafDpa e (firstByte va w)) / 8 = dpa / 8 then m ||| maskIn va n w else m
    | .error _ => m) 0

/-- The bytes of a word that an UPDATE is rewriting: those of the copy that its apply pass writes (R190). -/
def rewritten (s : State) (dpa : Nat) : BitVec 8 :=
  (s.upds.filter (fun x => x.pass == .apply)).foldl (fun m x =>
    let g := getGroup s x.group
    (copyRanges g (x.step + 1)).foldl (fun m r => m ||| rangeMask s (grpCtx g) r.1 r.2 dpa) m) 0

/-- Read a word over the channel as a reader that nothing orders against an UPDATE finds it: bytes that the
engine is rewriting are undefined (R190). -/
def readShared (s : State) (a : Nat) : State × Option PWord :=
  match readWord s a with
  | (s, none) => (s, none)
  | (s, some w) =>
    let m := rewritten s a
    if m = 0 then (s, some w) else (drawn s, some { w with data := mergeBytes w.data (freeWord s) m })

/-- Read a word for an access: a fret reads it in its bank, anything else over the channel. -/
def readFor (s : State) (ctx dpa : Nat) (a : Access) : State × Option PWord :=
  if a = .kv then readBank s (dpa / 8 * 8)
  else
    let r := if a = .engine then readWord s (dpa / 8 * 8) else readShared s (dpa / 8 * 8)
    (if r.2.isSome then countVa r.1 22 ctx dpa else r.1, r.2)

/-- Read the aligned word that holds a virtual address. -/
def vread (s : State) (ctx va : Nat) (a : Access) : State × VWord :=
  match translate s ctx va a with
  | (s, .error f) => (s, .fail f va)
  | (s, .ok dpa) =>
    match readFor s ctx dpa a with
    | (s, none) => (s, .fail .fenced va)
    | (s, some w) => (s, .word w)

/-- Bytes read by virtual address: the data and whether any word of them is poisoned, or the first
failure in ascending address. -/
structure VBytes where
  bytes : List Byte
  poison : Bool
  fail : Option Result
  deriving DecidableEq, Repr

/-- Read the words of a range in ascending order, up to the first failure. -/
def vreadWords (s : State) (ctx va : Nat) (a : Access) :
    List Nat → State × List PWord × Option Result
  | [] => (s, [], none)
  | w :: rest =>
    match vread s ctx (firstByte va w) a with
    | (s, .fail f v) => (s, [], some (xResult f v))
    | (s, .word p) =>
      let r := vreadWords s ctx va a rest
      (r.1, p :: r.2.1, r.2.2)

/-- Read `n` bytes from a virtual address. -/
def vreadBytes (s : State) (ctx va n : Nat) (a : Access) : State × VBytes :=
  let r := vreadWords s ctx va a (wordAddrs va n)
  let all := r.2.1.flatMap (fun w => bytesOf 8 w.data.toNat)
  (r.1, { bytes := (all.drop (va % 8)).take n, poison := r.2.1.any (·.poison), fail := r.2.2 })

/-- What became of a write by virtual address. -/
inductive VWrote where
  | done (w : Wrote)
  | fail (f : XFault) (va : Nat)
  deriving DecidableEq, Repr

/-- Write the bytes of a mask to the aligned word that holds a virtual address. -/
def vwrite (s : State) (ctx va : Nat) (data : DWord) (mask : BitVec 8) (poison : Bool) : State × VWrote :=
  match translate s ctx va .write with
  | (s, .error f) => (s, .fail f va)
  | (s, .ok dpa) =>
    let r := writeWord s (dpa / 8 * 8) data mask poison
    (if r.2 = .fenced then r.1 else countVa r.1 23 ctx dpa, .done r.2)

/-- The result of a write, none when it succeeded. -/
def wroteResult : VWrote → Option Result
  | .done .ok => none
  | .done .ue => some { status := stUe, sub := 0, detail := 0 }
  | .done .fenced => some { status := stFenced, sub := 0, detail := 0 }
  | .fail f va => some (xResult f va)

/-- Data and mask of the word at `w` for bytes written from `va`. -/
def wordOfBytes (va : Nat) (bs : List Byte) (w : Nat) : DWord × BitVec 8 :=
  (List.range 8).foldl (fun acc i =>
    if va ≤ w + i ∧ w + i < va + bs.length then
      (acc.1 ||| (((bs.getD (w + i - va) 0).setWidth 64) <<< (8 * i)), acc.2 ||| BitVec.twoPow 8 i)
    else acc) (0, 0)

/-- Write bytes from a virtual address, every word of them; the first failure in ascending address. DESIGN CHOICE
(log entry 104): MMU_FAULT_CNT counts each word that fails, and the one failing word of a read. -/
def vwriteBytes (s : State) (ctx va : Nat) (bs : List Byte) (poison : Bool) : State × Option Result :=
  (wordAddrs va bs.length).foldl (fun acc w =>
    let dm := wordOfBytes va bs w
    let r := vwrite acc.1 ctx (firstByte va w) dm.1 dm.2 poison
    (r.1, match acc.2 with | none => wroteResult r.2 | some x => some x)) (s, none)

/-- The translations that an invalidation covers (*Table: MMU field maps*). -/
def invalCovers (iv : Inval) (t : TlbEntry) : Bool :=
  t.ctx == iv.ctx && (iv.all || (decide (t.va < iv.va + iv.len) && decide (iv.va < t.va + 2 ^ t.size)))

/-- Drop the cached translations that an invalidation covers (R88, R89). -/
def invalidate (s : State) (iv : Inval) : State :=
  { s with tlb := s.tlb.filter (fun t => !invalCovers iv t) }

end Sys2Proof.Machine
end

