-- ==== Sys2Proof/Machine/Queue.lean ====
section
/-! DEFINITION. Queues, signal words, the front end, dispatch and completion (R20 to R42, R49 to R55,
R260, R368, R369). -/

namespace Sys2Proof.Machine

/-! ## Signal words (R30, R33, R34) -/

def sigGet (s : State) (part w : Nat) : Nat := sget 0 s.sigs (part * 4096 + w)

/-- A wait on word value `w` for `v` is met when `w` has reached or passed `v` (R30). -/
def sigMet (w v : Nat) : Bool := (w + 2 ^ 32 - v % 2 ^ 32) % 2 ^ 32 < 2 ^ 31

/-- Let a waiting core go on: its program counter passes the waiting instruction. -/
def passWait (k : Core) : Core := { k with wait := none, rf := { k.rf with pc := k.rf.pc + 4 } }

/-- Whether a core waits in a SIGW of a partition that a word's value meets. A stopped core goes on
only after the resume (R339). -/
def sigReleases (part w v : Nat) (k : Core) : Bool :=
  !k.stopped && (match k.kernel, k.wait with
    | some n, some (.sigw w' v') => n.part == part && w' == w && sigMet v v'.toNat
    | _, _ => false)

/-- One update of a signal word; waiting SIGW instructions that it meets go on (R30). -/
def sigSet (s : State) (part w v : Nat) : State :=
  let v := v % 2 ^ 32
  { s with sigs := sput 0 s.sigs (part * 4096 + w) v,
           cores := s.cores.map (fun p => (p.1, if sigReleases part w v p.2 then passWait p.2 else p.2)) }

/-- ADD modulo 2^32 (R34). -/
def sigAdd (s : State) (part w v : Nat) : State := sigSet s part w (sigGet s part w + v)

/-! ## Command fields (*Table: Command header*) -/

def cOpcode (c : CmdWord) : Nat := cmdField c 0 1
def cEngine (c : CmdWord) : Nat := bits (cmdField c 1 1) 2 0
def cWaitEn (c : CmdWord) : Bool := (cmdField c 1 1).testBit 3
def cSigEn (c : CmdWord) : Bool := (cmdField c 1 1).testBit 4
def cSigAdd (c : CmdWord) : Bool := (cmdField c 1 1).testBit 5
def cSigAny (c : CmdWord) : Bool := (cmdField c 1 1).testBit 6
def cFence (c : CmdWord) : Bool := (cmdField c 1 1).testBit 7
def cTag (c : CmdWord) : Nat := cmdField c 2 2
def cWaitIdx (c : CmdWord) : Nat := bits (cmdField c 4 2) 11 0
def cSigIdx (c : CmdWord) : Nat := bits (cmdField c 6 2) 11 0
def cWaitVal (c : CmdWord) : Nat := cmdField c 8 4
def cSigVal (c : CmdWord) : Nat := cmdField c 12 4
def cNotBefore (c : CmdWord) : Nat := cmdField c 16 8
def cDur (c : CmdWord) : Nat := cmdField c 24 4
def cEnergy (c : CmdWord) : Nat := cmdField c 28 4

/-- A reserved bit of the header, or any body bit of a NOP, is 1 (R27). -/
def cReserved (c : CmdWord) : Bool :=
  bits (cmdField c 4 2) 15 12 != 0 || bits (cmdField c 6 2) 15 12 != 0 ||
    (cOpcode c == 0 && cmdField c 32 32 != 0)

/-- The opcodes of each engine (*Table: Opcode summary*). -/
def opDefined (engine op : Nat) : Bool :=
  op == 0 || (match engine with
    | 0 => op == 0x01 || op == 0x02
    | 1 => decide (0x10 ≤ op) && decide (op ≤ 0x12)
    | 2 => decide (0x20 ≤ op) && decide (op ≤ 0x26)
    | 3 => decide (0x30 ≤ op) && decide (op ≤ 0x35)
    | 4 => op == 0x40 || op == 0x41
    | _ => false)

/-- The engine of a queue. -/
def engineOf (s : State) (q : Nat) : Nat := getF s (F.QCTL_QOWN_ENGINE q)

/-- Why the front end rejects a command, if it does: the first case of R27 that it meets. -/
def rejectCode (s : State) (q : Nat) (f : Fetched) : Option Nat :=
  if cTag f.cmd ≠ f.abs % 65536 then some 0x0001
  else if cReserved f.cmd then some 0x0002
  else if cEngine f.cmd ≠ engineOf s q then some 0x0003
  else if !opDefined (engineOf s q) (cOpcode f.cmd) then some 0x0004
  else none

/-! ## Open commands -/

def isCmd (q tag : Nat) (o : OpenCmd) : Bool := o.q == q && o.tag == tag

/-- The open command of a queue with a tag. -/
def findCmd (s : State) (q tag : Nat) : Option OpenCmd := s.open_.find? (isCmd q tag)

/-- Update the open command of a queue with a tag. -/
def updCmd (s : State) (q tag : Nat) (f : OpenCmd → OpenCmd) : State :=
  { s with open_ := s.open_.map (fun o => if isCmd q tag o then f o else o) }

/-- The open commands of a queue. -/
def openOf (s : State) (q : Nat) : List OpenCmd := s.open_.filter (fun o => o.q == q)

/-- The open commands of a partition. -/
def openOfPart (s : State) (p : Nat) : List OpenCmd := s.open_.filter (fun o => partOf s o.q == p)

/-- Set OUTSTANDING from the open commands of the queue. -/
def syncOut (s : State) (q : Nat) : State := setF s (F.OUTSTANDING q) (openOf s q).length

/-- A unit sends a JOIN report for an item of a command (R36). -/
def sendReport (s : State) (q tag seq : Nat) (r : Result) : State :=
  updCmd s q tag (fun o => { o with sent := o.sent ++ [{ seq := seq, res := r }] })

/-- A command whose only report is this one: the engine began it and sends item 0 with LAST. -/
def answer (s : State) (q tag : Nat) (r : Result) (okDetail : Nat) : State :=
  updCmd s q tag (fun o => { o with begun := true, items := some 1, okDetail := okDetail,
                                    sent := o.sent ++ [{ seq := 0, res := r }] })

/-- A command under R22: ST_PERMISSION, no signal of its own, one more rejected command. -/
def deny (s : State) (q tag : Nat) : State :=
  answer (countOp s (partOf s q) 31 1) q tag
    { status := stPermission, sub := 0, detail := 0, noSig := true } 0

/-- A context that holds no translation (R83). -/
def ctxDead (s : State) (c : Nat) : Bool := !getB s (F.MMU_CTX_VALID c)

/-- A command that names such a context faults also when it accesses nothing through it (R83). DESIGN CHOICE (log
entry 46): the manual gives that fault no address, so DETAIL is a free value. -/
def ctxFault (s : State) (q tag : Nat) : State :=
  answer (drawn (incF s F.MMU_FAULT_CNT)) q tag (xResult .ctxInvalid (freeWord s).toNat) 0

/-- The status of a command is that of its lowest-numbered failing item (R37). -/
def lowestFail (l : List Report) : Option Report :=
  l.foldl (fun acc r =>
    if r.res.status = stOk then acc
    else match acc with
      | none => some r
      | some a => if r.seq < a.seq then some r else acc) none

/-- The join point has received reports for every item (R36). -/
def allIn (o : OpenCmd) : Bool :=
  match o.items with
  | some n => (List.range n).all (fun i => o.got.any (fun r => r.seq == i))
  | none => false

/-- The result of a command whose items have all reported (R37). -/
def joined (o : OpenCmd) : Result :=
  match lowestFail o.got with
  | some r => r.res
  | none => { status := stOk, sub := 0, detail := o.okDetail }

/-! ## The plan of the capo (R260, R261) -/

/-- A fraction sum: adds e·1000/d to n/m, in W for µJ over ns. -/
def addPower (acc : Nat × Nat) (e d : Nat) : Nat × Nat := (acc.1 * d + e * 1000 * acc.2, acc.2 * d)

/-- The plan now, as a fraction in W: every released ordinary command that has not completed (its
interval began no later than now, so the plan is highest now). -/
def planNow (s : State) : Nat × Nat :=
  s.open_.foldl (fun a o => if o.express then a else addPower a o.energy o.dur) (0, 1)

/-- P_ord (R260). -/
def pOrd (s : State) : Nat :=
  getF s F.CAPO_STATE_EFF_W - (if expressCnt s = 0 then 0 else getF s F.CAPO_EXPRESS_RSV_W) - s.capo.pIdle

/-- The declared duration and energy of a command (R261). -/
def declDur (s : State) (engine : Nat) (c : CmdWord) : Nat :=
  if cDur c ≠ 0 then cDur c
  else
    let d := getF s (F.CAPO_DEFDECL_DUR_NS engine)
    if d = 0 then 1000 else d

def declEnergy (s : State) (engine : Nat) (c : CmdWord) : Nat :=
  if cEnergy c ≠ 0 then cEnergy c else getF s (F.CAPO_DEFDECL_ENERGY_UJ engine)

/-- Whether the capo releases the head command of a queue (R260, R263). -/
def capoReleases (s : State) (q : Nat) (c : CmdWord) : Bool :=
  expressQ s q || !getB s F.CAPO_CTRL_FORECAST_EN || s.open_.all (·.express) ||
    (let p := addPower (planNow s) (declEnergy s (engineOf s q) c) (declDur s (engineOf s q) c)
     decide (p.1 ≤ pOrd s * p.2))

/-- PLAN_W: the highest plan value, in whole W (R260). -/
def planW (s : State) : Nat := (planNow s).1 / (planNow s).2

/-! ## Dispatch conditions (R29) -/

/-- Size of a ring. -/
def Ring.size (r : Ring) : Nat := 2 ^ r.log2n

/-- A ring holds `p − c` entries, modulo 2N. -/
def ringUsed (n p c : Nat) : Nat := (p + 2 * n - c) % (2 * n)

/-- Condition 6: a completion entry is free beside those reserved for open commands. -/
def cqFree (s : State) (q : Nat) : Bool :=
  let k := getQueue s q
  ringUsed k.cq.size (getF s (F.CQ_PTR_PRODUCER q)) k.cons + (openOf s q).length < k.cq.size

/-- Condition 2: the wait condition (R30). -/
def waitMet (s : State) (q : Nat) (c : CmdWord) : Bool :=
  !cWaitEn c || sigMet (sigGet s (partOf s q) (cWaitIdx c)) (cWaitVal c)

/-- The column port that holds a virtual address, or the move front end when it does not translate. -/
def portOfVa (s : State) (ctx va : Nat) : Nat :=
  match (walk s ctx va).2 with
  | .ok e => 0x400 + dpaCol (toLocal (leafDpa e va)) / 16
  | .error _ => 0x503

/-- The lowest-numbered cluster of a mask. -/
def lowestLc (mask : Nat) : Nat := ((List.range 64).find? (fun i => mask.testBit i)).getD 0

/-- The join point of a command (*Table: Join points*, R192, R238, R243). DESIGN CHOICE (log entry 92): the manual
names none for GROUP_CREATE and GROUP_DESTROY, which join at the move front end, nor for SCHEDULE_SET, which joins
where an UPDATE of its group does. -/
def joinPoint (s : State) (q : Nat) (c : CmdWord) : Nat :=
  let e := engineOf s q
  if cOpcode c = 0 then 0x500 + e
  else if e = 0 then 0x400 + lowestLc (cmdField c 32 8)
  else if e = 1 then 0x400 + bits (cmdField c 50 2) 9 0 / 16
  else if e = 2 then 0x502
  else if e = 3 then
    if cOpcode c = 0x32 then portOfVa s (bits (cmdField c 54 2) 11 0) (cmdField c 32 8)
    else if cOpcode c = 0x33 && bits (cmdField c 34 1) 2 0 != 5 then
      portOfVa s (bits (cmdField c 56 2) 11 0) (cmdField c 48 8)
    else 0x503
  else 0x400 + bits (cmdField c 32 2) 11 0 % max 1 (getF s F.GLB_STATUS_NLC)

/-- Condition 7: each join point holds 256 join slots (R35). -/
def joinFree (s : State) (jp : Nat) : Bool := (s.open_.filter (fun o => o.join == jp)).length < 256

/-- Blocks of an UPDATE run on the update unit of a cluster: their elements lie in its columns (R185). -/
def updNeeds (s : State) (c : CmdWord) (lc : Nat) : Bool :=
  let g := getGroup s (bits (cmdField c 32 2) 11 0)
  (List.range (grpNblk g)).any (fun b =>
    match (walk s (grpCtx g) (wAt g g.version b)).2 with
    | .ok e => dpaCol (toLocal (leafDpa e (wAt g g.version b))) / 16 == lc
    | .error _ => false)

/-- A command needs a cluster: it names it, joins at its column port, or needs its update unit (R301). -/
def needsCluster (s : State) (q : Nat) (c : CmdWord) (lc : Nat) : Bool :=
  (engineOf s q == 0 && (cmdField c 32 8).testBit lc) || joinPoint s q c == 0x400 + lc ||
    (engineOf s q == 4 && cOpcode c == 0x40 && updNeeds s c lc)

/-- A cluster reset holds the dispatch of a command (R301). -/
def heldByReset (s : State) (q : Nat) (c : CmdWord) : Bool :=
  (List.range 64).any (fun l => (getCluster s l).hold && needsCluster s q c l)

/-- The conditions of R29 for the head of a queue, but its wait condition. -/
def condsButWait (s : State) (q : Nat) (f : Fetched) : Bool :=
  decide (cNotBefore f.cmd ≤ s.time) &&
  (!cFence f.cmd || (openOf s q).isEmpty) &&
  (openOf s q).all (fun o => decide (f.abs < o.abs + 32768)) &&
  cqFree s q && joinFree s (joinPoint s q f.cmd) && capoReleases s q f.cmd &&
  !heldByReset s q f.cmd

/-- The front end of an engine dispatches nothing while a global stop holds it (R339). -/
def feStopped (s : State) (e : Nat) : Bool := s.stop.feStopped.contains e

/-- The head of a queue that may run: RUNNING, valid, its front end not stopped. -/
def headOf (s : State) (q : Nat) : Option Fetched :=
  if validQ s q && getF s (F.QSTATE_STATE q) == 1 && !feStopped s (engineOf s q) then
    (getQueue s q).fetched.head?
  else none

/-- The head of a queue is ready for dispatch under R29. -/
def headReady (s : State) (q : Nat) : Bool :=
  match headOf s q with
  | some f => (rejectCode s q f).isNone && waitMet s q f.cmd && condsButWait s q f
  | none => false

/-! ## Arbitration (R50, R369) -/

/-- The valid queues of an engine whose heads are ready, of one kind, ascending. -/
def readyQs (s : State) (e : Nat) (express : Bool) : List Nat :=
  (s.queues.map (·.1)).filter (fun q =>
    decide (q < 1024) && engineOf s q == e && expressQ s q == express && headReady s q)

/-- The next of an ascending list after a number, wrapping. -/
def nextAfter (l : List Nat) (q : Nat) : Option Nat :=
  match l.find? (fun x => decide (q < x)) with
  | some x => some x
  | none => l.head?

/-- The queue that the arbiter of an engine serves: express queues first, in round-robin order; then
the ordinary queue that holds the turn while its head is ready and dispatches are left; then the next. -/
def arbChoice (s : State) (e : Nat) : Option Nat :=
  let t := sget .zero s.turns e
  match nextAfter (readyQs s e true) t.lastExpress with
  | some q => some q
  | none =>
    let l := readyQs s e false
    if l.contains t.queue && decide (0 < t.left) then some t.queue else nextAfter l t.queue

/-- WEIGHT, 0 read as 1 (*Table: QCTL_QOWN fields*). -/
def weightOf (s : State) (q : Nat) : Nat := max 1 (getF s (F.QCTL_QOWN_WEIGHT q))

/-- The turn after a dispatch from a queue (R369). -/
def turnAfter (s : State) (q seq : Nat) : Turn :=
  let t := sget .zero s.turns (engineOf s q)
  if expressQ s q then { t with lastExpress := q, lastSeq := seq }
  else if t.queue = q && decide (0 < t.left) then { t with left := t.left - 1, lastSeq := seq }
  else { t with queue := q, left := weightOf s q - 1, lastSeq := seq }

/-- A queue whose head is not ready loses the turn (R369). -/
def endTurn (s : State) (e : Nat) : State :=
  let t := sget .zero s.turns e
  if decide (0 < t.left) && !headReady s t.queue then
    { s with turns := sput .zero s.turns e { t with left := 0 } }
  else s

/-! ## Completion (R33, R39, R40, R368) -/

/-- A completion record (*Table: Completion record*). -/
def record (s : State) (q tag : Nat) (r : Result) (duration energy : Nat) (phase : Bool) : Nat :=
  tag + r.status * 2 ^ 16 + (engineOf s q + (if phase then 128 else 0)) * 2 ^ 24 +
    (q + partOf s q * 2 ^ 10) * 2 ^ 32 + r.sub % 2 ^ 16 * 2 ^ 48 + s.time % 2 ^ 64 * 2 ^ 64 +
    min duration (2 ^ 32 - 1) * 2 ^ 128 + min energy (2 ^ 32 - 1) * 2 ^ 160 + r.detail % 2 ^ 64 * 2 ^ 192

/-- A context through which a queue may reach its rings (R54, R368). -/
def ringCtxOk (s : State) (q ctx : Nat) : Bool :=
  getB s (F.MMU_CTX_VALID ctx) && getF s (F.MMU_CTX_PART ctx) == partOf s q

/-- A context that belongs to another partition: what a packet of this one touches there fails (R42). DESIGN CHOICE (log
entry 46): a context with VALID = 0 belongs to none, and faults (R83). -/
def ctxForeign (s : State) (part c : Nat) : Bool :=
  getB s (F.MMU_CTX_VALID c) && getF s (F.MMU_CTX_PART c) != part

/-- Bytes of a word of the output of a command that failed: undefined, data and poison (R38). -/
def undefPart (s : State) (a : Nat) (m : BitVec 8) : State :=
  drawn (writeWord s a (freeWord s) m (Config.takesNew s.freeCtr a)).1

/-- A whole word of such an output. -/
def undefWord (s : State) (a : Nat) : State := undefPart s a 0xFF

/-- Make the output bytes of a failed command undefined, where they can be written (R38, R42). It is no access of
the command: it counts no fault. -/
def undefRange (s : State) (part ctx va n : Nat) : State :=
  if ctxForeign s part ctx then s
  else
    (wordAddrs va n).foldl (fun s w =>
      match (translate s ctx (firstByte va w) .write).2 with
      | .ok dpa => undefPart s (dpa / 8 * 8) (maskIn va n w)
      | .error _ => s) s

/-- The result of an item that may not touch what it names (R42). -/
def permResult : Result := { status := stPermission, sub := 0, detail := 0 }

/-- Read and write for a partition: an access through another one's context touches nothing (R42). -/
def ownedRead (s : State) (part ctx va n : Nat) (a : Access) : State × VBytes :=
  if ctxForeign s part ctx then (s, { bytes := [], poison := false, fail := some permResult }) else vreadBytes s ctx va n a

def ownedWrite (s : State) (part ctx va : Nat) (bs : List Byte) (poison : Bool) : State × Option Result :=
  if ctxForeign s part ctx then (s, some permResult) else vwriteBytes s ctx va bs poison

/-- Write 32 bytes into a device-memory completion ring; false when the write fails (R368). -/
def devRecord (s : State) (q ctx addr v : Nat) : State × Bool :=
  if ringCtxOk s q ctx then
    match translate s ctx addr .write with
    | (s, .error _) => (s, false)
    | (s, .ok dpa) =>
      if colGone s (dpaCol dpa) then (s, false)
      else ((List.range 4).foldl (fun s i =>
        (writeWord (countVa s 23 ctx dpa) (dpa + 8 * i) (BitVec.ofNat 64 (v / 2 ^ (64 * i))) 0xFF false).1) s, true)
  else (s, false)

/-- Put a queue in ERROR: dispatch stops and every fetched command is discarded (R54). -/
def queueError (s : State) (q : Nat) : State :=
  let s := setF s (F.QSTATE_STATE q) 4
  setQueue s q { getQueue s q with fetched := [], waitSince := none }

/-- Raise an EV_QUE event about a queue. -/
def raiseQue (s : State) (code sev q aux data : Nat) : State :=
  raiseEv s code sev (some (partOf s q)) 0x20 q aux data

/-- Write the completion record of a command and advance the producer; a record that cannot be written
is lost and puts the queue in ERROR (R39, R40, R368). -/
def putRecord (s : State) (q tag : Nat) (r : Result) (duration energy : Nat) : State :=
  let k := getQueue s q
  let n := k.cq.size
  let p := getF s (F.CQ_PTR_PRODUCER q)
  let v := record s q tag r duration energy (decide (p < n))
  let addr := k.cq.base + 32 * (p % n)
  let w := if k.cq.dev then devRecord s q k.cq.ctx addr v else (hostWrite s addr (bytesOf 32 v), true)
  let s := setF w.1 (F.CQ_PTR_PRODUCER q) ((p + 1) % (2 * n))
  if w.2 then
    let s := countOp s (partOf s q) 30 1
    if getB s (F.CQ_CFG_MSIX_EN q) then sendMsix s (partOf s q) (getF s (F.CQ_CFG_VECTOR q)) else s
  else
    raiseQue (queueError (setB s (F.QSTATE_CQ_ERR q) true) q) 0x8005 sevError q 0 addr

/-- Whether a completion applies the command's signal (*Table: Command header*, R22, R27, R191). -/
def signals (c : CmdWord) (r : Result) : Bool :=
  cSigEn c && !r.noSig && (r.status == stOk || cSigAny c)

/-- Apply the signal of a command (R33). -/
def applySignal (s : State) (q : Nat) (c : CmdWord) (r : Result) : State :=
  if signals c r then
    if cSigAdd c then sigAdd s (partOf s q) (cSigIdx c) (cSigVal c)
    else sigSet s (partOf s q) (cSigIdx c) (cSigVal c)
  else s

/-- Record the completion in the trace and fire the trigger on a status other than ST_OK (R333, R336). -/
def traceComplete (s : State) (q tag : Nat) (r : Result) (duration energy : Nat) : State :=
  let s := traceHap s 2 (some (partOf s q)) (expressQ s q) false false (0x500 + engineOf s q)
    (payloadOf [(0, q), (2, tag), (4, r.status), (5, engineOf s q), (6, r.sub),
                (8, min duration (2 ^ 32 - 1)), (12, min energy (2 ^ 32 - 1))])
  if getB s F.DBG_TRIG_CFG_ON_STATUS && r.status != stOk then traceTrigger s 18 r.status else s

/-- A queue that is STOPPING reads STOPPED once nothing is outstanding (R53). -/
def settleStop (s : State) (q : Nat) : State :=
  if getF s (F.QSTATE_STATE q) = 2 && getF s (F.OUTSTANDING q) == 0 then setF s (F.QSTATE_STATE q) 3 else s

/-- A partition reset is over, but for a segment that it is to apply. -/
def partDone (s : State) (r : PartRst) : State :=
  let l := s.luthier.partRst.filter (fun x => x.part != r.part || x.reload.isSome)
  let s := { s with luthier := { s.luthier with partRst := l } }
  let s := if r.evt then setB s F.EVT_CFG_EN false else s
  if r.lut then setB s F.LUT_RESET_STATUS_BUSY false else s

/-- The queues of a partition under reset read DISABLED once its last command has completed (R302). -/
def settlePart (s : State) (p : Nat) : State :=
  match s.luthier.partRst.find? (fun r => r.part == p && r.drained) with
  | some r =>
    if (openOfPart s p).isEmpty then
      let s := forEach (List.range 1024) s (fun s q =>
        if validQ s q && partOf s q == p then
          setF s (F.QSTATE_STATE q) 0 else s)
      partDone s r
    else s
  | none => s

/-! ### The version flip of an UPDATE (R201, R202) -/

/-- The partitions whose version word a flip sets: OWNER and every SHARE_MASK partition. -/
def verParts (g : Group) : List Nat :=
  (List.range 16).filter (fun p => p == grpOwner g || (grpShare g).testBit p)

def findUpd (s : State) (q tag : Nat) : Option Upd := s.upds.find? (fun u => u.q == q && u.tag == tag)

/-- Set the state of an update unit's invocation, and its STATE: 1 IDLE, 2 BUSY. -/
def setInv (s : State) (u : Nat) (i : Option Invocation) : State :=
  setF (setUnit s u { getUnit s u with inv := i }) (F.UPD_UNIT_STATUS_STATE u) (if i.isSome then 2 else 1)

/-- The units that run an invocation of a command. -/
def unitsOn (s : State) (q tag : Nat) : List Nat :=
  (s.units.filter (fun p => match p.2.inv with | some i => i.q == q && i.tag == tag | none => false)).map (·.1)

/-- BUSY of a group: an UPDATE of it is executing or held. -/
def syncBusy (s : State) (g : Nat) : State :=
  setGroup s g { getGroup s g with busy := s.upds.any (fun u => u.group == g) }

/-- An UPDATE is no longer in service. -/
def dropUpd (s : State) (q tag : Nat) : State :=
  match findUpd s q tag with
  | none => s
  | some u =>
    let s := forEach (unitsOn s q tag) s (fun s n => setInv s n none)
    syncBusy { s with upds := s.upds.filter (fun u => !(u.q == q && u.tag == tag)) } u.group

/-- Steps 1 and 2 of a flip (R201); every command of the partitions concerned that is open at the flip
is one to drain before the next UPDATE (R192). -/
def flip (s : State) (u : Upd) : State :=
  let g := getGroup s u.group
  let late := s.open_.filter (fun o => (verParts g).contains (partOf s o.q) && !isCmd u.q u.tag o)
  let s := setGroup s u.group { g with version := (u.step + 1) % 2 ^ 32, drain := late.map (fun o => (o.q, o.abs)) }
  forEach (verParts g) (incF s F.UPD_FLIPS) (fun s p => sigSet s p (grpVerSig g) (u.step + 1))

/-- The copy that a failed UPDATE was to write is undefined; words stored poisoned stay so (R202, R205). -/
def undefCopy (s : State) (u : Upd) : State :=
  if u.pass = .hold then s
  else
    let g := getGroup s u.group
    let s := forEach (copyRanges g (u.step + 1)) s (fun s r => undefRange s (grpOwner g) (grpCtx g) r.1 r.2)
    forEach u.bad s (fun s r =>
      (ownedWrite s (grpOwner g) (grpCtx g) r.1 (bytesOf r.2 (freeWord s).toNat) true).1)

/-- What an UPDATE does at its completion, before its record: with ST_OK the flip; otherwise the group
stays as it was (R202). -/
def settleUpdate (s : State) (o : OpenCmd) (r : Result) : State :=
  if engineOf s o.q = 4 && cOpcode o.cmd == 0x40 then
    let s' := dropUpd s o.q o.tag
    if r.status = stOk then
      match findUpd s o.q o.tag with
      | some u => flip s' u
      | none => s'
    else
      match findUpd s o.q o.tag with
      | some u => incF (undefCopy s' u) F.UPD_NOFLIP
      | none => incF s' F.UPD_NOFLIP
  else s

/-- The output of a LAUNCH that failed is undefined: what its cores stored (R38). -/
def settleLaunch (s : State) (o : OpenCmd) (r : Result) : State :=
  if r.status = stOk then s
  else forEach o.outs s (fun s x => undefRange s (partOf s o.q) x.1 x.2.1 x.2.2)

/-- A command completes: its record, then its signal (R33), and what follows from one command fewer. DESIGN CHOICE (log
entry 113): a record that is held because the PCIe link is down (R304, R347) counts as written. -/
def complete (s : State) (o : OpenCmd) (r : Result) : State :=
  let s := settleLaunch (settleUpdate s o r) o r
  let s := { s with open_ := s.open_.filter (fun x => !isCmd o.q o.tag x) }
  let s := putRecord s o.q o.tag r (s.time - o.tDispatch) o.attributed
  let s := applySignal s o.q o.cmd r
  let s := traceComplete s o.q o.tag r (s.time - o.tDispatch) o.attributed
  let s := if !o.express && decide (o.energy * 5 < o.attributed * 4) then
      incF s (F.CAPO_UNDER_CNT (partOf s o.q)) else s
  let s := setF s F.CAPO_STATE_PLAN_W (planW s)
  settlePart (settleStop (syncOut s o.q) o.q) (partOf s o.q)

/-- A command completes without having been dispatched (R27, R31): DURATION and ENERGY are 0. -/
def completeUndispatched (s : State) (q tag : Nat) (c : CmdWord) (r : Result) : State :=
  let s := putRecord s q tag r 0 0
  let s := applySignal s q c r
  traceComplete s q tag r 0 0

/-- The head leaves the list of fetched commands. -/
def popHead (s : State) (q : Nat) : State :=
  let k := getQueue s q
  setQueue s q { k with fetched := k.fetched.drop 1, waitSince := none }

/-- The open command that a fetched command becomes at dispatch. -/
def openFrom (s : State) (q : Nat) (f : Fetched) : OpenCmd :=
  { q := q, tag := f.abs % 65536, abs := f.abs, cmd := f.cmd, tDispatch := s.time,
    energy := declEnergy s (engineOf s q) f.cmd, dur := declDur s (engineOf s q) f.cmd,
    express := expressQ s q, join := joinPoint s q f.cmd, begun := false, items := none, sent := [],
    got := [], okDetail := 0, attributed := 0,
    entry := if engineOf s q = 1 then slook s.seqs (cmdField f.cmd 32 2) else none,
    fretOn := getB s F.FRET_MODE_EN, outs := [], starts := [] }

/-- Dispatch the head of a queue: it becomes an open command (R29, R35); a NOP completes at once. -/
def dispatchHead (s : State) (q : Nat) (f : Fetched) : State :=
  let o := openFrom s q f
  let t := turnAfter s q o.tag
  let s := popHead s q
  let s := { s with turns := sput .zero s.turns (engineOf s q) t, open_ := s.open_ ++ [o] }
  let s := syncOut s q
  let s := setF s F.CAPO_STATE_PLAN_W (planW s)
  let s := traceHap s 1 (some (partOf s q)) (expressQ s q) false false (0x500 + engineOf s q)
    (payloadOf [(0, q), (2, o.tag), (4, cOpcode f.cmd), (5, engineOf s q)])
  endTurn (if cOpcode f.cmd = 0 then complete s o okResult else s) (engineOf s q)

end Sys2Proof.Machine
end

