-- ==== Sys2Proof/Machine/Events.lean ====
section
/-! DEFINITION. The event unit: the event ring, the severity filter, the rate limiter, and HALTED after
a fatal record (R322 to R325, R352). -/

namespace Sys2Proof.Machine

/-- Set a pending bit of MGT_ALERT (R352): 0 READY, 1 HALT, 2 EVENT, 3 TRIP. -/
def alert (s : State) (bit : Nat) : State := setBit s F.MGT_ALERT_PENDING bit true

/-- MGT_ALERT_N is pulled low while a pending bit is enabled (R352). -/
def alertLow (s : State) : Bool := getF s F.MGT_ALERT_PENDING &&& getF s F.MGT_ALERT_ENABLE != 0

/-- The 32 bytes of an event record as a number (*Table: Event record (32 bytes)*). -/
def eventRecord (e : Event) (phase : Bool) : Nat :=
  e.time % 2 ^ 64 + e.famCode % 2 ^ 16 * 2 ^ 64 + (e.sev % 4 + (if phase then 128 else 0)) * 2 ^ 80 +
    (match e.part with | some p => p % 16 + 16 | none => 0) * 2 ^ 88 +
    (e.srcKind % 256 + e.srcIndex % 2 ^ 24 * 256) * 2 ^ 96 + e.suppressed % 2 ^ 32 * 2 ^ 128 +
    e.aux % 2 ^ 32 * 2 ^ 160 + e.data % 2 ^ 64 * 2 ^ 192

/-- Free entries of the event ring. -/
def evtFree (s : State) : Nat :=
  let n := 2 ^ s.events.log2n
  n - ringUsed n (getF s F.EVT_PROD_PTR) (getF s F.EVT_CONS_PTR)

/-- The ring takes records: it is enabled and the device is in service. -/
def evtOpen (s : State) : Bool := getB s F.EVT_CFG_EN && ready s

/-- The PHASE of the next entry of the ring: 1 on the first lap, then alternating. -/
def ringPhase (s : State) : Bool := decide (getF s F.EVT_PROD_PTR < 2 ^ s.events.log2n)

/-- MGT_EVT_LAST, a copy of the record, and the EVENT alert (R352). A record that the ring does not take has
the PHASE that the next entry would have (log entry 70). -/
def alertEvent (s : State) (e : Event) : State :=
  if getF s F.MGT_ALERT_MIN_SEV ≤ e.sev then
    let v := eventRecord e (ringPhase s)
    let s := forEach (List.range 8) s (fun s j => setF s (F.MGT_EVT_LAST j) (v / 2 ^ (32 * j)))
    alert s 2
  else s

/-- The trace record of an event, with the time of its detection, and the trigger on its code (R333, R336). -/
def traceEvent (s : State) (e : Event) : State :=
  let s := traceHapAt s e.time 3 e.part false false false 0
    (payloadOf [(0, e.famCode), (2, e.sev), (4, e.srcKind + e.srcIndex % 2 ^ 24 * 256), (12, e.data % 2 ^ 64)])
  if getB s F.DBG_TRIG_CFG_ON_EVENT &&
      e.famCode == getF s F.DBG_TRIG_CFG_FAMILY * 2 ^ 12 + getF s F.DBG_TRIG_CFG_CODE then
    traceTrigger s 16 e.famCode
  else s

/-- What every event does beside its record. -/
def noteEvent (s : State) (e : Event) : State := traceEvent (alertEvent s e) e

/-- Write a record into the ring and send its interrupt. -/
def evtStore (s : State) (e : Event) : State :=
  let n := 2 ^ s.events.log2n
  let p := getF s F.EVT_PROD_PTR
  let s := hostWrite s (s.events.base + 32 * (p % n)) (bytesOf 32 (eventRecord e (ringPhase s)))
  let s := setF s F.EVT_PROD_PTR ((p + 1) % (2 * n))
  if getB s F.EVT_CFG_MSIX_EN then sendMsix s 0 (getF s F.EVT_CFG_VECTOR) else s

/-- Count a record that is not written (R324). -/
def evtLose (s : State) : State :=
  let s := setB (incF s F.EVT_LOST_CNT) F.EVT_STATUS_OVF true
  { s with events := { s.events with lostSince := s.events.lostSince + 1 } }

/-- Write one EVT_OVERFLOW record for the records lost since the last, once the ring is open and an
entry is free (R324). -/
def evtFlush (s : State) : State :=
  if evtOpen s && decide (0 < s.events.lostSince) && decide (1 ≤ evtFree s) then
    let e : Event := { time := s.time, famCode := 0x7001, sev := sevWarn, part := none, srcKind := 0,
                       srcIndex := 0, suppressed := 0, aux := 0, data := s.events.lostSince }
    evtStore (noteEvent { s with events := { s.events with lostSince := 0 } } e) e
  else s

/-- Write a record, or count it as lost: below FATAL it needs 2 free entries, FATAL needs 1 (R324). -/
def evtWrite (s : State) (e : Event) : State :=
  let s := evtFlush s
  let need := if e.sev = sevFatal then 1 else 2
  if evtOpen s && decide (need ≤ evtFree s) then evtStore s e else evtFlush (evtLose s)

/-- The pair that a window limits: FAMILY and CODE with SRC_KIND and SRC_INDEX. -/
def samePair (a b : Event) : Bool :=
  a.famCode == b.famCode && a.srcKind == b.srcKind && a.srcIndex == b.srcIndex

/-- The rate limiter (R325): the first occurrence of a pair is written and opens a window; later ones
are counted; with 512 live pairs a new one is written without a window. -/
def limitEvent (s : State) (e : Event) : State :=
  let ws := s.events.windows
  if ws.any (fun w => samePair w.ev e) then
    { s with events := { s.events with windows := ws.map (fun w =>
        if samePair w.ev e then { w with ev := e, count := w.count + 1 } else w) } }
  else
    let s := if ws.length < 512 then
        { s with events := { s.events with windows := ws ++ [{ ev := e, count := 0, opened := s.time }] } }
      else s
    evtWrite s e

/-- Close a window that holds a count: its closing record, and the count of those suppressed (R325). -/
def closeCounted (s : State) (w : Window) : State :=
  let s := evtWrite s { w.ev with time := s.time, suppressed := w.count - 1 }
  addF s F.EVT_SUPPR_CNT (w.count - 1)

/-- Close the window at a position: with a count a closing record and a new window, else the pair is
freed (R325). -/
def closeWindow (s : State) (n : Nat) : State :=
  match s.events.windows[n]? with
  | none => s
  | some w =>
    if w.count = 0 then { s with events := { s.events with windows := s.events.windows.eraseIdx n } }
    else
      let s := closeCounted s w
      { s with events := { s.events with
          windows := s.events.windows.set n { w with count := 0, opened := s.time } } }

/-- Close every window that holds a count, before a FATAL record (R323). -/
def closeAll (s : State) : State :=
  let s' := forEach (s.events.windows.filter (fun w => decide (0 < w.count))) s closeCounted
  { s' with events := { s'.events with windows := [] } }

/-- The halt cause that a fatal event leaves (*Table: GLB_STATUS and GLB_HALT_CAUSE fields*). -/
def haltCauseOf (famCode : Nat) : Nat :=
  match famCode with
  | 0x1001 => 2
  | 0x1006 => 3
  | 0x5004 => 5
  | 0x1005 => 6
  | _ => 0

/-- Enter HALTED with a cause (R295, R323, R352). -/
def enterHalted (s : State) (cause unit : Nat) : State :=
  let s := setF (setF s F.GLB_HALT_CAUSE_CAUSE cause) F.GLB_HALT_CAUSE_UNIT unit
  alert (setF s F.GLB_STATUS_STATE 3) 1

/-- A FATAL event: every window that holds a count closes, the records are written, and HALTED follows (R323).
In HALTED its record is lost. -/
def takeFatal (s : State) (e : Event) : State :=
  if halted s then evtWrite (noteEvent s e) e
  else enterHalted (evtWrite (noteEvent (evtFlush (closeAll s)) e) e) (haltCauseOf e.famCode) e.data

/-- An event reaches the event unit; one raised before READY counts as lost (R324). -/
def takeEvent (s : State) (e : Event) : State :=
  if e.sev = sevFatal then takeFatal s e
  else
    let s := noteEvent (evtFlush s) e
    if devState s == 0 then evtLose s
    else if e.sev < getF s F.EVT_CFG_MIN_SEV then s
    else limitEvent s e

/-- Every waiting event reaches the event unit, in order. -/
def takeAll (s : State) : State :=
  let l := s.events.waiting
  forEach l { s with events := { s.events with waiting := [] } } takeEvent

/-- The node of the control network from which an event is notified: for all that stands at a cluster site
(its cores with their lanes, rows and columns, its memory columns, its router, update unit, cell and die
sensors) that site; each other source is a node of its own (log entry 70). -/
def eventNode (e : Event) : Nat × Nat :=
  let i := e.srcIndex
  match e.srcKind with
  | 1 | 6 | 10 => (1, i)
  | 2 | 3 | 5 | 7 | 8 | 9 => (1, i / 17)
  | 13 => if i < 72 then (1, i) else (13, i)
  | 0x21 => if i < 144 then (1, i / 2) else (0x21, i)
  | k => (k, i)

/-- An event that stands before another is notified before it: every one before a FATAL event, and those of
the same node, whose messages arrive in the order sent (R216, R323). -/
def notifiedBefore (e x : Event) : Bool := e.sev == sevFatal || eventNode x == eventNode e

/-- The `n`-th waiting event reaches the event unit, after those that must come before it. -/
def recordNth (s : State) (n : Nat) : State :=
  match s.events.waiting[n]? with
  | none => s
  | some e =>
    let before := s.events.waiting.take n
    let rest := before.filter (fun x => !notifiedBefore e x) ++ s.events.waiting.drop (n + 1)
    let s := { s with events := { s.events with waiting := rest } }
    takeEvent (forEach (before.filter (notifiedBefore e)) s takeEvent) e

/-- An event reaches the event unit within 5 µs of its detection, so that no record's TIME precedes that of
an earlier one by more (R322). -/
def lateEvents (s : State) : State :=
  let late (e : Event) : Bool := decide (e.time + 5000 ≤ s.time)
  let l := s.events.waiting
  if l.any late then
    powered s (fun s => forEach (l.filter late) { s with events := { s.events with waiting := l.filter (!late ·) } } takeEvent)
  else s

end Sys2Proof.Machine
end

