-- ==== Sys2Proof/Machine/Clock.lean ====
section
/-! DEFINITION. The device clock: what one nanosecond without a command does (log entry 1). -/

namespace Sys2Proof.Machine

/-- The head of a queue is held by its wait condition alone (R31). -/
def heldByWait (s : State) (q : Nat) : Bool :=
  match headOf s q with
  | some f => (rejectCode s q f).isNone && condsButWait s q f && !waitMet s q f.cmd
  | none => false

/-- Keep the time since which the head of a queue has been held by its wait condition alone. -/
def watchHead (s : State) (q : Nat) : State :=
  let k := getQueue s q
  if heldByWait s q then
    (match k.waitSince with
     | some _ => s
     | none => setQueue s q { k with waitSince := some s.time })
  else if feStopped s (engineOf s q) then
    (match k.waitSince with
     | some t => setQueue s q { k with waitSince := some (t + 1) }
     | none => s)
  else if k.waitSince.isSome then setQueue s q { k with waitSince := none } else s

/-- One nanosecond of device time (R3, R31, R339: a stopped front end does not measure its waits; R369), at
whose end the events detected 5 µs ago have reached the event unit (R322). -/
def tick (s : State) : State :=
  lateEvents (forEach (List.range 5) (forEach (s.queues.map (·.1)) { s with time := s.time + 1 } watchHead) endTurn)

end Sys2Proof.Machine
end

