-- ==== Sys2Proof/Machine/PageOps.lean ====
section
/-! DEFINITION. The page engine's operations: pools, page-table slots, page counts, summaries, the prefix
tree and migration (R91 to R112). -/

namespace Sys2Proof.Machine

/-! ## Layout (R91) -/

def Seq.d (e : Seq) : Nat := 64 * (e.hdim + 1)
def Seq.recBytes (e : Seq) : Nat := kvRecord e.kvfmt e.d
def Seq.nblk (e : Seq) : Nat := ceilDiv e.maxTokens e.p
/-- Page index of layer, head and block. -/
def Seq.idx (e : Seq) (l h b : Nat) : Nat := (l * e.heads + h) * e.nblk + b
def Seq.va (e : Seq) (i : Nat) : Nat := e.base + i * 2 ^ e.pageLog2
/-- Number of pages of the range. -/
def Seq.pageCount (e : Seq) : Nat := e.layers * e.heads * e.nblk
/-- The block of a page index. -/
def Seq.block (e : Seq) (i : Nat) : Nat := i % e.nblk
/-- A full page: every position of it lies below POS (R98). -/
def Seq.full (e : Seq) (pos b : Nat) : Bool := (b + 1) * e.p ≤ pos
/-- The layout word (R101). -/
def Seq.layoutWord (e : Seq) : Nat :=
  e.kvfmt + e.heads * 2 ^ 3 + e.layers * 2 ^ 10 + e.hdim * 2 ^ 18 + e.pageLog2 * 2 ^ 20

def getSeq (s : State) (n : Nat) : Option Seq := slook s.seqs n

/-! ## Pools (R93, R94) -/

/-- A grant covers a bank of a column of a pool. -/
def grantHas (g : Grant) (p l col bank : Nat) : Bool :=
  g.part == p && g.layer == l && decide (g.colLo ≤ col) && decide (col ≤ g.colHi) && g.banks.getLsbD bank

/-- Pages of a grant within one bank. -/
def grantPer (g : Grant) : Nat := (g.hi - g.lo) * 2048 / 2 ^ g.log2

/-- The column-local DPA of page `i` of a grant in a bank. -/
def grantPage (g : Grant) (col bank i : Nat) : Nat :=
  col * 2 ^ 27 + g.layer * 2 ^ 24 + bank * 2 ^ 22 + g.lo * 2048 + i * 2 ^ g.log2

/-- The granted page that holds a column-local DPA: its grant and its base. -/
def pageOfDpa (s : State) (a : Nat) : Option (Grant × Nat) :=
  (s.grants.find? (fun g => grantHas g g.part (dpaLayer a) (dpaCol a) (dpaBank a) &&
    decide (g.lo * 2048 ≤ dpaByte a) && decide (dpaByte a < g.hi * 2048))).map
    (fun g => (g, a / 2 ^ g.log2 * 2 ^ g.log2))

/-- The use of a page, by its base; none for a free page. -/
def pageUse (s : State) (page : Nat) : Option PageUse := slook s.pages (page / 2 ^ 14)

def setUse (s : State) (page : Nat) (u : PageUse) : State :=
  { s with pages := sins s.pages (page / 2 ^ 14) u }

/-- The count of a page. -/
def pageRefs (s : State) (page : Nat) : Nat := ((pageUse s page).map (·.refs)).getD 0

/-- The lowest free page of a pool in one bank of one column. -/
def freeInBank (s : State) (p l col bank : Nat) : Option Nat :=
  ((s.grants.filter (fun g => grantHas g p l col bank)).filterMap (fun g =>
    (List.range (grantPer g)).findSome? (fun i =>
      let a := grantPage g col bank i
      if (pageUse s a).isNone then some a else none))).min?

/-- The next free page of a pool, in round-robin column order after its last allocation (R94). -/
def nextFree (s : State) (p l : Nat) : Option Nat :=
  let start := match slook s.poolLast (p * 8 + l) with | some c => c + 1 | none => 0
  (List.range 1024).findSome? (fun i =>
    [0, 1, 2, 3].findSome? (freeInBank s p l ((start + i) % 1024)))

/-- Banks that a grant names. -/
def grantBanks (g : Grant) : Nat := ((List.range 4).filter (fun b => g.banks.getLsbD b)).length

/-- Free pages of a pool (*Table: MMU register list*). -/
def poolFree (s : State) (p l : Nat) : Nat :=
  let total := ((s.grants.filter (fun g => g.part == p && g.layer == l)).map (fun g =>
    (g.colHi + 1 - g.colLo) * grantBanks g * grantPer g)).sum
  total - (s.pages.filter (fun u => match pageOfDpa s (u.1 * 2 ^ 14) with
    | some (g, _) => g.part == p && g.layer == l | none => false)).length

/-- A logical layer that the capo flags hot. -/
def layerHot (s : State) (l : Nat) : Bool := (getF s F.MMU_LAYER_HOT).testBit l

/-- Of the layers listed, the one with the most free pages, the lowest on a tie; none when all are empty. -/
def mostFree (s : State) (p : Nat) (ls : List Nat) : Option Nat :=
  (ls.foldl (fun (acc : Option (Nat × Nat)) l =>
    let n := poolFree s p l
    if n = 0 then acc
    else match acc with
      | none => some (l, n)
      | some (_, m) => if m < n then some (l, n) else acc) none).map (·.1)

/-- The layer that R94 allocates from. -/
def poolLayer (s : State) (p : Nat) : Option Nat :=
  match mostFree s p ((List.range 8).filter (fun l => !layerHot s l)) with
  | some l => some l
  | none => mostFree s p ((List.range 8).filter (layerHot s))

/-- Take a page from a pool: its count is 1. -/
def takeFrom (s : State) (p l : Nat) : Option (State × Nat) :=
  (nextFree s p l).map (fun a =>
    let s := setUse s a { PageUse.zero with refs := 1 }
    (countOp { s with poolLast := sins s.poolLast (p * 8 + l) (dpaCol a) } p 26 1, a))

/-- Take a page under R94. -/
def takePage (s : State) (p : Nat) : Option (State × Nat) :=
  (poolLayer s p).bind (fun l => takeFrom s p l)

/-- Take `n` pages by a chooser, all or none (R95). -/
def takeMany (f : State → Option (State × Nat)) : Nat → State → Option (State × List Nat)
  | 0, s => some (s, [])
  | n + 1, s =>
    match f s with
    | none => none
    | some (s, a) => (takeMany f n s).map (fun r => (r.1, a :: r.2))

/-! ## Page counts (R99, R106, R110) -/

/-- A page gains a mapping or a node. -/
def share (s : State) (page : Nat) : State :=
  match pageUse s page with
  | some u => setUse s page { u with refs := u.refs + 1 }
  | none => s

/-- A page leaves a mapping or a node: it may return once the commands now open have completed (R110). -/
def unshare (s : State) (page : Nat) : State :=
  match pageUse s page with
  | some u => setUse s page { u with refs := u.refs - 1, returning := some (s.open_.map (fun o => (o.q, o.abs))) }
  | none => s

/-- A page may return to its pool: its count is 0 and every command dispatched before it left its mapping
has completed (R110). -/
def mayReturn (s : State) (u : PageUse) : Bool :=
  u.refs == 0 && !u.quarantined &&
    (match u.returning with
     | some l => s.open_.all (fun o => !l.contains (o.q, o.abs))
     | none => false)

/-- A page is withheld from its pool until a device warm reset (R112). -/
def quarantine (s : State) (page : Nat) : State :=
  incF (setUse s page { refs := 0, withhold := true, quarantined := true, returning := none }) F.MMU_QUAR_CNT

/-! ## Page-table slots (R85, R95, R96) -/

/-- The tables above the level that holds a page's slot. -/
def slotLevels (z : Nat) : List Nat := if z < 22 then [3, 2, 1] else [3, 2]

/-- Descend through TABLE entries. -/
def descend (s : State) (t va : Nat) : List Nat → State × Except XFault Nat
  | [] => (s, if dpaValid t then .ok t else .error .badEntry)
  | lvl :: rest =>
    match readPte s (t + 8 * bits va (21 + 10 * lvl) (12 + 10 * lvl)) with
    | (s, .error f) => (s, .error f)
    | (s, .ok e) =>
      if pteType e = 0 then (s, .error .notMapped)
      else if pteType e = 1 ∧ pteReserved e = false then descend s (pteNext e) va rest
      else (s, .error .badEntry)

/-- The DPA of the head slot of the page of size 2^z at an address. -/
def slotAt (s : State) (ctx va z : Nat) : State × Except XFault Nat :=
  if getB s (F.MMU_CTX_VALID ctx) then
    match descend s (getF s (F.MMU_CTX_ROOT ctx) * 2 ^ 13) va (slotLevels z) with
    | (s, .ok t) => (s, .ok (t + 8 * (if z < 22 then bits va 21 12 else bits va 31 22)))
    | (s, .error f) => (s, .error f)
  else (s, .error .ctxInvalid)

/-- A slot with the page it maps, if any. -/
structure SlotInfo where
  slot : Nat
  page : Option Nat
  deriving DecidableEq, Repr

/-- The slot of a page index of a sequence, and the page it maps. An entry that is no KV leaf of the page
size maps no page: the page engine writes its own leaf over it (log entry 45). -/
def slotOf (s : State) (e : Seq) (i : Nat) : State × Except XFault SlotInfo :=
  match slotAt s e.ctx (e.va i) e.pageLog2 with
  | (s, .error f) => (s, .error f)
  | (s, .ok a) =>
    match readPte s a with
    | (s, .error f) => (s, .error f)
    | (s, .ok v) =>
      if pteType v = 2 ∧ pteReserved v = false ∧ pteSize v + 12 = e.pageLog2 ∧ bits v 4 4 = 1 ∧
          leafOk (if e.pageLog2 < 22 then 0 else 1) v = true then
        (s, .ok { slot := a, page := some (pteFrame v) })
      else (s, .ok { slot := a, page := none })

/-- The entries that a descent reads, down to the slot. -/
def descendReads (s : State) (t va z : Nat) : List Nat → List Nat
  | [] => [t + 8 * (if z < 22 then bits va 21 12 else bits va 31 22)]
  | lvl :: rest =>
    let a := t + 8 * bits va (21 + 10 * lvl) (12 + 10 * lvl)
    a :: (match (readPte s a).2 with
      | .ok e => if pteType e = 1 ∧ pteReserved e = false then descendReads s (pteNext e) va z rest else []
      | .error _ => [])

/-- Count what the page engine reads to find the slot of an index (R329). -/
def countSlot (s : State) (e : Seq) (i : Nat) : State :=
  if getB s (F.MMU_CTX_VALID e.ctx) then
    forEach ((descendReads s (getF s (F.MMU_CTX_ROOT e.ctx) * 2 ^ 13) (e.va i) e.pageLog2
      (slotLevels e.pageLog2)).filter dpaValid) s (fun s a => countUp s e.part (toLocal a))
  else s

/-- The slots of several page indices, ascending, up to the first failure, which names its address. DESIGN CHOICE (log
entry 116): a table that is missing fails every page command that needs the slot, as R99 says of APPEND. -/
def slotsOf (s : State) (e : Seq) : List Nat → State × Except (XFault × Nat) (List (Nat × SlotInfo))
  | [] => (s, .ok [])
  | i :: rest =>
    match slotOf (countSlot s e i) e i with
    | (s, .error f) => (s, .error (f, e.va i))
    | (s, .ok x) =>
      match slotsOf s e rest with
      | (s, .error f) => (s, .error f)
      | (s, .ok l) => (s, .ok ((i, x) :: l))

/-- The leaf of a page (R96). -/
def kvLeaf (page z : Nat) : Nat := 2 + 4 + 16 + (z - 12) * 64 + page

/-- Entries of a page's span: its head and its span entries. -/
def spanLen (z : Nat) : Nat := if z < 22 then 2 ^ (z - 12) else 1

/-- Write the entries of a page's span: the head first. -/
def putSpan (s : State) (e : Seq) (slot head other : Nat) : State :=
  (List.range (spanLen e.pageLog2)).foldl (fun s i =>
    (writeCounted s e.part (toLocal (slot + 8 * i)) (BitVec.ofNat 64 (if i = 0 then head else other)) 0xFF false).1) s

/-- Drop the cached translations of a page of a sequence (R89). -/
def dropPage (s : State) (e : Seq) (i : Nat) : State :=
  invalidate s { ctx := e.ctx, all := false, va := e.va i, len := 2 ^ e.pageLog2 }

/-- Map a page at an index of a sequence. -/
def mapPage (s : State) (e : Seq) (i slot page : Nat) : State :=
  dropPage (putSpan s e slot (kvLeaf page e.pageLog2) (3 + 4 * (e.pageLog2 - 12))) e i

/-- Unmap an index of a sequence. -/
def unmapPage (s : State) (e : Seq) (i slot : Nat) : State := dropPage (putSpan s e slot 0 0) e i

/-- The result of an access of the page engine whose translation fails (R90). -/
def pageFault (s : State) (f : XFault × Nat) : State × Result :=
  (if f.1 = .fenced then s else incF s F.MMU_FAULT_CNT, xResult f.1 f.2)

/-! ## Translating a range without touching it (R95) -/

/-- The address of each 4 KiB piece of a range. -/
def pieces (va n : Nat) : List Nat :=
  if n = 0 then [] else
    (List.range ((va + n - 1) / 4096 + 1 - va / 4096)).map (fun i => max va ((va / 4096 + i) * 4096))

/-- The first failure of the translation of a range. -/
def checkRange (s : State) (ctx va n : Nat) (a : Access) : State × Option Result :=
  (pieces va n).foldl (fun acc v =>
    match acc.2 with
    | some _ => acc
    | none =>
      match translate acc.1 ctx v a with
      | (s, .error f) => (s, some (xResult f v))
      | (s, .ok dpa) => (s, if colGone s (dpaCol dpa) then some (xResult .fenced v) else none)) (s, none)

/-! ## Page contents -/

/-- Write every word of a page with zero (R94). -/
def zeroPage (s : State) (e : Seq) (page : Nat) : State :=
  (List.range (2 ^ e.pageLog2 / 8)).foldl (fun s i => (writeCounted s e.part (page + 8 * i) 0 0xFF false).1) s

/-- Bytes read at a column-local DPA, with whether a word of them is poisoned; none where the column
touches nothing. -/
def dpaBytes (s : State) (part a n : Nat) : State × Option (List Byte × Bool) :=
  let r := (wordAddrs a n).foldl (fun (acc : State × Option (List Byte × Bool)) w =>
    match acc.2 with
    | none => acc
    | some (bs, p) =>
      match readCounted acc.1 part w with
      | (s, none) => (s, none)
      | (s, some x) => (s, some (bs ++ bytesOf 8 x.data.toNat, p || x.poison))) (s, some ([], false))
  (r.1, r.2.map (fun x => ((x.1.drop (a % 8)).take n, x.2)))

/-- Write bytes at a column-local DPA; the first failure. -/
def dpaWrite (s : State) (part a : Nat) (bs : List Byte) : State × Option Result :=
  (wordAddrs a bs.length).foldl (fun acc w =>
    let dm := wordOfBytes a bs w
    let r := writeCounted acc.1 part w dm.1 dm.2 false
    (r.1, match acc.2 with | none => wroteResult (.done r.2) | some x => some x)) (s, none)

/-- Copy the first `n` bytes of a page to another page, poisoned words staying poisoned; whether any was. -/
def copyPage (s : State) (part src dst n : Nat) : State × Bool :=
  (wordAddrs src n).foldl (fun acc w =>
    match readCounted acc.1 part w with
    | (s, none) => (s, acc.2)
    | (s, some x) =>
      let k := min 8 (src + n - w)
      let r := writeCounted s part (dst + (w - src)) x.data (BitVec.ofNat 8 (2 ^ k - 1)) x.poison
      (r.1, acc.2 || x.poison)) (s, false)

/-! ## Summaries (R107) -/

/-- Bytes of one summary. -/
def sumBytes (e : Seq) : Nat := 4 * e.d

/-- The keys of every record of a page, from the page's bytes. -/
def pageKeys (e : Seq) (bs : List Byte) : List (List FVal) :=
  (List.range e.p).map (fun r => kvValues e.kvfmt e.d (bs.drop (r * e.recBytes)))

/-- The minimum or maximum of each dimension, as BF16 rounded outwards. -/
def dimBounds (up : Bool) (d : Nat) (keys : List (List FVal)) : List Byte :=
  (List.range d).flatMap (fun i =>
    let col := keys.map (fun k => k.getD i .nan)
    bytesOf 2 (fdirected fmtBF16 up (col.tail.foldl (exMinMax up) (col.headD .nan))))

/-- Write the summary of a page (R107): poison of the page's keys travels with the values. -/
def writeSummary (s : State) (e : Seq) (i page : Nat) : State × Option Result :=
  match dpaBytes s e.part page (e.p * e.recBytes) with
  | (s, none) => (s, some { status := stFenced, sub := 0, detail := 0 })
  | (s, some (bs, poison)) =>
    let keys := pageKeys e bs
    vwriteBytes s e.ctx (e.sumVa + i * sumBytes e) (dimBounds false e.d keys ++ dimBounds true e.d keys) poison

/-- The page indices that are full at `pos` and were not at `old`. -/
def newlyFull (e : Seq) (old pos : Nat) : List Nat :=
  (List.range e.pageCount).filter (fun i => e.full pos (e.block i) && !e.full old (e.block i))

/-- Whether a word of a summary could not be written clean: its layer takes no writes (R82), or it would merge
with a poisoned or uncorrectable word (R65). DESIGN CHOICE (log entry 111): the page engine finds that out before it
changes anything, so that ST_UE leaves nothing changed (R95). -/
def summaryBad (s : State) (e : Seq) (i : Nat) : Bool :=
  let va := e.sumVa + i * sumBytes e
  (wordAddrs va (sumBytes e)).any (fun w =>
    match (translate s e.ctx (firstByte va w) .write).2 with
    | .ok d => deadWrite s (d / 8 * 8) || (maskIn va (sumBytes e) w != 0xFF &&
        (match (readWord s (d / 8 * 8)).2 with | some x => x.poison | none => false))
    | .error _ => false)

/-- Check the summaries of page indices: their addresses (R95), then what stands there. -/
def checkSummaries (s : State) (e : Seq) (is : List Nat) : State × Option Result :=
  let r := is.foldl (fun acc i =>
    match acc.2 with
    | some _ => acc
    | none => checkRange acc.1 e.ctx (e.sumVa + i * sumBytes e) (sumBytes e) .write) (s, none)
  (r.1, r.2.or (if is.any (summaryBad r.1 e) then some { status := stUe, sub := 0, detail := 0 } else none))

/-- Write the summaries of mapped pages among page indices; the first failure. -/
def writeSummaries (s : State) (e : Seq) (is : List Nat) : State × Option Result :=
  is.foldl (fun acc i =>
    match slotOf acc.1 e i with
    | (s, .ok { slot := _, page := some page }) =>
      let r := writeSummary s e i page
      (r.1, match acc.2 with | none => r.2 | some x => some x)
    | (s, _) => (s, acc.2)) (s, none)

/-- POS moves: the sequence entry, and the summaries of the pages that become full (R107). -/
def setPos (s : State) (n : Nat) (e : Seq) (pos : Nat) : State × Option Result :=
  let s := { s with seqs := sins s.seqs n { e with pos := pos } }
  if e.sumEn then writeSummaries s e (newlyFull e e.pos pos) else (s, none)

/-! ## The prefix tree (R101 to R106) -/

/-- One SipHash round on (v0, v1, v2, v3). -/
def sipRound (v : DWord × DWord × DWord × DWord) : DWord × DWord × DWord × DWord :=
  let (v0, v1, v2, v3) := v
  let v0 := v0 + v1
  let v1 := v1.rotateLeft 13 ^^^ v0
  let v0 := v0.rotateLeft 32
  let v2 := v2 + v3
  let v3 := v3.rotateLeft 16 ^^^ v2
  let v0 := v0 + v3
  let v3 := v3.rotateLeft 21 ^^^ v0
  let v2 := v2 + v1
  let v1 := v1.rotateLeft 17 ^^^ v2
  let v2 := v2.rotateLeft 32
  (v0, v1, v2, v3)

/-- Take one message word in: two rounds. -/
def sipWord (v : DWord × DWord × DWord × DWord) (m : DWord) : DWord × DWord × DWord × DWord :=
  let (v0, v1, v2, v3) := sipRound (sipRound (v.1, v.2.1, v.2.2.1, v.2.2.2 ^^^ m))
  (v0 ^^^ m, v1, v2, v3)

/-- The words of a message: whole little-endian words, then the last bytes with the length above. -/
def sipWords (msg : List Byte) : List DWord :=
  let n := msg.length
  (List.range (n / 8)).map (fun i => BitVec.ofNat 64 (natOf ((msg.drop (8 * i)).take 8))) ++
    [BitVec.ofNat 64 (natOf (msg.drop (n / 8 * 8)) + n % 256 * 2 ^ 56)]

/-- SipHash-2-4 of a message under a 128-bit key (R101). -/
def sipHash (key : Nat) (msg : List Byte) : DWord :=
  let k0 : DWord := BitVec.ofNat 64 key
  let k1 : DWord := BitVec.ofNat 64 (key / 2 ^ 64)
  let v := (k0 ^^^ 0x736f6d6570736575#64, k1 ^^^ 0x646f72616e646f6d#64,
            k0 ^^^ 0x6c7967656e657261#64, k1 ^^^ 0x7465646279746573#64)
  let v := (sipWords msg).foldl sipWord v
  let v := sipRound (sipRound (sipRound (sipRound (v.1, v.2.1, v.2.2.1 ^^^ 0xFF#64, v.2.2.2))))
  v.1 ^^^ v.2.1 ^^^ v.2.2.1 ^^^ v.2.2.2

/-- The hash of a block after its parent's (R101). -/
def blockHash (s : State) (e : Seq) (prev : DWord) (tokens : List Byte) : DWord :=
  sipHash (getF s (F.MMU_DOMAIN_KEY_KEY e.domain)) (bytesOf 8 prev.toNat ++ bytesOf 4 e.layoutWord ++ tokens)

/-- The hashes of blocks in order, block 0 first; `toks` holds their token IDs. -/
def blockHashes (s : State) (e : Seq) (toks : List Byte) : Nat → DWord → List DWord
  | 0, _ => []
  | n + 1, prev =>
    let h := blockHash s e prev (toks.take (4 * e.p))
    h :: blockHashes s e (toks.drop (4 * e.p)) n h

def treeSize (s : State) : Nat := 2 ^ getF s F.MMU_TREE_CFG_LOG2

/-- The eight buckets that a hash probes. -/
def probes (s : State) (h : DWord) : List Nat :=
  (List.range 8).map (fun i => (h.toNat % treeSize s + i) % treeSize s)

/-- The node that matches a block (R102). -/
def findNode (s : State) (e : Seq) (h : DWord) (parent : Option Nat) : Option Nat :=
  (probes s h).find? (fun b => match slook s.nodes b with
    | some n => n.hash == h && n.parent == parent && n.layout == e.layoutWord && n.domain == e.domain
    | none => false)

/-- Vector slots of a node, in 64-byte units. -/
def vecLen (pages : Nat) : Nat := ceilDiv (4 * pages) 64

/-- 64-byte units of the page-vector area: what the fixed parts and the node table leave. -/
def vecArea (s : State) : Nat :=
  (getF s F.MMU_PE_SIZE_MIB * 2 ^ 20 - 21 * 2 ^ 20 - 64 * treeSize s) / 64

/-- The lowest free vector slot for a number of pages. -/
def freeVec (s : State) (pages : Nat) : Option Nat :=
  let len := vecLen pages
  let used := s.nodes.map (fun n => (n.2.vec, vecLen n.2.pages.length))
  let fits (v : Nat) : Bool :=
    decide (v + len ≤ vecArea s) && used.all (fun u => decide (v + len ≤ u.1) || decide (u.1 + u.2 ≤ v))
  ((0 :: used.map (fun u => u.1 + u.2)).filter fits).min?

/-- Add to the REFS of a node. -/
def nodeRef (s : State) (b : Nat) : State :=
  match slook s.nodes b with
  | some n => { s with nodes := sins s.nodes b { n with refs := n.refs + 1 } }
  | none => s

/-- Subtract 1 from the REFS of a node; at 0 it is removed, and its parent loses a reference (R105). -/
def nodeUnref (s : State) (b : Option Nat) : Nat → State
  | 0 => s
  | fuel + 1 =>
    match b with
    | none => s
    | some b =>
      match slook s.nodes b with
      | none => s
      | some n =>
        if n.refs ≤ 1 then
          let s := forEach n.pages { s with nodes := sdel s.nodes b } unshare
          nodeUnref s n.parent fuel
        else { s with nodes := sins s.nodes b { n with refs := n.refs - 1 } }

/-- Subtract 1 from the REFS of a node, and of its ancestors as they go: as many steps as there are
nodes. -/
def dropRef (s : State) (b : Option Nat) : State := nodeUnref s b (s.nodes.length + 1)

/-- The sequence takes a node, or none: the new reference first, then the old one goes (R105). -/
def setNode (s : State) (n : Nat) (e : Seq) (node : Option Nat) : State :=
  let s := match node with | some b => nodeRef s b | none => s
  dropRef { s with seqs := sins s.seqs n { e with node := node } } e.node

/-- The ancestor of a node at a depth. -/
def ancestor (s : State) (depth : Nat) : Nat → Nat → Option Nat
  | 0, _ => none
  | fuel + 1, b =>
    match slook s.nodes b with
    | none => none
    | some n => if n.depth = depth then some b else match n.parent with
      | some p => ancestor s depth fuel p
      | none => none

/-! ## The page-engine region -/

/-- The 64 bytes of a sequence table entry (*Table: Sequence table entry (64 bytes)*). LIMIT is 52 bits wide: 2^52
reads 0 (log entry 105). -/
def Seq.bits (e : Seq) : Nat :=
  e.base + e.ctx * 2 ^ 52 + e.limit % 2 ^ 52 * 2 ^ 64 + e.sumVa * 2 ^ 128 + e.pos * 2 ^ 192 + e.maxTokens * 2 ^ 224 +
    (e.kvfmt + e.sumEn.toNat * 8 + 16) * 2 ^ 256 + e.heads * 2 ^ 264 + e.layers * 2 ^ 272 +
    e.hdim * 2 ^ 280 + e.p * 2 ^ 288 + e.pageLog2 * 2 ^ 304 + e.part * 2 ^ 312 +
    e.domain * 2 ^ 320 + e.node.isSome.toNat * 2 ^ 328 + e.node.getD 0 * 2 ^ 352

/-- The 64 bytes of a node (*Table: Prefix node (64 bytes)*, R101). -/
def Node.bits (n : Node) : Nat :=
  n.hash.toNat + n.parent.getD 0xFFFFFFFF * 2 ^ 64 + n.vec * 2 ^ 96 + n.layout * 2 ^ 128 + n.refs * 2 ^ 160 +
    (n.domain + 64 + n.hold.toNat * 128) * 2 ^ 192 + n.depth * 2 ^ 224

/-- The first words of a number. -/
def words64 (n v : Nat) : List Nat := (List.range n).map (fun i => v / 2 ^ (64 * i) % 2 ^ 64)

/-- The words of a page vector: DPA[36:14] of each page, 32 bits each (R101). -/
def vecWords (pages : List Nat) : List Nat :=
  (List.range (ceilDiv pages.length 2)).map (fun i =>
    pages.getD (2 * i) 0 / 2 ^ 14 + pages.getD (2 * i + 1) 0 / 2 ^ 14 * 2 ^ 32)

/-- The keys whose entries two tables do not share. -/
def changedKeys {α : Type} [DecidableEq α] (old new : Sparse α) : List Nat :=
  if old = new then []
  else (new.filter (fun p => slook old p.1 != some p.2)).map (·.1) ++
    (old.filter (fun p => (slook new p.1).isNone)).map (·.1)

/-- Where the parts of the region begin. -/
def peBase (s : State) : Nat := getF s F.MMU_PE_BASE_DPA
def seqAddr (s : State) (n : Nat) : Nat := peBase s + 64 * n
def refsAddr (s : State) (w : Nat) : Nat := peBase s + 4 * 2 ^ 20 + 8 * w
def freeAddr (s : State) (w : Nat) : Nat := peBase s + 20 * 2 ^ 20 + 8 * w
def nodeAddr (s : State) (b : Nat) : Nat := peBase s + 21 * 2 ^ 20 + 64 * b
def pageVecAddr (s : State) (v : Nat) : Nat := peBase s + 21 * 2 ^ 20 + 64 * treeSize s + 64 * v

/-- A sequence entry as it stands; 0 when it is free (R99). -/
def putSeqEntry (s : State) (part n : Nat) : State :=
  regionPut s part (seqAddr s n) (words64 8 (match getSeq s n with | some e => e.bits | none => 0))

/-- A node with its page vector; 64 bytes of 0 when it is gone. -/
def putNodeEntry (s : State) (part b : Nat) : State :=
  match slook s.nodes b with
  | none => regionPut s part (nodeAddr s b) (words64 8 0)
  | some n => regionPut (regionPut s part (nodeAddr s b) (words64 8 n.bits)) part (pageVecAddr s n.vec) (vecWords n.pages)

/-- A word of the reference-count table: four counts of 16 bits. -/
def putRefsWord (s : State) (part w : Nat) : State :=
  regionPut s part (refsAddr s w)
    [((List.range 4).map (fun i => ((slook s.pages (4 * w + i)).map (·.refs)).getD 0 % 2 ^ 16 * 2 ^ (16 * i))).sum]

/-- A 16 KiB unit of the column-local window lies in a free page of a pool. -/
def unitFree (s : State) (u : Nat) : Bool :=
  match pageOfDpa s (u * 2 ^ 14) with
  | some (_, page) => (pageUse s page).isNone
  | none => false

/-- A word of the free bitmap. -/
def putFreeWord (s : State) (part w : Nat) : State :=
  regionPut s part (freeAddr s w) [((List.range 64).map (fun i => (unitFree s (64 * w + i)).toNat * 2 ^ i)).sum]

/-- The bitmap words of a page of a pool, by DPA[36:14]. -/
def pageWords (s : State) (n : Nat) : List Nat :=
  match pageOfDpa s (n * 2 ^ 14) with
  | some (g, _) => (List.range (ceilDiv (2 ^ g.log2 / 2 ^ 14) 64)).map (fun i => n / 64 + i)
  | none => [n / 64]

/-- The bitmap words of a grant. -/
def grantWords (g : Grant) : List Nat :=
  (List.range (g.colHi + 1 - g.colLo)).flatMap (fun c =>
    ((List.range 4).filter (fun b => g.banks.getLsbD b)).flatMap (fun b =>
      (List.range 4).map (fun i => grantPage { g with lo := 0 } (g.colLo + c) b 0 / 2 ^ 20 + i)))

/-- The page engine holds its tables and writes what changed in them through to its region (R91, R101; log entry
106). -/
def tablesOut (old s : State) (part : Nat) : State :=
  if getB s F.MMU_POOL_STATUS_PE_OFF then s
  else
    let uses := changedKeys old.pages s.pages
    let s := forEach (changedKeys old.seqs s.seqs) s (fun s n => putSeqEntry s part n)
    let s := forEach (changedKeys old.nodes s.nodes) s (fun s b => putNodeEntry s part b)
    let s := forEach (uses.map (· / 4)).eraseDups s (fun s w => putRefsWord s part w)
    let free := uses.flatMap (pageWords s) ++ (s.grants.drop old.grants.length).flatMap grantWords
    forEach free.eraseDups s (fun s w => putFreeWord s part w)

/-! ## Migration (R109) -/

/-- Move the page of an index to a new page: copy, rewrite the head leaf, invalidate, release the old. -/
def movePage (s : State) (e : Seq) (i slot old new : Nat) : State :=
  let s := (copyPage s e.part old new (2 ^ e.pageLog2)).1
  let s := dropPage (writeCounted s e.part (toLocal slot) (BitVec.ofNat 64 (kvLeaf new e.pageLog2)) 0xFF false).1 e i
  unshare s old

/-- The page of an index that migration may move: full, with a count of 1. -/
def movable (s : State) (e : Seq) (i : Nat) (x : SlotInfo) : Option Nat :=
  match x.page with
  | some p => if e.full e.pos (e.block i) && pageRefs s p == 1 then some p else none
  | none => none

/-- The sequence and index that map a page. -/
def mappingOf (s : State) (page : Nat) : Option (Nat × Nat) :=
  s.seqs.findSome? (fun q => ((List.range q.2.pageCount).find? (fun i =>
    match (slotOf s q.2 i).2 with
    | .ok x => x.page == some page
    | .error _ => false)).map (fun i => (q.1, i)))

/-- Move a page within one logical layer (R112). -/
def moveWithin (s : State) (page : Nat) : Option State :=
  match mappingOf s page with
  | none => none
  | some (n, i) =>
    match getSeq s n with
    | none => none
    | some e =>
      match slotOf (countSlot s e i) e i with
      | (_, .error _) => none
      | (s, .ok x) =>
        if movable s e i x = some page then
          (takeFrom s e.part (dpaLayer page)).map (fun r => movePage r.1 e i x.slot page r.2)
        else none

/-- Mark a page to be withheld when its count reaches 0. -/
def withholdPage (s : State) (page : Nat) : State :=
  match pageUse s page with
  | some u => setUse s page { u with withhold := true }
  | none => s

/-- What the page engine does about a retired frame (R112): a free page leaves its pool, a full page with
count 1 moves within its layer, any other page is withheld at count 0, and so is the page left behind. -/
def retirePage (s : State) (a : Nat) : State :=
  match pageOfDpa s a with
  | none => s
  | some (g, page) =>
    match pageUse s page with
    | none => tablesOut s (quarantine s page) g.part
    | some _ => tablesOut s (withholdPage ((moveWithin s page).getD s) page) g.part

/-! ## Items at frets (R114, R132) -/

/-- The column-local DPA of the page of an item. -/
def itemDpa (s : State) (a : Attend) (i : AttItem) : Option Nat :=
  match (slotOf s a.entry (a.entry.idx a.layer i.head i.block)).2 with
  | .ok x => x.page
  | .error _ => none

/-- The fret that serves an item: the bank of its page. -/
def fretOf (s : State) (a : Attend) (i : AttItem) : Option Nat := (itemDpa s a i).map (fun p => p / 2 ^ 22)

/-- The logical layers whose frets hold queued items. -/
def fretLayers (s : State) : List Nat :=
  (s.attends.flatMap (fun a => (a.items.filter (fun i => i.issued && !i.served)).filterMap (fretOf s a))).map
    (fun n => dpaLayer (n * 2 ^ 22))

/-- The layers whose limiter holds an item: MEM_LAYER_POWER is set while there is one (R132). -/
def setHold (s : State) (l : List Nat) : State :=
  setReason { s with capo := { s.capo with fretHold := l } } 9 (!l.isEmpty)

/-- A limiter without queued items holds none. -/
def settleHold (s : State) : State :=
  if s.capo.fretHold.isEmpty then s
  else
    let l := fretLayers s
    setHold s (s.capo.fretHold.filter l.contains)

end Sys2Proof.Machine
end

