-- ==== Sys2Proof/Machine/Sleep.lean ====
section
/-! DEFINITION. Sleep states of compute regions and memory layers: known events, the choice of a
state, and wakes (R310 to R315, *Table: Sleep states*). -/

namespace Sys2Proof.Machine

/-- Entry cost and wake latency in ns of a region state: RUN, GATE, IDLE, NAP, OFF. -/
def regionCost (st : Nat) : Nat × Nat :=
  match st with
  | 0 => (0, 0)
  | 1 => (0, 10)
  | 2 => (200, 1000)
  | 3 => (2000, 12000)
  | _ => (10000, 60000)

/-- Entry cost and wake latency in ns of a layer state: ACTIVE, POWER-DOWN, SELF-REFRESH. -/
def layerCost (st : Nat) : Nat × Nat :=
  match st with
  | 0 => (0, 0)
  | 1 => (20, 50)
  | _ => (500, 2000)

/-- The sleep field of scope 0–7 (regions) or 8–16 (layers). -/
def scopeFld (sc : Nat) : Fld := if sc < 8 then regionSleepFld sc else layerSleepFld (sc - 8)

def scopeCost (sc st : Nat) : Nat × Nat := if sc < 8 then regionCost st else layerCost st

/-- The present state of a scope. -/
def scopeState (s : State) (sc : Nat) : Nat := getF s (scopeFld sc)

/-- The clusters of a region. -/
def regionLcs (s : State) (k : Nat) : List Nat :=
  (List.range 64).filter (fun l => match siteOf s l with | some t => regionOf t == k | none => false)

/-- The cores of a region. -/
def regionCores (s : State) (k : Nat) : List Nat := (regionLcs s k).flatMap coresOf

/-- A LAUNCH that names a region. -/
def namesRegion (s : State) (q : Nat) (c : CmdWord) (k : Nat) : Bool :=
  engineOf s q == 0 && cOpcode c == 0x02 &&
    (lcsOf (BitVec.ofNat 64 (cmdField c 32 8))).any (fun l =>
      match siteOf s l with | some t => regionOf t == k | none => false)

/-- An address that a command touches: in a context, or of the device. -/
inductive Touch where
  | va (ctx a : Nat)
  | dpa (a : Nat)
  deriving DecidableEq, Repr

/-- Where the ranges begin that the first segment of a move or update command touches in device memory: FILL
its destination, COPY its source and destination but for host memory, LINK_SEND its source, COLLECTIVE its
source and destination, GROUP_CREATE its member list, UPDATE the first block of every range it reads,
SCHEDULE_SET its points. -/
def firstTouch (s : State) (q : Nat) (c : CmdWord) : List Touch :=
  let va (ctx off : Nat) : Touch := .va (bits (cmdField c ctx 2) 11 0) (cmdField c off 8)
  if engineOf s q = 3 then
    match cOpcode c with
    | 0x30 => (if (cmdField c 60 1).testBit 0 then [] else [va 56 32]) ++
        (if (cmdField c 60 1).testBit 1 then [] else [va 58 40])
    | 0x31 => [if (cmdField c 58 1).testBit 1 then .dpa (cmdField c 32 8) else va 56 32]
    | 0x32 => [va 54 32]
    | 0x33 => [va 56 40, va 56 48]
    | 0x34 => [va 48 40]
    | _ => []
  else if engineOf s q = 4 && cOpcode c == 0x41 then [va 48 40]
  else if engineOf s q = 4 && cOpcode c == 0x40 then
    let g := getGroup s (bits (cmdField c 32 2) 11 0)
    ((copyRanges g g.version).map (·.1) ++ (if grpMaskEn g then [grpMva g] else []) ++ [cmdField c 40 8]).map
      (Touch.va (grpCtx g))
  else []

/-- The physical layer of an address. -/
def touchLayer (s : State) : Touch → Option Nat
  | .va ctx a =>
    (match (walk s ctx a).2 with
     | .ok e => some (getF s (layerFld (dpaLayer (toLocal (leafDpa e a)))))
     | .error _ => none)
  | .dpa a => if dpaValid a then some (getF s (layerFld (dpaLayer (toLocal a)))) else none

/-- A command that names a physical layer: every attend command, and a move or update command whose
first segment touches it. -/
def namesLayer (s : State) (q : Nat) (c : CmdWord) (p : Nat) : Bool :=
  if engineOf s q = 1 then cOpcode c != 0
  else (firstTouch s q c).any (fun t => touchLayer s t == some p)

def namesScope (s : State) (q : Nat) (c : CmdWord) (sc : Nat) : Bool :=
  if sc < 8 then namesRegion s q c sc else namesLayer s q c (sc - 8)

/-- Periods of the drone tasks, in ns (*Table: Drones*): scrub, couplers, links, sensors, regulators,
wear levelling, telemetry. -/
def dronePeriod (s : State) (task : Nat) : Nat :=
  match task with
  | 0 => max 20 (getF s F.MEM_SCRUB_CTRL_PERIOD_MS) * 1000000
  | 1 => 1000000000
  | 2 => 100000000
  | 3 => 10000000000
  | 4 => 1000000000
  | 5 => 1000000000
  | _ => 100000

/-- The known events of a scope (*Choosing a state*). -/
def knownEvents (s : State) (sc : Nat) : List Nat :=
  (s.queues.flatMap (fun p => (p.2.fetched.filter (fun f =>
      cNotBefore f.cmd != 0 && namesScope s p.1 f.cmd sc)).map (fun f => cNotBefore f.cmd))) ++
  ((s.open_.filter (fun o => namesScope s o.q o.cmd sc)).map (fun o => o.tDispatch + o.dur)) ++
  ((s.drones.filter (fun d => d.1 % 128 == sc)).map (fun d => d.2 + dronePeriod s (d.1 / 128)))

/-- The earliest known event. -/
def earliest (s : State) (sc : Nat) : Option Nat := (knownEvents s sc).min?

/-- A core that keeps its region from sleeping deeper than GATE, and one that even forbids GATE. -/
def coreBusy (s : State) (c : Nat) : Bool := (getCore s c).kernel.isSome
def coreRuns (s : State) (c : Nat) : Bool := (getCore s c).kernel.isSome && (getCore s c).wait.isNone

/-- A command that needs the layer is dispatched and still to be served there; an access is whole. -/
def layerBusy (s : State) (p : Nat) : Bool :=
  s.open_.any (fun o => (!o.begun || o.items.isNone) && namesLayer s o.q o.cmd p)

/-- A dispatched LAUNCH is still to start on a cluster of the region. -/
def launchDue (s : State) (k : Nat) : Bool :=
  s.open_.any (fun o => (!o.begun || !o.starts.isEmpty) && namesRegion s o.q o.cmd k)

/-- The deepest state that the limits and the activity of a scope allow (R313, R315). -/
def scopeLimit (s : State) (sc : Nat) : Nat :=
  if sc < 8 then
    let lim := getF s F.CLK_SLEEP_CTRL_REGION_MAX
    let expressHere := (getF s F.CLK_SLEEP_CTRL_EXPRESS_REGIONS).testBit sc ||
      s.open_.any (fun o => o.express && namesRegion s o.q o.cmd sc)
    let lim := if expressHere then min lim 2 else lim
    let cs := regionCores s sc
    if cs.any (coreRuns s) || launchDue s sc then 0 else if cs.any (coreBusy s) then min lim 1 else lim
  else
    let lim := getF s F.CLK_SLEEP_CTRL_MEM_MAX
    let lim := if (List.range 1024).any (fun q => expressQ s q && engineOf s q == 1) then min lim 1 else lim
    if layerBusy s (sc - 8) then 0 else lim

/-- The deepest state within a limit whose entry and wake fit before the earliest event, less 2 µs. -/
def deepest (s : State) (sc : Nat) (lim : Nat) : Nat :=
  ((List.range (lim + 1)).filter (fun st =>
    match earliest s sc with
    | none => true
    | some t => decide ((scopeCost sc st).1 + (scopeCost sc st).2 + 2000 ≤ t - s.time))).foldl max 0

/-! ### Cycles of the region clocks -/

/-- Clock step of a region as its cores see it: 0 while the clocks are gated or stopped. -/
def clockRate (s : State) (k : Nat) : Nat :=
  if getF s (regionSleepFld k) = 0 then getF s (F.CLK_REGION_CUR_STEP k) else 0

/-- A site whose clocks are stretched (R252, R254). -/
def stretched (s : State) (site : Nat) : Bool :=
  let x := sget .zero s.stretch site
  x.droop || x.current || x.vstk

/-- Bring the cycle counts of a region up to now, before anything that changes its rate: a step is
25 MHz, so a nanosecond at step n is n/40 cycles; stretching removes every second pulse. -/
def accrue (s : State) (k : Nat) : State :=
  let c := sget .zero s.regionClk k
  let dt := (s.time - c.since) * clockRate s k
  { s with
    regionClk := sput .zero s.regionClk k { base := c.base + 2 * dt, since := s.time },
    stretch := s.stretch.map (fun p =>
      (p.1, if regionOf p.1 == k && stretched s p.1 then { p.2 with lost := p.2.lost + dt } else p.2)) }

/-- Eightieths of a cycle that a site's clock has made. -/
def siteCycles (s : State) (site : Nat) : Nat :=
  let t := accrue s (regionOf site)
  (sget .zero t.regionClk (regionOf site)).base - (sget .zero t.stretch site).lost

/-- Set the state of a scope, with its trace record. -/
def setScopeState (s : State) (sc st : Nat) : State :=
  let old := scopeState s sc
  let s := if sc < 8 then accrue s sc else s
  let s := if sc < 8 && decide (old < 2) then { s with portWake := sdel s.portWake sc } else s
  if old = st then s else traceSleep (setF s (scopeFld sc) st) sc old st

/-- A layer in reset keeps its arrays in self-refresh until the reset ends (R82). -/
def scopeHeld (s : State) (sc : Nat) : Bool := decide (8 ≤ sc) && s.layerRst == some (sc - 8)

/-- Recompute the state of a scope (R313): an awake scope begins to enter the deepest state that qualifies, and
a sleeping one a deeper state; it learns its wake time, and wakes to the limit when it is deeper (R321). -/
def recompute (s : State) (sc : Nat) : State :=
  let lim := scopeLimit s sc
  let st := scopeState s sc
  let k := getScope s sc
  if k.waking || scopeHeld s sc then s
  else
    let goal := k.entering.filter (fun t => decide (st < t) && decide (t ≤ lim))
    let tgt := deepest s sc lim
    let wakeBy (n : Nat) : Option Nat := (earliest s sc).map (fun t => t - (scopeCost sc n).2)
    if goal.getD st < tgt then
      if (scopeCost sc tgt).1 = 0 then
        setScope (setScopeState s sc tgt) sc { entering := none, waking := false, wakeAt := wakeBy tgt }
      else setScope s sc { entering := some tgt, waking := false, wakeAt := wakeBy tgt }
    else if st = 0 && k.entering.isNone then s
    else
      let s := setScope s sc { entering := goal, waking := false, wakeAt := wakeBy (min lim (goal.getD st)) }
      if lim < st then incF (setScopeState s sc lim) (F.CLK_WAKE_CNT sc) else s

/-- Recompute every region and layer. -/
def recomputeAll (s : State) : State := forEach (List.range 17) s recompute

/-- The layers that a command's accesses woke fall idle again with it (R313). -/
def restLayers (s : State) : State :=
  if s.woken.isEmpty then s
  else forEach s.woken.eraseDups { s with woken := [] } (fun s p => recompute s (8 + p))

/-- What accesses device memory takes effect when none of its accesses stalls; a command one of whose accesses
does waits whole for the end of the reset or of the installation (R72, R82; log entry 86). -/
def memGate (c : Instr) (f : State → State) (s : State) : State :=
  if memQuiet s then restLayers (f s)
  else
    let t := f { s with stalled := false }
    if t.stalled then { s with waiting := s.waiting ++ [c] } else restLayers t

/-- The reset or the hold that commands wait for is over: they come first again, in arrival order (R72, R82; log
entry 86). -/
def resumeWaiting (s : State) : State := { s with pending := s.waiting ++ s.pending, waiting := [] }

/-- A wake request (R312, R314): an entry is abandoned, a sleeping scope begins to wake. -/
def wakeScope (s : State) (sc : Nat) : State :=
  let k := getScope s sc
  if scopeHeld s sc || (scopeState s sc = 0 && k.entering.isNone) then s
  else setScope s sc { entering := none, waking := true, wakeAt := none }

/-- Whether the token of a global stop has reached a unit. -/
def tokenSeen (s : State) : StopUnit → Bool
  | .frontEnd e => s.stop.feStopped.contains e
  | .core c => getB s (F.DBG_STOP_CORE_VALID c) || coreAbsent s c

/-- A stop token is on its way to a core: the control network delivers it first (R216; log entry 98). -/
def tokenDue (s : State) (c : Nat) : Bool := getF s F.DBG_STOP_STATUS_STATE == 1 && !tokenSeen s (.core c)

/-- The mask of the clusters that a compute command names. -/
def maskOf (c : CmdWord) : Nat := cmdField c 32 8

/-- The LAUNCH that a cluster takes part in: it is still to start on some cluster, or a core runs it (R218). -/
def runningOn (s : State) (lc : Nat) : Option OpenCmd :=
  s.open_.find? (fun o => o.begun && engineOf s o.q == 0 && cOpcode o.cmd == 0x02 && (maskOf o.cmd).testBit lc &&
    (!o.starts.isEmpty || s.cores.any (fun p => match p.2.kernel with
      | some k => k.q == o.q && k.tag == o.tag
      | none => false)))

/-- The LAUNCH whose launch-scope barrier state a cluster keeps: the cluster is the lowest of its mask. -/
def launchOf (s : State) (lc : Nat) : Option OpenCmd :=
  (runningOn s lc).filter (fun o => (lcsOf (BitVec.ofNat 64 (maskOf o.cmd))).head? == some lc)

/-- The participants of a barrier. -/
def barCores (s : State) (scope : Bool) (lc : Nat) : List Nat :=
  if scope then ((launchOf s lc).map (fun o => (lcsOf (BitVec.ofNat 64 (maskOf o.cmd))).flatMap coresOf)).getD []
  else coresOf lc

/-- A core counts as arrived at every later barrier: fenced, or ended since its cluster started the LAUNCH. -/
def barGone (s : State) (c : Nat) : Bool :=
  coreAbsent s c || ((getCore s c).gone && !s.open_.any (fun o => o.starts.contains (c / 16)))

/-- A core waits in a barrier. -/
def barAt (k : Core) (scope : Bool) (id : Nat) : Option Nat :=
  match k.wait with
  | some (.bar sc i d) => if sc == scope && i == id then some d else none
  | _ => none

/-- Every participant has arrived, one of them in the barrier; none that waits there is stopped. -/
def barComplete (s : State) (cs : List Nat) (scope : Bool) (id : Nat) : Bool :=
  cs.all (fun c => barGone s c || ((barAt (getCore s c) scope id).isSome && !(getCore s c).stopped)) &&
    cs.any (fun c => (barAt (getCore s c) scope id).isSome)

/-- The release of a barrier that a core waits in is due: it comes before a doorbell (R216). -/
def releaseDue (s : State) (c : Nat) : Bool :=
  match (getCore s c).wait, (getCore s c).kernel with
  | some (.bar sc id _), some k => barComplete s (barCores s sc (if sc then lowestLc k.mask.toNat else c / 16)) sc id
  | _, _ => false

/-- A stop token or the release of a barrier is on its way to a core of a region: it comes before a wake doorbell
(R216). -/
def regionHeld (s : State) (sc : Nat) : Bool :=
  decide (sc < 8) && (regionCores s sc).any (fun c => tokenDue s c || releaseDue s c)

/-- A command wakes the scopes it names (R314). -/
def wakeNamed (s : State) (q : Nat) (c : CmdWord) : State :=
  forEach (List.range 17) s (fun s sc => if namesScope s q c sc && !regionHeld s sc then wakeScope s sc else s)

/-- A scope begins serving work: a wake window for its drones, and an idle scope may sleep again (R313). -/
def wakeDone (s : State) (sc : Nat) : State :=
  let k := getScope s sc
  if k.waking then
    let s := setScope s sc .zero
    recompute (runDrones (incF (setScopeState s sc 0) (F.CLK_WAKE_CNT sc)) sc) sc
  else s

/-- A region serves work: awake, neither entering nor waking. -/
def regionServes (s : State) (k : Nat) : Bool :=
  let c := getScope s k
  scopeState s k == 0 && c.entering.isNone && !c.waking

end Sys2Proof.Machine
end

