-- ==== Sys2Proof/Machine/UpdPass.lean ====
section
/-! DEFINITION. The passes of an UPDATE: when one ends, and how the command ends (R193, R195, R198,
R200). -/

namespace Sys2Proof.Machine

/-- The block index that stands for the prologue (*Table: Rule registers at entry*). -/
def proBlock : Nat := 0xFFFFFFFF

/-- No entry. -/
def noEntry : Nat := 0xFFFF

/-- Work items: one per block, and the prologue after them when there is one (log entry 13). -/
def updItems (g : Group) : Nat := grpNblk g + (if grpPro g = noEntry then 0 else 1)

/-- The item of a block, or of the prologue. -/
def updItem (g : Group) (b : Nat) : Nat := if b = proBlock then grpNblk g else b

/-- The number of frozen elements, as DETAIL holds it. -/
def frozenCnt (x : Upd) : Nat := min x.frozen (2 ^ 32 - 1)

/-- The report of an item at the end of the command; DETAIL of a non-finite block holds the frozen count
and the block (R200). -/
def updReport (g : Group) (x : Upd) (i : Nat) : Report :=
  match x.fails.find? (fun r => updItem g r.seq == i) with
  | some r =>
    { seq := i, res := if r.res.status = stNonfinite
        then { r.res with detail := frozenCnt x + i * 2 ^ 32 } else r.res }
  | none => { seq := i, res := okResult }

/-- Every item reports; DETAIL of ST_OK holds the frozen count and the new step (R198, R201). -/
def finishUpd (s : State) (x : Upd) : State :=
  let g := getGroup s x.group
  let n := updItems g
  updCmd s x.q x.tag (fun o => { o with
    items := some n, okDetail := frozenCnt x + (x.step + 1) % 2 ^ 32 * 2 ^ 32,
    sent := o.sent ++ (List.range n).map (updReport g x) })

/-- Replace an UPDATE in service. -/
def putUpd (s : State) (x : Upd) : State :=
  { s with upds := s.upds.map (fun u => if u.q == x.q && u.tag == x.tag then x else u) }

/-- A pass runs and none of its blocks is left. -/
def passOver (s : State) (x : Upd) : Bool :=
  (x.pass == .stats || x.pass == .prologue || x.pass == .apply) &&
    x.todo.all (fun p => p.2.isEmpty) && (unitsOn s x.q x.tag).isEmpty &&
    (match findCmd s x.q x.tag with | some o => o.items.isNone | none => false)

/-- The state after a pass. -/
def passAfter : Pass → Pass
  | .stats => .statsDone
  | .prologue => .prologueDone
  | p => p

/-- The pass ends: after a failure, or the apply pass, so does the command. -/
def settlePass (s : State) (x : Upd) : State :=
  if passOver s x then
    if x.pass = .apply || !x.fails.isEmpty then finishUpd s x
    else putUpd s { x with pass := passAfter x.pass, todo := [] }
  else s

/-- Settle the passes of every UPDATE. -/
def settleUpds (s : State) : State := forEach s.upds s settlePass

end Sys2Proof.Machine
end

