-- ==== Sys2Proof/Machine/Fence.lean ====
section
/-! DEFINITION. Fencing a unit in service (R10, R45, R156, R212, R256, R328), and what it shares with a
reset of the unit: ending what the unit holds with one status. -/

namespace Sys2Proof.Machine

/-- A result that carries only a status. -/
def plainResult (status : Nat) : Result := { status := status, sub := 0, detail := 0 }

/-- The work item of a cluster, or of a core's cluster, in a command that names clusters by mask: items
count the named clusters in ascending order (log entry 12). -/
def lcItem (mask lc : Nat) : Nat := ((List.range lc).filter (fun i => mask.testBit i)).length

/-- The work item of a core in a LAUNCH: items count its cores in ascending order (log entry 12). -/
def coreItem (mask c : Nat) : Nat := 16 * lcItem mask (c / 16) + c % 16

/-- The physical update unit of a logical cluster. -/
def unitOfLc (s : State) (lc : Nat) : Option Nat := slook s.updOf lc

/-- End the kernel of a core: its item reports, and the core counts as arrived at every later barrier
(R178, R300, R328). -/
def endKernel (s : State) (c : Nat) (r : Result) : State :=
  let k := getCore s c
  match k.kernel with
  | none => s
  | some n =>
    let s := sendReport s n.q n.tag n.item r
    setCore s c { k with kernel := none, wait := none, ending := false, gone := true, exc := none }

/-- A core stops for good: what it had in flight is dropped. -/
def dropCore (s : State) (c : Nat) (r : Result) : State :=
  let s := endKernel s c r
  setCore s c { getCore s c with arr := [], dma := [] }

/-- The blocks that an update unit holds or would run next end with a status (R328, R301). -/
def failUnit (s : State) (u : Nat) (status : Nat) : State :=
  let inv := (getUnit s u).inv
  let held (x : Upd) : List Nat :=
    match inv with
    | some i => if i.q == x.q && i.tag == x.tag then [i.block] else []
    | none => []
  let s := (if inv.isSome then setInv s u none else s)
  let s := { s with upds := s.upds.map (fun x =>
    let bs := held x ++ sget [] x.todo u
    { x with todo := sdel x.todo u,
             fails := x.fails ++ bs.map (fun b => { seq := b, res := plainResult status }) }) }
  settleUpds s

/-- The unmerged items of attend commands end with a status, and nothing further is written
(*Table: Fret work under concurrent events*). -/
def failMerge (s : State) (hit : Nat → Bool) (status : Nat) : State :=
  let s' := forEach (s.attends.filter (fun a => hit a.core)) s (fun s a =>
    forEach (a.items.filter (fun i => !i.merged)) s (fun s i =>
      sendReport s a.q a.tag i.seq (plainResult status)))
  settleHold { s' with attends := s'.attends.filter (fun a => !hit a.core) }

/-- Fields of the LOAD_PROGRAM and LAUNCH bodies: the slot; the length of the load or the entry of the launch. -/
def cSlot (c : CmdWord) : Nat := bits (cmdField c 40 1) 1 0
def cWord44 (c : CmdWord) : Nat := cmdField c 44 4

/-- Two byte ranges overlap. -/
def rangesMeet (a la b lb : Nat) : Bool := a < b + lb && b < a + la

/-- Write bytes into a byte table. -/
def putBytes (m : Sparse Byte) (a : Nat) (bs : List Byte) : Sparse Byte :=
  (bs.zipIdx.foldl (fun m p => sput 0 m (a + p.2) p.1) m)

/-- What a load that failed was to leave in a cluster is undefined: the range of its instruction store, the target
slot and every slot that overlaps the range (R38). -/
def undefSlot (s : State) (c : CmdWord) (l : Nat) : State :=
  let k := getCluster s l
  let off := cmdField c 56 4
  let len := cWord44 c
  let d : Slot := { off := off, len := len, loaded := false, undef := true }
  let hit := k.slots.map (fun p => if rangesMeet p.2.off p.2.len off len then (p.1, { p.2 with undef := true }) else p)
  let bs := (List.range ((len + 7) / 8)).flatMap (fun i => bytesOf 8 (Config.freeWord (s.freeCtr + i)).toNat)
  setCluster { s with freeCtr := s.freeCtr + (len + 7) / 8 } l
    { k with slots := sput .zero hit (cSlot c) d, istore := putBytes k.istore off (bs.take len) }

/-- A cluster is no longer to be loaded. -/
def dropLoad (s : State) (l : Load) (lc : Nat) : State :=
  { s with loads := s.loads.map (fun x =>
      if x.q == l.q && x.tag == l.tag then { x with left := x.left.filter (· != lc) } else x) }

/-- A program load that a cluster holds ends with a status; its slots are undefined (R45). -/
def failLoads (s : State) (lc status : Nat) : State :=
  s.loads.foldl (fun s l =>
    if l.left.contains lc then
      let mask := (match findCmd s l.q l.tag with | some o => maskOf o.cmd | none => 0)
      let s := sendReport s l.q l.tag (lcItem mask lc) (plainResult status)
      let k := getCluster s lc
      dropLoad (setCluster s lc { k with slots := k.slots.map (fun p => (p.1, { p.2 with undef := true })) }) l lc
    else s) s

/-- The FENCED event of a unit: the physical unit as source, the logical ID in DATA, the rule in AUX. -/
def raiseFenced (s : State) (kind index logical rule : Nat) : State :=
  raiseEv s 0x5001 sevError none kind index rule logical

/-- Mark a core absent. -/
def markCore (s : State) (c : Nat) (absent : Bool) : State :=
  setBit s (F.EVT_FENCED_CORE (c / 32)) (c % 32) absent

/-- Every front end and every present core has stopped. -/
def allStopped (s : State) : Bool :=
  (List.range 5).all (fun e => tokenSeen s (.frontEnd e)) &&
    (List.range 1024).all (fun c => tokenSeen s (.core c))

/-- STATE reads STOPPED once every unit has stopped; an absent core does not count (R339). -/
def stopSettle (s : State) : State :=
  if getF s F.DBG_STOP_STATUS_STATE = 1 ∧ allStopped s then
    setF (setF s F.DBG_STOP_STATUS_STATE 2) F.DBG_STOP_STATUS_SPREAD_NS (min 65535 (s.stop.latest - s.stop.token))
  else s

/-- Fence a logical core. -/
def fenceCoreNow (s : State) (c rule : Nat) : State :=
  if coreAbsent s c then s
  else
    let s := failMerge (dropCore s c (plainResult stFenced)) (· == c) stFenced
    stopSettle (raiseFenced (markCore s c true) 2 (sget 0 s.coreSite c) c rule)

/-- Fence a logical cluster, with its cores, its column port and its update unit. -/
def fenceLcNow (s : State) (lc rule : Nat) : State :=
  if lcAbsent s lc then s
  else
    let site := (siteOf s lc).getD 0
    let s := forEach (coresOf lc) s (fun s c => markCore (dropCore s c (plainResult stFenced)) c true)
    let s := failLoads s lc stFenced
    let s := failMerge s (fun c => c / 16 == lc) stFenced
    let s := (match unitOfLc s lc with | some u => failUnit s u stFenced | none => s)
    let s := setBit (setBit s F.EVT_FENCED_LC lc true) F.EVT_FENCED_UPD lc true
    let s := setB s (F.NOC_LC_SITE_VALID lc) false
    stopSettle (raiseFenced s 1 site lc rule)

/-- Fence the update unit of a logical cluster. -/
def fenceUpdNow (s : State) (lc rule : Nat) : State :=
  if (getF s F.EVT_FENCED_UPD).testBit lc then s
  else
    let u := (unitOfLc s lc).getD 0
    let s := failUnit s u stFenced
    let s := setF (setBit s F.EVT_FENCED_UPD lc true) (F.UPD_UNIT_STATUS_STATE u) 3
    raiseFenced s 10 u lc rule

/-- Fence a unit by kind: 1 a logical cluster, 2 a logical core, 10 the update unit of a cluster. -/
def fenceNow (s : State) (f : Nat × Nat × Nat) : State :=
  match f.1 with
  | 1 => fenceLcNow s f.2.1 f.2.2
  | 2 => fenceCoreNow s f.2.1 f.2.2
  | _ => fenceUpdNow s f.2.1 f.2.2

/-- A cluster reset of the unit is running (R328: the fence is applied after it). -/
def underReset (s : State) (kind id : Nat) : Bool :=
  match s.luthier.clusterRst with
  | some (lc, _) => lc == (if kind = 2 then id / 16 else id)
  | none => false

/-- Fence a unit, at once or after the reset of the same unit that is running. -/
def fence (s : State) (kind id rule : Nat) : State :=
  if underReset s kind id then
    { s with luthier := { s.luthier with fences := s.luthier.fences ++ [(kind, id, rule)] } }
  else fenceNow s (kind, id, rule)

/-- The logical column that a physical column serves. -/
def colOfPcol (s : State) (pcol : Nat) : Option Nat :=
  (List.range 1024).find? (fun c => getB s (F.MEM_COLMAP_VALID c) && getF s (F.MEM_COLMAP_PCOL c) == pcol)

end Sys2Proof.Machine
end

