-- ==== Sys2Proof/Machine/Regs.lean ====
section
/-! DEFINITION. Reading and writing a register word by the access codes of its fields (R4 to R6, R348):
what every register has before the rule of its own block is added. -/

namespace Sys2Proof.Machine

/-- The byte distance from the first instance of a register to the instance that holds byte `off`. -/
def instOf (d : RegDesc) (off : Nat) : Option Nat :=
  if off < d.off then none
  else
    let rel := off - d.off
    match d.dims with
    | [] => if rel < d.width / 8 then some 0 else none
    | [(st, n)] => if rel / st < n ∧ rel % st < d.width / 8 then some (rel / st * st) else none
    | [(st, n), (st', n')] =>
      let r := rel % st
      if rel / st < n ∧ r / st' < n' ∧ r % st' < d.width / 8 then some (rel / st * st + r / st' * st') else none
    | _ => none

/-- The register, with its instance, that holds a byte of BAR0. -/
def findReg (off : Nat) : Option (RegDesc × Nat) :=
  regTable.findSome? (fun d => (instOf d off).map (fun i => (d, i)))

/-- The lowest bit of a field in its register. -/
def Fld.low (f : Fld) : Nat := f.key % 128

/-- The raw value of a register: write-only fields and reserved bits read 0 (R4, R5). -/
def regRaw (s : State) (d : RegDesc) (delta : Nat) : Nat :=
  d.flds.foldl (fun a x => if x.acc = .wo then a else a + getF s (x.fld.shift delta) * 2 ^ x.fld.low) 0

/-- Write one field by its access code, with bits of a raw register value. -/
def writeFld (s : State) (x : FldDesc) (delta raw : Nat) (locked : Bool) : State :=
  let f := x.fld.shift delta
  let v := raw / 2 ^ f.low % 2 ^ f.width
  match x.acc with
  | .ro => s
  | .rw => setF s f v
  | .wo => if 1 < f.width then setF s f v else s
  | .w1c => setF s f (getF s f &&& (2 ^ f.width - 1 - v))
  | .rwl => if locked then s else setF s f v

/-- Write a register whole by the access codes of its fields. -/
def writeFlds (s : State) (d : RegDesc) (delta raw : Nat) (locked : Bool) : State :=
  d.flds.foldl (fun s x => writeFld s x delta raw locked) s

/-- A register with a field that READY locks. -/
def hasLocked (d : RegDesc) : Bool := d.flds.any (fun x => x.acc == .rwl)

/-- A register all of whose writable fields READY locks. -/
def allLocked (d : RegDesc) : Bool := d.flds.all (fun x => x.acc == .rwl || x.acc == .ro)

/-- A write of a register after READY: a register with an RW-L field raises RW_LOCKED, whatever bits the write
brings to that field; the fields beside it take the write (R6, log entry 43). -/
def plainWrite (s : State) (d : RegDesc) (delta raw : Nat) : State :=
  let locked := devState s == 1 || devState s == 2
  let t := writeFlds s d delta raw locked
  if locked && hasLocked d then raiseCfg t 0x6001 (d.off + delta) raw else t

/-- What a write of `size` bytes at a byte offset brings to its register: nothing yet, or a whole
value. A 64-bit register written as two 4-byte writes takes effect at its high word (R348). -/
inductive Brought where
  | staged
  | whole (raw : Nat)
  deriving DecidableEq, Repr

/-- The value brought to a register, whose present raw value is `cur`, by an aligned write of 4 or 8
bytes at byte `at_` of it; a low word is staged, and used up by the write of its high word. -/
def bring (s : State) (base cur width at_ size v : Nat) : State × Brought :=
  let k := base + at_
  if width ≤ 32 then (s, .whole (v % 2 ^ 32))
  else if size = 8 then (s, .whole v)
  else if at_ % 8 = 0 then
    ({ s with mgmt := { s.mgmt with lowWord := sins s.mgmt.lowWord k (v % 2 ^ 32) } }, .staged)
  else
    ({ s with mgmt := { s.mgmt with lowWord := sdel s.mgmt.lowWord (k - 4) } },
      .whole ((slook s.mgmt.lowWord (k - 4)).getD (cur % 2 ^ 32) + v % 2 ^ 32 * 2 ^ 32))

end Sys2Proof.Machine
end

