-- ==== Sys2Proof/Machine/Engines.lean ====
section
/-! DEFINITION. The meanings of queues, dispatch, completion, signal words, program loads and launches
(R20 to R55, R366, R368, R369). -/

namespace Sys2Proof.Machine

/-! ## Queue pages (R20, R51) -/

/-- BAR2 of a function answers: the physical function's always, a virtual function's while its partition
is enabled (*Table: PART_CFG fields*). -/
def bar2On (s : State) (fn : Nat) : Bool := fn == 0 || getB s (F.PART_CFG_EN fn)

/-- The valid queues of a partition, ascending (R51). -/
def queuesOf (s : State) (p : Nat) : List Nat :=
  (List.range 1024).filter (fun q => validQ s q && partOf s q == p)

/-- The queue of local index `n` of a function (R51). -/
def queueAt (s : State) (fn n : Nat) : Option Nat :=
  if bar2On s fn then (queuesOf s fn)[n]? else none

/-- A write to the queue page of a function acts on the queue it belongs to; beyond the function's queues
it is ignored (R20). -/
def onQueue (s : State) (fn n : Nat) (f : State → Nat → State) : State :=
  match queueAt s fn n with
  | some q => f s q
  | none => s

/-! ## Doorbells (R24) -/

/-- Whether a queue accepts a command-ring producer value. -/
def sqAccepts (s : State) (q p : Nat) : Bool :=
  let n := (getQueue s q).sq.size
  getF s (F.QSTATE_STATE q) != 0 && decide (p < 2 * n) && decide (ringUsed n p (getF s (F.SQ_PTR_FETCH q)) ≤ n)

/-- Whether a queue accepts a completion-ring consumer value. -/
def cqAccepts (s : State) (q p : Nat) : Bool :=
  let n := (getQueue s q).cq.size
  getF s (F.QSTATE_STATE q) != 0 && decide (p < 2 * n) &&
    decide (ringUsed n (getF s (F.CQ_PTR_PRODUCER q)) p ≤ n)

/-- A doorbell fails its test: DB_ERR and an event with the rejected value. -/
def rejectBell (s : State) (q p : Nat) : State :=
  raiseQue (setB s (F.QSTATE_DB_ERR q) true) 0x8001 sevWarn q 0 p

def sqBell (s : State) (q p : Nat) : State :=
  if sqAccepts s q p then setQueue s q { getQueue s q with prod := p } else rejectBell s q p

def cqBell (s : State) (q p : Nat) : State :=
  if cqAccepts s q p then setQueue s q { getQueue s q with cons := p } else rejectBell s q p

/-- The PTR field of a doorbell. -/
def bellPtr (v : BitVec 32) : Nat := v.toNat % 2 ^ 17

def execSqDb (fn n : Nat) (v : BitVec 32) (s : State) : Out :=
  onUnit (fnOk fn && queueOk n) (inService s (fun s => onQueue s fn n (fun s q => sqBell s q (bellPtr v))))

def execCqDb (fn n : Nat) (v : BitVec 32) (s : State) : Out :=
  onUnit (fnOk fn && queueOk n) (inService s (fun s => onQueue s fn n (fun s q => cqBell s q (bellPtr v))))

/-! ## Fetch (R25, R28, R54) -/

/-- A failed fetch: the queue goes to ERROR (R54). -/
def fetchFailed (s : State) (q addr : Nat) : State :=
  recomputeAll (raiseQue (setB (queueError s q) (F.QSTATE_FETCH_ERR q) true) 0x8003 sevError q 0 addr)

/-- The address of the next command of a ring. -/
def fetchAddr (s : State) (q : Nat) : Nat :=
  let k := getQueue s q
  k.sq.base + 64 * (getF s (F.SQ_PTR_FETCH q) % k.sq.size)

/-- The 64 bytes of the next command, none where R54 makes the fetch fail. -/
def fetchBytes (s : State) (q : Nat) : State × Option (List Byte) :=
  let k := getQueue s q
  if k.sq.dev then
    if ringCtxOk s q k.sq.ctx then
      let r := vreadBytes s k.sq.ctx (fetchAddr s q) 64 .read
      (r.1, if r.2.fail.isNone && !r.2.poison then some r.2.bytes else none)
    else (s, none)
  else (s, hostRead s (fetchAddr s q) 64)

/-- Take a fetched command: it gets the next sequence number and wakes the scopes it names (R28, R314). -/
def takeCommand (s : State) (q : Nat) (bs : List Byte) : State :=
  let k := getQueue s q
  let cmd : CmdWord := BitVec.ofNat 512 (natOf bs)
  let s := setQueue s q { k with fetched := k.fetched ++ [{ abs := k.nextAbs, cmd := cmd }],
                                 nextAbs := k.nextAbs + 1 }
  let s := setF s (F.SQ_PTR_FETCH q) ((getF s (F.SQ_PTR_FETCH q) + 1) % (2 * k.sq.size))
  let s := setF s (F.NEXT_SEQ q) (k.nextAbs + 1)
  recomputeAll (wakeNamed s q cmd)

/-- A published command waits to be fetched; a fetch from host memory waits for the PCIe link (R304). -/
def mayFetch (s : State) (q : Nat) : Bool :=
  let k := getQueue s q
  validQ s q && getF s (F.QSTATE_STATE q) == 1 && getF s (F.SQ_PTR_FETCH q) != k.prod && (k.sq.dev || s.pcie.up)

def commandFetch (s : State) (q : Nat) : State :=
  if mayFetch s q then
    match fetchBytes s q with
    | (s, some bs) => takeCommand s q bs
    | (s, none) => fetchFailed s q (fetchAddr s q)
  else s

def execCommandFetch (q : Nat) (s : State) : Out :=
  onUnit (queueOk q) (inService s (memGate (.commandFetch q) (fun s => commandFetch s q)))

/-! ## Rejection, dispatch and timeout (R27, R29, R31) -/

/-- Conditions 5 and 6 of R29 for the head. -/
def rejectConds (s : State) (q : Nat) (f : Fetched) : Bool :=
  (openOf s q).all (fun o => decide (f.abs < o.abs + 32768)) && cqFree s q

def frontEndReject (s : State) (q : Nat) : State :=
  match headOf s q with
  | none => s
  | some f =>
    match rejectCode s q f with
    | none => s
    | some code =>
      if rejectConds s q f then
        recomputeAll (completeUndispatched (popHead s q) q (f.abs % 65536) f.cmd
          { status := stInvalid, sub := code, detail := 0, noSig := true })
      else s

def execFrontEndReject (q : Nat) (s : State) : Out :=
  onUnit (queueOk q) (inService s (memGate (.frontEndReject q) (fun s => frontEndReject s q)))

/-- Dispatch the head of a queue when R29 allows it and the arbiter of its engine serves the queue. -/
def dispatchQ (s : State) (q : Nat) : State :=
  match headOf s q with
  | none => s
  | some f =>
    if headReady s q && arbChoice s (engineOf s q) == some q then
      recomputeAll (wakeNamed (dispatchHead s q f) q f.cmd)
    else s

def execDispatch (q : Nat) (s : State) : Out := onUnit (queueOk q) (inService s (memGate (.dispatch q) (fun s => dispatchQ s q)))

/-- The head of a queue is a NOP. -/
def headIsNop (s : State) (q : Nat) : Bool :=
  match headOf s q with
  | some f => cOpcode f.cmd == 0
  | none => false

def execNop (q : Nat) (s : State) : Out :=
  onUnit (queueOk q) (inService s (memGate (.nop q) (fun s => if headIsNop s q then dispatchQ s q else s)))

def waitTimeout (s : State) (q : Nat) : State :=
  match headOf s q, (getQueue s q).waitSince with
  | some f, some t =>
    let lim := getF s (F.QTMO_WAIT_US q)
    if lim != 0 && heldByWait s q && decide (t + lim * 1000 < s.time) then
      recomputeAll (completeUndispatched (popHead s q) q (f.abs % 65536) f.cmd
        { status := stTimeout, sub := 0, detail := 0 })
    else s
  | _, _ => s

def execWaitTimeout (q : Nat) (s : State) : Out :=
  onUnit (queueOk q) (inService s (memGate (.waitTimeout q) (fun s => waitTimeout s q)))

/-! ## Joining (R36, R37) -/

/-- The report of an item that is on its way to its join point. -/
def sentReport (o : OpenCmd) (seq : Nat) : Option Report := o.sent.find? (fun r => r.seq == seq)

/-- A report reaches the join point; with the last one the command completes. What the item used may have fallen
idle (R313). -/
def joinReport (s : State) (q tag seq : Nat) : State :=
  match findCmd s q tag with
  | none => s
  | some o =>
    match sentReport o seq with
    | none => s
    | some r =>
      let o' := { o with sent := o.sent.erase r, got := o.got ++ [r] }
      recomputeAll (if allIn o' then complete s o' (joined o') else updCmd s q tag (fun _ => o'))

def execJoinReport (q tag seq : Nat) (s : State) : Out :=
  onUnit (queueOk q) (inService s (memGate (.joinReport q tag seq) (fun s => joinReport s q tag seq)))

def execSigWrite (fn w : Nat) (v : BitVec 32) (s : State) : Out :=
  onUnit (fnOk fn && sigOk w) (inService s (fun s => if bar2On s fn then sigSet s fn w v.toNat else s))

/-! ## Beginning a command -/

/-- The dispatched command that an engine may begin now: its front end is not stopped (R339). -/
def toBegin (s : State) (q tag op : Nat) : Option OpenCmd :=
  match findCmd s q tag with
  | some o => if !o.begun && cOpcode o.cmd == op && !feStopped s (engineOf s q) then some o else none
  | none => none

/-- A context of another partition (R22). -/
def foreignCtx (s : State) (q c : Nat) : Bool := ctxForeign s (partOf s q) c

/-- A status with a substatus. -/
def codeResult (status sub : Nat) : Result := { status := status, sub := sub, detail := 0 }

/-! ## LOAD_PROGRAM and LAUNCH (R43 to R48) -/

/-- The context of a LOAD_PROGRAM or LAUNCH body. -/
def cCtx (c : CmdWord) : Nat := bits (cmdField c 42 2) 11 0

/-- What both bodies have in common: reserved bits 0 and a cluster named. -/
def computeFields (c : CmdWord) : Bool :=
  bits (cmdField c 40 1) 7 2 == 0 && cmdField c 41 1 == 0 && bits (cmdField c 42 2) 15 12 == 0 && maskOf c != 0

/-- The body of a LOAD_PROGRAM keeps its table. -/
def loadFields (c : CmdWord) : Bool :=
  computeFields c && cmdField c 60 4 == 0 && cWord44 c % 256 == 0 && decide (256 ≤ cWord44 c) &&
    decide (cWord44 c ≤ 131072) && cmdField c 56 4 % 256 == 0 && decide (cmdField c 56 4 + cWord44 c ≤ 131072)

/-- The clusters of a mask that are absent. -/
def absentMask (s : State) (mask : Nat) : Nat := mask &&& getF s F.EVT_FENCED_LC

/-- Checks that a LOAD_PROGRAM and a LAUNCH share, in order: rights, then absent clusters (R22, R45). -/
def computeChecks (s : State) (q : Nat) (c : CmdWord) : Option (State → Nat → State) :=
  if foreignCtx s q (cCtx c) then some (fun s tag => deny s q tag)
  else if absentMask s (maskOf c) ≠ 0 then
    some (fun s tag => answer s q tag { status := stFenced, sub := 0, detail := absentMask s (maskOf c) } 0)
  else none

def undefSlots (s : State) (c : CmdWord) : State :=
  forEach (lcsOf (BitVec.ofNat 64 (maskOf c))) s (fun s l => undefSlot s c l)

/-- What a LOAD_PROGRAM that does not run to its end was to load is undefined (R38). -/
def loadFree (s : State) (o : OpenCmd) : State :=
  if loadFields o.cmd && !foreignCtx s o.q (cCtx o.cmd) && absentMask s (maskOf o.cmd) == 0 then undefSlots s o.cmd
  else s

/-- LOAD_PROGRAM reads the image and multicasts it to the named clusters. -/
def loadBegin (s : State) (q tag : Nat) (c : CmdWord) : State :=
  let r := vreadBytes s (cCtx c) (cmdField c 48 8) (cWord44 c) .read
  let s := r.1
  match r.2.fail with
  | some f => answer (undefSlots s c) q tag f 0
  | none =>
    if r.2.poison then answer (undefSlots s c) q tag (codeResult stUe 0) 0
    else
      let lcs := lcsOf (BitVec.ofNat 64 (maskOf c))
      let s := updCmd s q tag (fun o => { o with begun := true, items := some lcs.length })
      { s with loads := s.loads ++
          [{ q := q, tag := tag, slot := cSlot c, off := cmdField c 56 4, bytes := r.2.bytes, left := lcs }] }

def loadProgram (s : State) (q tag : Nat) : State :=
  match toBegin s q tag 0x01 with
  | none => s
  | some o =>
    if !loadFields o.cmd then answer s q tag (codeResult stInvalid 0x0700) 0
    else match computeChecks s q o.cmd with
      | some f => f s tag
      | none => loadBegin s q tag o.cmd

def execLoadProgram (q tag : Nat) (s : State) : Out :=
  onUnit (queueOk q) (inService s (memGate (.loadProgram q tag) (fun s => loadProgram s q tag)))

/-- A slot of a cluster overlaps a range. -/
def slotMeets (s : State) (lc slot off len : Nat) : Bool :=
  let d := sget .zero (getCluster s lc).slots slot
  rangesMeet d.off d.len off len

/-- A core of a cluster runs a kernel from a slot that overlaps a range, or a LAUNCH that has begun is to start
one there (R47). -/
def rangeInUse (s : State) (lc off len : Nat) : Bool :=
  (coresOf lc).any (fun c => match (getCore s c).kernel with
    | some k => slotMeets s lc k.slot off len
    | none => false) ||
    s.open_.any (fun o => o.starts.contains lc && slotMeets s lc (cSlot o.cmd) off len)

/-- The slots of a cluster after a load: the target loaded, every other one that overlaps emptied. -/
def slotsAfter (slots : Sparse Slot) (slot off len : Nat) : Sparse Slot :=
  sput .zero (slots.filter (fun p => !rangesMeet p.2.off p.2.len off len)) slot
    { off := off, len := len, loaded := true, undef := false }

def loadWrite (s : State) (q tag lc : Nat) : State :=
  match s.loads.find? (fun l => l.q == q && l.tag == tag && l.left.contains lc), findCmd s q tag with
  | some l, some o =>
    if rangeInUse s lc l.off l.bytes.length then s
    else
      let k := getCluster s lc
      let s := setCluster s lc { k with slots := slotsAfter k.slots l.slot l.off l.bytes.length,
                                        istore := putBytes k.istore l.off l.bytes }
      let s := sendReport s q tag (lcItem (maskOf o.cmd) lc) okResult
      let left (x : Load) : Load :=
        if x.q == q && x.tag == tag then { x with left := x.left.filter (· != lc) } else x
      { s with loads := (s.loads.map left).filter (fun x => !x.left.isEmpty) }
  | _, _ => s

def execLoadProgramWrite (q tag lc : Nat) (s : State) : Out :=
  onUnit (queueOk q && lcOk lc) (inService s (fun s => loadWrite s q tag lc))

/-- A named cluster's slot is loaded and ENTRY lies outside it, or ENTRY is no instruction address. -/
def entryBad (s : State) (c : CmdWord) : Bool :=
  cWord44 c % 4 != 0 || decide (131072 ≤ cWord44 c) ||
    (lcsOf (BitVec.ofNat 64 (maskOf c))).any (fun l =>
      let d := sget .zero (getCluster s l).slots (cSlot c)
      d.loaded && decide (d.len ≤ cWord44 c))

/-- Whether a named slot holds no program; a slot left undefined may or may not (R45, R46). -/
def slotEmpty (s : State) (c : CmdWord) : Bool :=
  (lcsOf (BitVec.ofNat 64 (maskOf c))).any (fun l =>
    let d := sget .zero (getCluster s l).slots (cSlot c)
    if d.undef then Config.takesNew s.freeCtr l else !d.loaded)

/-- A core on which a kernel may start: none runs there and nothing is in flight. -/
def coreFree (s : State) (c : Nat) : Bool :=
  let k := getCore s c
  k.kernel.isNone && k.arr.isEmpty && k.dma.isEmpty

/-- A LAUNCH may begin: no cluster that it names takes part in another, and their cores are free (R218). DESIGN
CHOICE (log entry 109): the manual does not say what a LAUNCH does while only some of its clusters are free. -/
def launchMayBegin (s : State) (o : OpenCmd) : Bool :=
  o.begun || (lcsOf (BitVec.ofNat 64 (maskOf o.cmd))).all (fun l =>
    (runningOn s l).isNone && (coresOf l).all (coreFree s))

/-- A cluster may start a LAUNCH: its region serves work, no reset holds it, its cores are free and no stop token
is on its way there (R216, R301, R314). -/
def launchMayStart (s : State) (o : OpenCmd) (l : Nat) : Bool :=
  launchMayBegin s o && !(getCluster s l).hold && (coresOf l).all (fun c => coreFree s c && !tokenDue s c) &&
    (match siteOf s l with | some t => regionServes s (regionOf t) | none => true)

/-- The registers of a core at a LAUNCH (R43, R161). -/
def launchRegs (c : CmdWord) (core : Nat) : RegFile :=
  { pc := cWord44 c, v := [], p := [],
    x := sput ⟨0, false⟩ (sput ⟨0, false⟩ (sput ⟨0, false⟩ [] 10 ⟨BitVec.ofNat 64 (cmdField c 48 8), false⟩)
      11 ⟨BitVec.ofNat 64 (cmdField c 56 8), false⟩) 12 ⟨BitVec.ofNat 64 core, false⟩ }

/-- The site of a core, through its cluster. -/
def coreSiteOf (s : State) (c : Nat) : Nat := (siteOf s (c / 16)).getD 0

/-- A core starts the kernel of a LAUNCH; a fenced core's item is answered ST_FENCED (R328). -/
def startCore (s : State) (o : OpenCmd) (core : Nat) : State :=
  let c := o.cmd
  if coreAbsent s core then
    sendReport (setCore s core { getCore s core with gone := true }) o.q o.tag (coreItem (maskOf c) core)
      (plainResult stFenced)
  else
    setCore s core { getCore s core with
      rf := launchRegs c core, t := [], astat := 0, wait := none, ending := false, gone := false,
      issued := 0, exc := none, lost := false,
      kernel := some { q := o.q, tag := o.tag, part := partOf s o.q, ctx := cCtx c,
                       mask := BitVec.ofNat 64 (maskOf c), slot := cSlot c, express := o.express,
                       item := coreItem (maskOf c) core, cyc0 := siteCycles s (coreSiteOf s core) } }

/-- A LAUNCH begins: no named core has arrived at a barrier of it, and none holds a doorbell (R43, R178). -/
def launchBegin (s : State) (o : OpenCmd) : State :=
  let lcs := lcsOf (BitVec.ofNat 64 (maskOf o.cmd))
  let cs := lcs.flatMap coresOf
  let s := updCmd s o.q o.tag (fun o => { o with begun := true, items := some (16 * lcs.length), starts := lcs })
  forEach cs { s with bells := s.bells.filter (fun b => !cs.contains b.core) } (fun s c =>
    setCore s c { getCore s c with gone := false, db := 0 })

/-- Start every core of the clusters that may start (R314). -/
def launchStart (s : State) (o : OpenCmd) (lcs : List Nat) : State :=
  let s := updCmd s o.q o.tag (fun o => { o with starts := o.starts.filter (fun l => !lcs.contains l) })
  let s := forEach lcs s (fun s l => setCluster s l { getCluster s l with lastSlot := some (cSlot o.cmd) })
  forEach (lcs.flatMap coresOf) s (fun s c => startCore s o c)

/-- The clusters of a LAUNCH that may start now start; one that waits starts when LAUNCH is sent again. With none
that may, the regions that it names wake (R314). -/
def launchGo (s : State) (o : OpenCmd) : State :=
  let left := if o.begun then o.starts else lcsOf (BitVec.ofNat 64 (maskOf o.cmd))
  match left.filter (launchMayStart s o) with
  | [] => wakeNamed s o.q o.cmd
  | lcs => launchStart (if o.begun then s else launchBegin (drawn s) o) o lcs

/-- A LAUNCH that its front end may act on: not begun, or with clusters still to start. -/
def toLaunch (s : State) (q tag : Nat) : Option OpenCmd :=
  match findCmd s q tag with
  | some o => if (!o.begun || !o.starts.isEmpty) && cOpcode o.cmd == 0x02 && !feStopped s (engineOf s q) then some o else none
  | none => none

def launch (s : State) (q tag : Nat) : State :=
  match toLaunch s q tag with
  | none => s
  | some o =>
    if o.begun then launchGo s o
    else if !computeFields o.cmd || entryBad s o.cmd then answer s q tag (codeResult stInvalid 0x0700) 0
    else match computeChecks s q o.cmd with
      | some f => f s tag
      | none =>
        if ctxDead s (cCtx o.cmd) then ctxFault s q tag
        else if slotEmpty s o.cmd then answer (drawn s) q tag (plainResult stNotReady) 0
        else launchGo s o

def execLaunch (q tag : Nat) (s : State) : Out := onUnit (queueOk q) (inService s (fun s => launch s q tag))

/-! ## START, STOP and ring configuration (R52, R53, R55) -/

/-- A LOG2N within its range. -/
def log2Ok (n : Nat) : Bool := 6 ≤ n && n ≤ 16

/-- A START takes effect. -/
def startNow (s : State) (q : Nat) : State :=
  let ctx := getF s (F.SQ_CFG_RING_CTX q)
  let sq : Ring := { base := getF s (F.SQ_BASE_ADDR q) * 64, log2n := getF s (F.SQ_CFG_LOG2N q),
                     dev := getB s (F.SQ_CFG_LOC q), ctx := ctx }
  let cq : Ring := { base := getF s (F.CQ_BASE_ADDR q) * 64, log2n := getF s (F.CQ_CFG_LOG2N q),
                     dev := getB s (F.CQ_CFG_LOC q), ctx := ctx }
  let s := setQueue s q { sq := sq, cq := cq, prod := 0, cons := 0, nextAbs := 0,
                          fetched := [], waitSince := none }
  let s := setF (setF (setF s (F.SQ_PTR_FETCH q) 0) (F.CQ_PTR_PRODUCER q) 0) (F.NEXT_SEQ q) 0
  let s := setB (setB s (F.QSTATE_FETCH_ERR q) false) (F.QSTATE_CQ_ERR q) false
  setF s (F.QSTATE_STATE q) 1

/-- A START is refused. -/
def startRefused (s : State) (q : Nat) : State :=
  raiseQue (setB s (F.QSTATE_CFG_ERR q) true) 0x8002 sevWarn q (getF s (F.OUTSTANDING q))
    (getF s (F.SQ_CFG_LOG2N q) + getF s (F.CQ_CFG_LOG2N q) * 2 ^ 8)

def queueStart (s : State) (q : Nat) : State :=
  let st := getF s (F.QSTATE_STATE q)
  if st = 0 ∨ st = 3 ∨ st = 4 then
    if log2Ok (getF s (F.SQ_CFG_LOG2N q)) && log2Ok (getF s (F.CQ_CFG_LOG2N q)) &&
        getF s (F.OUTSTANDING q) == 0 then startNow s q
    else startRefused s q
  else s

/-- STOP ends dispatch at once and discards what was fetched and not dispatched (R53). DESIGN CHOICE (log entry
93): the manual does not say what a STOP does while STATE is not RUNNING; it does nothing. -/
def queueStop (s : State) (q : Nat) : State :=
  if getF s (F.QSTATE_STATE q) = 1 then
    let s := setQueue s q { getQueue s q with fetched := [], waitSince := none }
    recomputeAll (settleStop (setF s (F.QSTATE_STATE q) 2) q)
  else s

/-- A write of QCTRL: with START and STOP both set it is ignored whole (R52). -/
def qctrlWrite (s : State) (q v : Nat) : State :=
  match v.testBit 0, v.testBit 1 with
  | true, false => queueStart s q
  | false, true => queueStop s q
  | _, _ => s

def execStart (fn n : Nat) (v : BitVec 32) (s : State) : Out :=
  onUnit (fnOk fn && queueOk n) (inService s (fun s => onQueue s fn n (fun s q => qctrlWrite s q v.toNat)))

def execStop (fn n : Nat) (v : BitVec 32) (s : State) : Out :=
  onUnit (fnOk fn && queueOk n) (inService s (fun s => onQueue s fn n (fun s q => qctrlWrite s q v.toNat)))

/-- A naturally aligned access of 4 or 8 bytes (R348). -/
def accessOk (off size : Nat) : Bool := (size == 4 || size == 8) && off % size == 0

/-- Ring registers of a queue page: SQ_BASE, SQ_CFG, CQ_BASE and CQ_CFG. -/
def ringReg (off : Nat) : Bool := (0x10 ≤ off && off < 0x1C) || (0x20 ≤ off && off < 0x2C)

/-- Where the queue page of a queue stands in BAR0's copy. -/
def viewBase (q : Nat) : Nat := 0x110000 + 0x100 * q

/-- One 4-byte or 8-byte write of a ring register. -/
def ringWrite1 (s : State) (q off size v : Nat) : State :=
  if ringReg off then
    let st := getF s (F.QSTATE_STATE q)
    if st = 1 ∨ st = 2 then raiseQue s 0x8004 sevWarn q 0 off
    else match findReg (viewBase q + off) with
      | none => s
      | some (d, i) =>
        let at_ := viewBase q + off - (d.off + i)
        match bring s (d.off + i) (regRaw s d i) d.width at_ size v with
        | (s, .staged) => s
        | (s, .whole raw) => plainWrite s d i raw
  else s

/-- A write of ring registers: an 8-byte write of two 32-bit registers is two writes (R348). -/
def ringWrite (s : State) (q off size v : Nat) : State :=
  if !accessOk off size then s
  else if size = 8 && !(off == 0x10 || off == 0x20) then
    ringWrite1 (ringWrite1 s q off 4 (v % 2 ^ 32)) q (off + 4) 4 (v / 2 ^ 32)
  else ringWrite1 s q off size v

def execRingConfigWrite (fn n off size : Nat) (v : BitVec 64) (s : State) : Out :=
  onUnit (fnOk fn && queueOk n)
    (inService s (fun s => onQueue s fn n (fun s q => ringWrite s q off size v.toNat)))

end Sys2Proof.Machine
end

