-- ==== Sys2Proof/Machine/Pages.lean ====
section
/-! DEFINITION. The meanings of invalidation, pool grants and the page commands (R88, R89, R93 to R112). -/

namespace Sys2Proof.Machine

/-! ## Invalidation (R88, R89) -/

/-- VA[51:6] of a write of MMU_INVAL. -/
def invalVa (v : Nat) : Nat := bits v 63 18 * 64

/-- A write of MMU_INVAL, whole or of its upper word, sets the fields and starts the invalidation; while one is
in progress it starts no second one (log entry 21). LOG2LEN above its stated 0 to 18 acts as 18 (log entry 85). -/
def mmuInval (s : State) (v : Nat) : State :=
  let s := setF (setF (setF (setF s F.MMU_INVAL_CTX (bits v 11 0)) F.MMU_INVAL_ALL (bits v 12 12))
    F.MMU_INVAL_LOG2LEN (bits v 17 13)) F.MMU_INVAL_VA (bits v 63 18)
  if getB s F.MMU_INVAL_STATUS_BUSY then s
  else
    let len := min 18 (bits v 17 13)
    let s := setB s F.MMU_INVAL_STATUS_BUSY true
    { s with inval := some { ctx := bits v 11 0, all := v.testBit 12, va := invalVa v, len := 2 ^ (12 + len) } }

def execMmuInval (v : BitVec 64) (s : State) : Out := done (inService s (fun s => mmuInval s v.toNat))

/-- The invalidation completes: no cached translation it covers is used again (R88, R89). -/
def mmuInvalDone (s : State) : State :=
  match s.inval with
  | none => s
  | some iv => setB { invalidate s iv with inval := none } F.MMU_INVAL_STATUS_BUSY false

def execMmuInvalDone (s : State) : Out := done (inService s mmuInvalDone)

/-! ## Grants (R93) -/

/-- The grant that the two registers describe. -/
def grantOf (s : State) (v : Nat) : Grant :=
  { part := bits v 30 27, layer := bits v 26 24, colLo := bits v 9 0, colHi := bits v 19 10,
    banks := BitVec.ofNat 4 (bits v 23 20), lo := getF s F.MMU_POOL_GRANT0_BYTE_LO,
    hi := getF s F.MMU_POOL_GRANT0_BYTE_HI, log2 := getF s (F.MMU_PART_KV_PAGE_LOG2 (bits v 30 27)) }

/-- No page of the partition's size lies wholly within the range. -/
def grantEmpty (g : Grant) : Bool :=
  decide (g.colHi < g.colLo) || g.banks == 0 || decide (g.hi ≤ g.lo) ||
    decide (g.hi * 2048 < roundUp (g.lo * 2048) (2 ^ g.log2) + 2 ^ g.log2)

/-- Two grants share bytes. -/
def grantsMeet (a b : Grant) : Bool :=
  a.layer == b.layer && decide (a.colLo ≤ b.colHi) && decide (b.colLo ≤ a.colHi) &&
    (a.banks &&& b.banks) != 0 && decide (a.lo < b.hi) && decide (b.lo < a.hi)

/-- A range of column-local bytes shares bytes with a region that may lie in either window. -/
def meetsRegion (base size a n : Nat) : Bool :=
  if base < 2 ^ 37 then rangesMeet base size a n
  else (pieces a n).any (fun v =>
    rangesMeet base size (2 ^ 39 + localToSpread v) (min (a + n) (v / 4096 * 4096 + 4096) - v))

/-- The range of a grant overlaps the page-engine region. -/
def grantHitsRegion (s : State) (g : Grant) : Bool :=
  let base := getF s F.MMU_PE_BASE_DPA
  let size := getF s F.MMU_PE_SIZE_MIB * 2 ^ 20
  (List.range (g.colHi + 1 - g.colLo)).any (fun c =>
    ((List.range 4).filter (fun b => g.banks.getLsbD b)).any (fun b =>
      meetsRegion base size (grantPage g (g.colLo + c) b 0) ((g.hi - g.lo) * 2048)))

/-- A grant that R93 refuses. -/
def grantRefused (s : State) (g : Grant) : Bool :=
  decide (2048 < g.hi) || g.lo * 2048 % 2 ^ g.log2 != 0 || g.hi * 2048 % 2 ^ g.log2 != 0 ||
    s.grants.any (grantsMeet g) || grantHitsRegion s g

def poolGrant (s : State) (v : Nat) : State :=
  let s := setF (setF (setF s F.MMU_POOL_GRANT1_COL_LO (bits v 9 0)) F.MMU_POOL_GRANT1_COL_HI (bits v 19 10))
    F.MMU_POOL_GRANT1_BANK_MASK (bits v 23 20)
  let s := setF (setF s F.MMU_POOL_GRANT1_LAYER (bits v 26 24)) F.MMU_POOL_GRANT1_PART (bits v 30 27)
  let g := grantOf s v
  if v.testBit 31 then
    if grantEmpty g then s
    else if grantRefused s g then setB s F.MMU_POOL_STATUS_GRANT_ERR true
    else tablesOut s { s with grants := s.grants ++ [g] } 0
  else s

def execPoolGrant (v : BitVec 64) (s : State) : Out := done (inService s (fun s => poolGrant s v.toNat))

/-! ## Beginning a page command (R92, R95, R100) -/

/-- Command bytes. -/
def cSeq (c : CmdWord) : Nat := cmdField c 32 2
def cLayer (c : CmdWord) : Nat := cmdField c 34 1
def cFlags35 (c : CmdWord) : Nat := cmdField c 35 1
def cN (c : CmdWord) : Nat := cmdField c 36 4
def cSrc (c : CmdWord) : Nat := cmdField c 40 8
def cSrcCtx (c : CmdWord) : Nat := bits (cmdField c 48 2) 11 0

/-- The sequence that a page command names. -/
def namesSeq (c : CmdWord) : Option Nat :=
  if cOpcode c = 0x20 then (if (cmdField c 34 1).testBit 0 then some (cSeq c) else none) else some (cSeq c)

/-- A page command dispatched earlier that names the same sequence has not begun (R100). -/
def earlierOnSeq (s : State) (o : OpenCmd) : Bool :=
  (s.open_.takeWhile (fun x => !isCmd o.q o.tag x)).any (fun x =>
    engineOf s x.q == 2 && !x.begun && (namesSeq x.cmd).isSome && namesSeq x.cmd == namesSeq o.cmd)

/-- Begin a page command in its turn; with the page engine off it completes ST_NOT_READY (R92). -/
def pageBegin (s : State) (q tag op : Nat) (f : State → OpenCmd → State) : State :=
  match toBegin s q tag op with
  | none => s
  | some o =>
    if earlierOnSeq s o then s
    else if getB s F.MMU_POOL_STATUS_PE_OFF then answer s q tag (codeResult stNotReady 0) 0
    else tablesOut s (f s o) (partOf s q)

/-- ST_INVALID with a substatus. -/
def badPage (s : State) (o : OpenCmd) (sub : Nat) : State := answer s o.q o.tag (codeResult stInvalid sub) 0

/-- A sequence of the issuing partition: BAD_SEQ where none is valid, ST_PERMISSION on another's (R22). -/
def withSeq (s : State) (o : OpenCmd) (n : Nat) (f : Seq → State) : State :=
  match getSeq s n with
  | none => badPage s o 0x0300
  | some e =>
    if e.part ≠ partOf s o.q then deny s o.q o.tag
    else if ctxForeign s e.part e.ctx then answer s o.q o.tag permResult 0
    else f e

/-- An answer after work that may have failed. -/
def answerOr (s : State) (o : OpenCmd) (fail : Option Result) (okDetail : Nat) : State :=
  match fail with
  | some r => answer s o.q o.tag r 0
  | none => answer s o.q o.tag okResult okDetail

/-! ## SEQ_CREATE (R96) -/

/-- Reserved fields of a SEQ_CREATE body. -/
def createFields (c : CmdWord) : Bool :=
  bits (cmdField c 34 1) 7 2 == 0 && cmdField c 39 1 == 0 && cmdField c 60 4 == 0

/-- The entry that SEQ_CREATE would make, from the body or from the sequence it forks. DESIGN CHOICE (log entry 115):
bits 63 to 52 of the body's SUM_VA, which the entry has no room for, are dropped. -/
def createEntry (s : State) (o : OpenCmd) (src : Option Seq) : Seq :=
  let c := o.cmd
  let part := partOf s o.q
  let kvfmt := (src.map (·.kvfmt)).getD (cmdField c 35 1)
  let heads := (src.map (·.heads)).getD (cmdField c 36 1)
  let layers := (src.map (·.layers)).getD (cmdField c 37 1)
  let hdim := (src.map (·.hdim)).getD (cmdField c 38 1)
  let z := (src.map (·.pageLog2)).getD (getF s (F.MMU_PART_KV_PAGE_LOG2 part))
  let maxTokens := (src.map (·.maxTokens)).getD (cmdField c 56 4)
  let p := (src.map (·.p)).getD (2 ^ z / kvRecord kvfmt (64 * (hdim + 1)))
  let base := bits (cmdField c 40 8) 51 0
  let n := layers * heads * ceilDiv maxTokens p
  { base := base, ctx := bits (cmdField c 40 8) 63 52, limit := base + n * 2 ^ z,
    sumVa := bits (cmdField c 48 8) 51 0, pos := (src.map (·.pos)).getD 0, maxTokens := maxTokens,
    kvfmt := kvfmt, sumEn := (cmdField c 34 1).testBit 1, heads := heads, layers := layers, hdim := hdim,
    p := p, pageLog2 := z, part := part, domain := getF s (F.MMU_PART_KV_DOMAIN part), node := none }

/-- The entry keeps *Table: Page-engine substatus codes and DETAIL*, LAYOUT. -/
def layoutOk (e : Seq) : Bool :=
  decide (e.kvfmt ≤ 5) && decide (1 ≤ e.heads) && decide (e.heads ≤ 64) && decide (1 ≤ e.layers) &&
    decide (e.layers ≤ 128) && decide (e.hdim ≤ 3) && decide (0 < e.maxTokens) && decide (0 < e.p) &&
    e.base % 2 ^ e.pageLog2 == 0 && decide (e.limit ≤ 2 ^ 52)

/-- The lowest-numbered free entry of the sequence table. -/
def freeSeq (s : State) : Option Nat :=
  (List.range (s.seqs.length + 1)).find? (fun n => (slook s.seqs n).isNone && decide (n < 65536))

/-- The pages that a sequence maps, with their indices. -/
def mappedPages (l : List (Nat × SlotInfo)) : List (Nat × Nat) := l.filterMap (fun x => x.2.page.map (fun p => (x.1, p)))

/-- Map the pages of a fork or a hit into the range, each with one more count. DESIGN CHOICE (log entry 117): a page that
a slot mapped before loses one. -/
def mapShared (s : State) (e : Seq) (slots : List (Nat × SlotInfo)) (pages : List (Nat × Nat)) : State :=
  pages.foldl (fun s p =>
    match slots.find? (fun x => x.1 == p.1) with
    | some x =>
      let s := share (mapPage s e p.1 x.2.slot p.2) p.2
      (match x.2.page with | some old => unshare s old | none => s)
    | none => s) s

/-- A count that one more share would take past 65,535 (R106). -/
def sharesFull (s : State) (pages : List Nat) : Bool :=
  pages.any (fun p => decide (65535 < pageRefs s p + pages.count p))

/-- SEQ_CREATE takes entry `n`, after every check and reservation. -/
def createNow (s : State) (o : OpenCmd) (n : Nat) (e : Seq) (src : Option Seq)
    (slots : List (Nat × SlotInfo)) (pages : List (Nat × Nat)) : State :=
  let node := src.bind (·.node)
  let s := { s with seqs := sins s.seqs n { e with node := node } }
  let s := match node with | some b => nodeRef s b | none => s
  let s := countOp (mapShared s e slots pages) e.part 27 pages.length
  let full := (pages.map (·.1)).filter (fun i => e.full e.pos (e.block i))
  let r := if e.sumEn then writeSummaries s e full else (s, none)
  answerOr r.1 o r.2 n

/-- The slots of the new range and their translation, then the summaries' (R95, step 3). -/
def createCheck (s : State) (o : OpenCmd) (n : Nat) (e : Seq) (src : Option Seq) (pages : List (Nat × Nat)) : State :=
  match slotsOf s e (pages.map (·.1)) with
  | (s, .error f) => let r := pageFault s f; answer r.1 o.q o.tag r.2 0
  | (s, .ok slots) =>
    let full := (pages.map (·.1)).filter (fun i => e.full e.pos (e.block i))
    match (if e.sumEn then checkSummaries s e full else (s, none)) with
    | (s, some r) => answer s o.q o.tag r 0
    | (s, none) => createNow s o n e src slots pages

/-- SEQ_CREATE (R96); its context must be valid (R83), whether or not a page is mapped (log entry 46). -/
def createWith (s : State) (o : OpenCmd) (src : Option Seq) : State :=
  let e := createEntry s o src
  if !layoutOk e then badPage s o 0x0301
  else if foreignCtx s o.q e.ctx then deny s o.q o.tag
  else if !getB s (F.MMU_CTX_VALID e.ctx) then
    let r := pageFault s (.ctxInvalid, e.base)
    answer r.1 o.q o.tag r.2 0
  else match freeSeq s with
    | none => answer s o.q o.tag (codeResult stTableFull 0) 0
    | some n =>
      match (match src with | some f => slotsOf s f (List.range f.pageCount) | none => (s, .ok [])) with
      | (s, .error f) => let r := pageFault s f; answer r.1 o.q o.tag r.2 0
      | (s, .ok old) =>
        let pages := mappedPages old
        if sharesFull s (pages.map (·.2)) then answer s o.q o.tag (codeResult stTableFull 0) 0
        else createCheck s o n e src pages

def seqCreate (s : State) (q tag : Nat) : State :=
  pageBegin s q tag 0x20 (fun s o =>
    if !createFields o.cmd then badPage s o 0x0306
    else if (cmdField o.cmd 34 1).testBit 0 then withSeq s o (cSeq o.cmd) (fun f => createWith s o (some f))
    else createWith s o none)

def execSeqCreate (q tag : Nat) (s : State) : Out :=
  onUnit (queueOk q) (inService s (memGate (.seqCreate q tag) (fun s => seqCreate s q tag)))

/-! ## APPEND (R97, R98) -/

def appendFields (c : CmdWord) : Bool :=
  bits (cFlags35 c) 7 1 == 0 && bits (cmdField c 48 2) 15 12 == 0 && cmdField c 50 14 == 0

/-- The page indices that an APPEND writes: every head, every block of the new positions. -/
def appendIdx (e : Seq) (layer n : Nat) : List Nat :=
  if n = 0 then [] else
    let b0 := e.pos / e.p
    let b1 := (e.pos + n - 1) / e.p
    (List.range e.heads).flatMap (fun h => (List.range (b1 + 1 - b0)).map (fun b => e.idx layer h (b0 + b)))

/-- An index whose slot needs a new page: unmapped, or shared (R98). -/
def needsPage (s : State) (x : SlotInfo) : Bool :=
  match x.page with
  | none => true
  | some p => decide (1 < pageRefs s p)

/-- Put a new page in place at an index: zero-filled, with the old page's records below POS (R94, R98). -/
def placePage (s : State) (e : Seq) (i : Nat) (x : SlotInfo) (new : Nat) : State × Bool :=
  let s := zeroPage s e new
  match x.page with
  | none => (mapPage s e i x.slot new, false)
  | some old =>
    let keep := min e.p (e.pos - e.block i * e.p)
    let r := copyPage s e.part old new (keep * e.recBytes)
    (countOp (unshare (mapPage r.1 e i x.slot new) old) e.part 28 1, r.2)

/-- Put every new page in place; whether a copied record was poisoned. -/
def placePages (s : State) (e : Seq) : List (Nat × SlotInfo) → List Nat → State × Bool
  | x :: xs, p :: ps =>
    let r := placePage s e x.1 x.2 p
    let r' := placePages r.1 e xs ps
    (r'.1, r.2 || r'.2)
  | _, _ => (s, false)

/-- BF16 elements of a byte list. -/
def halves (bs : List Byte) : List Half :=
  (List.range (bs.length / 2)).map (fun i => BitVec.ofNat 16 ((bs.getD (2 * i) 0).toNat + 256 * (bs.getD (2 * i + 1) 0).toNat))

/-- The record of one token and head. -/
def appendRecord (e : Seq) (src : List Half) (tok h : Nat) : List Byte :=
  let at_ := (tok * e.heads + h) * 2 * e.d
  kvEncode e.kvfmt e.d ((src.drop at_).take e.d) ++ kvEncode e.kvfmt e.d ((src.drop (at_ + e.d)).take e.d)

/-- Write the records of an APPEND; the first failure. -/
def writeRecords (s : State) (e : Seq) (layer : Nat) (src : List Half) (n : Nat) : State × Option Result :=
  ((List.range n).flatMap (fun t => (List.range e.heads).map (fun h => (t, h)))).foldl (fun acc th =>
    let pos := e.pos + th.1
    match slotOf acc.1 e (e.idx layer th.2 (pos / e.p)) with
    | (s, .ok { slot := _, page := some page }) =>
      let r := dpaWrite s e.part (page + pos % e.p * e.recBytes) (appendRecord e src th.1 th.2)
      (r.1, match acc.2 with | none => r.2 | some x => some x)
    | (s, _) => (s, acc.2)) (s, none)

/-- An APPEND after every check: pages, records, POS, summaries. Poison met at the destination or in a
copied page ends it ST_UE with POS in DETAIL (R97, R98). -/
def appendNow (s : State) (o : OpenCmd) (n : Nat) (e : Seq) (slots : List (Nat × SlotInfo)) (pages : List Nat)
    (src : List Half) : State :=
  let cnt := cN o.cmd
  let r := placePages s e (slots.filter (fun x => needsPage s x.2)) pages
  let w := writeRecords r.1 e (cLayer o.cmd) src cnt
  let pos := if (cFlags35 o.cmd).testBit 0 then e.pos + cnt else e.pos
  let u := setPos w.1 n e pos
  let bad : Result := { status := stUe, sub := 0, detail := pos }
  match w.2 with
  | some f => answer u.1 o.q o.tag (if f.status = stUe then bad else f) 0
  | none => if r.2 then answer u.1 o.q o.tag bad 0 else answerOr u.1 o u.2 pos

/-- The source of an APPEND, read and checked (R95, step 4). -/
def appendRead (s : State) (o : OpenCmd) (n : Nat) (e : Seq) (slots : List (Nat × SlotInfo)) (pages : List Nat)
    (s' : State) : State :=
  let r := vreadBytes s (cSrcCtx o.cmd) (cSrc o.cmd) (cN o.cmd * e.heads * 4 * e.d) .read
  match r.2.fail with
  | some f => answer r.1 o.q o.tag f 0
  | none =>
    let src := halves r.2.bytes
    if r.2.poison then answer r.1 o.q o.tag (codeResult stUe 0) 0
    else if src.any (fun h => nonfinite (decBF16 h)) then badPage r.1 o 0x0305
    else
      let t := { r.1 with pages := s'.pages, poolLast := s'.poolLast }
      let t := countOp t e.part 26 pages.length
      appendNow t o n e slots pages src

/-- The page indices whose summaries POS at `pos` makes due: newly full, and mapped now or by this command. -/
def summariesDue (s : State) (e : Seq) (mapped : List Nat) (pos : Nat) : List Nat :=
  (newlyFull e e.pos pos).filter (fun i => mapped.contains i ||
    (match (slotOf s e i).2 with | .ok x => x.page.isSome | .error _ => false))

/-- Translate what an APPEND reads and writes: its source, its slots, its summaries (R95, step 3). -/
def appendCheck (s : State) (o : OpenCmd) (n : Nat) (e : Seq) (slots : Except (XFault × Nat) (List (Nat × SlotInfo)))
    (pages : List Nat) (s' : State) : State :=
  match checkRange s (cSrcCtx o.cmd) (cSrc o.cmd) (cN o.cmd * e.heads * 4 * e.d) .read with
  | (s, some r) => answer s o.q o.tag r 0
  | (s, none) =>
    match slots with
    | .error f => let r := pageFault s f; answer r.1 o.q o.tag r.2 0
    | .ok l =>
      let adv := (cFlags35 o.cmd).testBit 0 && e.sumEn
      match (if adv then checkSummaries s e (summariesDue s e (l.map (·.1)) (e.pos + cN o.cmd)) else (s, none)) with
      | (s, some r) => answer s o.q o.tag r 0
      | (s, none) => appendRead s o n e l pages s'

/-- Reserve the pages of an APPEND (R95, step 2). -/
def appendReserve (s : State) (o : OpenCmd) (n : Nat) (e : Seq) : State :=
  let r := slotsOf s e (appendIdx e (cLayer o.cmd) (cN o.cmd))
  let need := match r.2 with | .ok l => (l.filter (fun x => needsPage s x.2)).length | .error _ => 0
  match takeMany (fun s => takePage s e.part) need r.1 with
  | none => answer r.1 o.q o.tag (codeResult stPageExhausted 0) 0
  | some (s', pages) => appendCheck r.1 o n e r.2 pages s'

def append (s : State) (q tag : Nat) : State :=
  pageBegin s q tag 0x21 (fun s o =>
    if !appendFields o.cmd then badPage s o 0x0306
    else withSeq s o (cSeq o.cmd) (fun e =>
      if foreignCtx s q (cSrcCtx o.cmd) then deny s q tag
      else if decide (e.maxTokens < e.pos + cN o.cmd) || decide (e.layers ≤ cLayer o.cmd) then badPage s o 0x0302
      else if cN o.cmd == 0 && ctxDead s (cSrcCtx o.cmd) then ctxFault s q tag
      else appendReserve s o (cSeq o.cmd) e))

def execAppend (q tag : Nat) (s : State) : Out :=
  onUnit (queueOk q) (inService s (memGate (.append q tag) (fun s => append s q tag)))

/-! ## PREFIX_LOOKUP (R103) -/

/-- Reserved fields of PREFIX_LOOKUP; PREFIX_INSERT has HOLD beside. -/
def lookupFields (c : CmdWord) (flags : Nat) : Bool :=
  cLayer c == 0 && cFlags35 c &&& (255 - flags) == 0 && bits (cmdField c 48 2) 15 12 == 0 && cmdField c 50 14 == 0

/-- Whole blocks within N. -/
def wholeBlocks (e : Seq) (c : CmdWord) : Nat := cN c / e.p

/-- Read the token IDs of whole blocks, after their translation; a failure completes the command. -/
def readTokens (s : State) (o : OpenCmd) (bytes : Nat) (f : State → List Byte → State) : State :=
  if bytes == 0 && ctxDead s (cSrcCtx o.cmd) then ctxFault s o.q o.tag
  else match checkRange s (cSrcCtx o.cmd) (cSrc o.cmd) bytes .read with
  | (s, some r) => answer s o.q o.tag r 0
  | (s, none) =>
    let r := vreadBytes s (cSrcCtx o.cmd) (cSrc o.cmd) bytes .read
    match r.2.fail with
    | some x => answer r.1 o.q o.tag x 0
    | none => if r.2.poison then answer r.1 o.q o.tag (codeResult stUe 0) 0 else f r.1 r.2.bytes

/-- The nodes that match blocks 0, 1, 2 and so on, up to the first miss. -/
def matchBlocks (s : State) (e : Seq) (parent : Option Nat) : List DWord → List Nat
  | [] => []
  | h :: t =>
    match findNode s e h parent with
    | some b => b :: matchBlocks s e (some b) t
    | none => []

/-- The page indices and pages that the hits map. -/
def hitPages (s : State) (e : Seq) (hits : List Nat) : List (Nat × Nat) :=
  hits.zipIdx.flatMap (fun x =>
    let pages := match slook s.nodes x.1 with | some n => n.pages | none => []
    pages.zipIdx.map (fun p => (p.2 * e.nblk + x.2, p.1)))

/-- PREFIX_LOOKUP maps the hits and sets POS. -/
def lookupNow (s : State) (o : OpenCmd) (n : Nat) (e : Seq) (hits : List Nat) (slots : List (Nat × SlotInfo))
    (pages : List (Nat × Nat)) : State :=
  let s := countOp (mapShared s e slots pages) e.part 27 pages.length
  match hits.getLast? with
  | none => answer s o.q o.tag okResult 0
  | some b =>
    let s := setNode s n e (some b)
    let u := setPos s n { e with node := some b } (e.p * hits.length)
    answerOr u.1 o u.2 (e.p * hits.length)

def lookupCheck (s : State) (o : OpenCmd) (n : Nat) (e : Seq) (toks : List Byte) : State :=
  let hits := matchBlocks s e none (blockHashes s e toks (wholeBlocks e o.cmd) 0)
  let pages := hitPages s e hits
  if sharesFull s (pages.map (·.2)) then answer s o.q o.tag (codeResult stTableFull 0) 0
  else match slotsOf s e (pages.map (·.1)) with
    | (s, .error f) => let r := pageFault s f; answer r.1 o.q o.tag r.2 0
    | (s, .ok slots) =>
      match (if e.sumEn then checkSummaries s e (summariesDue s e (pages.map (·.1)) (e.p * hits.length)) else (s, none)) with
      | (s, some r) => answer s o.q o.tag r 0
      | (s, none) => lookupNow s o n e hits slots pages

/-- DESIGN CHOICE (log entry 55): NOT_EMPTY is tested before RANGE. -/
def prefixLookup (s : State) (q tag : Nat) : State :=
  pageBegin s q tag 0x22 (fun s o =>
    if !lookupFields o.cmd 0 then badPage s o 0x0306
    else withSeq s o (cSeq o.cmd) (fun e =>
      if foreignCtx s q (cSrcCtx o.cmd) then deny s q tag
      else if e.pos ≠ 0 then badPage s o 0x0303
      else if e.maxTokens < cN o.cmd then badPage s o 0x0302
      else readTokens s o (4 * e.p * wholeBlocks e o.cmd) (fun s toks => lookupCheck s o (cSeq o.cmd) e toks)))

def execPrefixLookup (q tag : Nat) (s : State) : Out :=
  onUnit (queueOk q) (inService s (memGate (.prefixLookup q tag) (fun s => prefixLookup s q tag)))

/-! ## PREFIX_INSERT (R104) -/

/-- The pages of a block, one for every layer and head; none when one was never appended. -/
def blockPages (e : Seq) (slots : List (Nat × SlotInfo)) (b : Nat) : Option (List Nat) :=
  (List.range (e.layers * e.heads)).mapM (fun i =>
    (slots.find? (fun x => x.1 == i * e.nblk + b)).bind (fun x => x.2.page))

/-- The first free bucket that a hash probes. -/
def freeBucket (s : State) (h : DWord) : Option Nat := (probes s h).find? (fun b => (slook s.nodes b).isNone)

/-- Create a node for a block; none when no bucket, vector slot or page count is left. -/
def makeNode (s : State) (e : Seq) (h : DWord) (parent : Option Nat) (depth : Nat) (hold : Bool)
    (pages : List Nat) : Option (State × Nat) :=
  match freeBucket s h, freeVec s pages.length with
  | some b, some v =>
    if sharesFull s pages then none
    else
      let node : Node := { hash := h, parent := parent, vec := v, layout := e.layoutWord, refs := hold.toNat,
                           domain := e.domain, hold := hold, depth := depth, pages := pages }
      let s := { s with nodes := sins s.nodes b node }
      let s := match parent with | some p => nodeRef s p | none => s
      some (forEach pages s share, b)
  | _, _ => none

/-- Insert blocks in ascending order; the nodes created are counted. -/
def insertBlocks (s : State) (e : Seq) (hold : Bool) (made : Nat) (parent : Option Nat) :
    List (DWord × List Nat × Nat) → Option (State × Nat × Option Nat)
  | [] => some (s, made, parent)
  | (h, pages, depth) :: t =>
    match findNode s e h parent with
    | some b => insertBlocks s e hold made (some b) t
    | none =>
      match makeNode s e h parent depth hold pages with
      | none => none
      | some (s, b) => insertBlocks s e hold (made + 1) (some b) t

def insertNow (s : State) (o : OpenCmd) (n : Nat) (e : Seq) (blocks : List (DWord × List Nat × Nat)) : State :=
  match insertBlocks s e ((cFlags35 o.cmd).testBit 0) 0 none blocks with
  | none => answer s o.q o.tag (codeResult stTableFull 0) 0
  | some (s, made, last) =>
    match last with
    | none => answer s o.q o.tag okResult (made + 0xFFFFFFFF * 2 ^ 32)
    | some b => answer (setNode s n e (some b)) o.q o.tag okResult (made + b * 2 ^ 32)

def insertCheck (s : State) (o : OpenCmd) (n : Nat) (e : Seq) (toks : List Byte) : State :=
  let cnt := wholeBlocks e o.cmd
  let idx := (List.range (e.layers * e.heads)).flatMap (fun i => (List.range cnt).map (fun b => i * e.nblk + b))
  match slotsOf s e idx with
  | (s, .error f) => let r := pageFault s f; answer r.1 o.q o.tag r.2 0
  | (s, .ok slots) =>
    match (List.range cnt).mapM (blockPages e slots) with
    | none => badPage s o 0x0304
    | some pages => insertNow s o n e ((blockHashes s e toks cnt 0).zip pages.zipIdx)

def prefixInsert (s : State) (q tag : Nat) : State :=
  pageBegin s q tag 0x23 (fun s o =>
    if !lookupFields o.cmd 1 then badPage s o 0x0306
    else withSeq s o (cSeq o.cmd) (fun e =>
      if foreignCtx s q (cSrcCtx o.cmd) then deny s q tag
      else if e.pos < cN o.cmd then badPage s o 0x0304
      else readTokens s o (4 * e.p * wholeBlocks e o.cmd) (fun s toks => insertCheck s o (cSeq o.cmd) e toks)))

def execPrefixInsert (q tag : Nat) (s : State) : Out :=
  onUnit (queueOk q) (inService s (memGate (.prefixInsert q tag) (fun s => prefixInsert s q tag)))

/-! ## MIGRATE (R109) -/

def migrateFields (c : CmdWord) : Bool := cmdField c 44 20 == 0

/-- The page indices of a block range in one layer, every head. -/
def migrateIdx (e : Seq) (c : CmdWord) : List Nat :=
  (List.range e.heads).flatMap (fun h => (List.range (cmdField c 40 4)).map (fun b => e.idx (cLayer c) h (cN c + b)))

/-- Move eligible pages to their new pages. -/
def movePages (s : State) (e : Seq) : List (Nat × SlotInfo) → List Nat → State
  | x :: xs, p :: ps =>
    match x.2.page with
    | some old => movePages (movePage s e x.1 x.2.slot old p) e xs ps
    | none => movePages s e xs ps
  | _, _ => s

def migrateNow (s : State) (o : OpenCmd) (e : Seq) : State :=
  match slotsOf s e (migrateIdx e o.cmd) with
  | (s, .error f) => let r := pageFault s f; answer r.1 o.q o.tag r.2 0
  | (s, .ok slots) =>
    let l := slots.filter (fun x => (movable s e x.1 x.2).isSome)
    let target := cmdField o.cmd 35 1
    let pick (s : State) := if target = 0xFF then takePage s e.part else takeFrom s e.part target
    match takeMany pick l.length s with
    | none => answer s o.q o.tag (codeResult stPageExhausted 0) 0
    | some (s, pages) => answer (movePages s e l pages) o.q o.tag okResult l.length

def migrate (s : State) (q tag : Nat) : State :=
  pageBegin s q tag 0x24 (fun s o =>
    if !migrateFields o.cmd then badPage s o 0x0306
    else withSeq s o (cSeq o.cmd) (fun e =>
      let target := cmdField o.cmd 35 1
      if decide (e.layers ≤ cLayer o.cmd) || decide (e.nblk < cN o.cmd + cmdField o.cmd 40 4) ||
          (decide (7 < target) && target != 0xFF) then badPage s o 0x0302
      else migrateNow s o e))

def execMigrate (q tag : Nat) (s : State) : Out :=
  onUnit (queueOk q) (inService s (memGate (.migrate q tag) (fun s => migrate s q tag)))

/-! ## RELEASE and SEQ_DESTROY (R99, R105) -/

def releaseFields (c : CmdWord) : Bool := cLayer c == 0 && bits (cFlags35 c) 7 1 == 0 && cmdField c 44 20 == 0

/-- Unmap the mapped pages among slots; each loses a count. -/
def unmapAll (s : State) (e : Seq) (slots : List (Nat × SlotInfo)) : State :=
  slots.foldl (fun s x => match x.2.page with
    | some p => unshare (unmapPage s e x.1 x.2.slot) p
    | none => s) s

/-- RELEASE with NODE = 1 clears HOLD. -/
def releaseNode (s : State) (o : OpenCmd) : State :=
  let b := cmdField o.cmd 40 4
  match slook s.nodes b with
  | some n =>
    let t := if n.hold then dropRef { s with nodes := sins s.nodes b { n with hold := false } } (some b) else s
    answer t o.q o.tag okResult 0
  | none => answer s o.q o.tag okResult 0

/-- Where the node reference of a sequence goes when POS becomes `pos`. -/
def releaseRef (s : State) (n : Nat) (e : Seq) (pos : Nat) : State :=
  match e.node with
  | none => s
  | some b =>
    let depth := match slook s.nodes b with | some x => x.depth | none => 0
    if pos < e.p then setNode s n e none
    else if pos < e.p * (depth + 1) then setNode s n e (ancestor s (pos / e.p - 1) (s.nodes.length + 1) b)
    else s

/-- RELEASE with NODE = 0: pages from NEW_POS on are unmapped; a missing table ends it (log entry 116). -/
def releasePos (s : State) (o : OpenCmd) (n : Nat) (e : Seq) : State :=
  let pos := cN o.cmd
  let idx := (List.range e.pageCount).filter (fun i => decide (pos ≤ e.block i * e.p))
  match slotsOf s e idx with
  | (s, .error f) => let r := pageFault s f; answer r.1 o.q o.tag r.2 0
  | (s, .ok slots) =>
    let e' := { e with pos := pos }
    let s := { s with seqs := sins s.seqs n e' }
    let s := releaseRef (unmapAll s e slots) n e' pos
    answer s o.q o.tag okResult (mappedPages slots).length

def release (s : State) (q tag : Nat) : State :=
  pageBegin s q tag 0x25 (fun s o =>
    if !releaseFields o.cmd then badPage s o 0x0306
    else withSeq s o (cSeq o.cmd) (fun e =>
      if (cFlags35 o.cmd).testBit 0 then releaseNode s o
      else if e.pos < cN o.cmd then badPage s o 0x0302
      else releasePos s o (cSeq o.cmd) e))

def execRelease (q tag : Nat) (s : State) : Out :=
  onUnit (queueOk q) (inService s (memGate (.release q tag) (fun s => release s q tag)))

/-- SEQ_DESTROY unmaps every page; a missing table ends it (log entry 116). -/
def destroyNow (s : State) (o : OpenCmd) (n : Nat) (e : Seq) : State :=
  match slotsOf s e (List.range e.pageCount) with
  | (s, .error f) => let r := pageFault s f; answer r.1 o.q o.tag r.2 0
  | (s, .ok slots) =>
    let s := unmapAll s e slots
    let s := dropRef { s with seqs := sdel s.seqs n } e.node
    answer s o.q o.tag okResult (mappedPages slots).length

def seqDestroy (s : State) (q tag : Nat) : State :=
  pageBegin s q tag 0x26 (fun s o =>
    if cmdField o.cmd 34 30 ≠ 0 then badPage s o 0x0306
    else withSeq s o (cSeq o.cmd) (fun e => destroyNow s o (cSeq o.cmd) e))

def execSeqDestroy (q tag : Nat) (s : State) : Out :=
  onUnit (queueOk q) (inService s (memGate (.seqDestroy q tag) (fun s => seqDestroy s q tag)))

/-! ## PAGE_RETURN and THERMAL_STEERING (R110, R111) -/

/-- A page, by DPA[36:14], returns to its pool, or is withheld from it (R112). -/
def pageReturn (s : State) (n : Nat) : State :=
  match slook s.pages n with
  | none => s
  | some u =>
    if mayReturn s u then
      let part := match pageOfDpa s (n * 2 ^ 14) with | some (g, _) => g.part | none => 0
      tablesOut s (if u.withhold then quarantine s (n * 2 ^ 14) else { s with pages := sdel s.pages n }) part
    else s

def execPageReturn (n : Nat) (s : State) : Out :=
  onUnit (pageOk n) (inService s (memGate (.pageReturn n) (fun s => pageReturn s n)))

/-- The governing temperature of a logical layer. -/
def layerTemp (s : State) (l : Nat) : Int := getI s (F.THM_LAYER_GOVERN (getF s (layerFld l)))

/-- The coolest layer that is not hot and has a free page of a partition. -/
def coolest (s : State) (p : Nat) : Option Nat :=
  ((List.range 8).foldl (fun (acc : Option (Nat × Int)) l =>
    if layerHot s l || poolFree s p l == 0 then acc
    else match acc with
      | none => some (l, layerTemp s l)
      | some (_, t) => if layerTemp s l < t then some (l, layerTemp s l) else acc) none).map (·.1)

/-- The steering moves of the last ms. -/
def steeredNow (s : State) : List Nat := s.steered.filter (fun t => decide (s.time < t + 1000000))

/-- Move the page of an index out of a hot layer (R111). -/
def steer (s : State) (n i : Nat) : State :=
  match getSeq s n with
  | none => s
  | some e =>
    if i < e.pageCount then
      match slotOf (countSlot s e i) e i with
      | (s, .error _) => s
      | (s, .ok x) =>
        match movable s e i x with
        | none => s
        | some p =>
          if layerHot s (dpaLayer p) then
            match (coolest s e.part).bind (takeFrom s e.part) with
            | some (t, new) => tablesOut s { movePage t e i x.slot p new with steered := s.time :: steeredNow s } e.part
            | none => s
          else s
    else s

/-- Thermal steering is on, and fewer than RATE pages have moved within the last ms. -/
def steering (s : State) : Bool :=
  getB s F.MMU_STEER_CTRL_EN && decide ((steeredNow s).length < getF s F.MMU_STEER_CTRL_RATE)

def execThermalSteering (n i : Nat) (s : State) : Out :=
  onUnit (seqOk n) (inService s (memGate (.thermalSteering n i) (fun s => if steering s then steer s n i else s)))

end Sys2Proof.Machine
end

