-- ==== Sys2Proof/Machine/Packets.lean ====
section
/-! DEFINITION. The tag header of a packet (R41). -/

namespace Sys2Proof.Machine

/-- Fields of a tag header (*Table: Tag header (128 bits)*). -/
def thField (th : TagHeader) (hi lo : Nat) : Nat := bits th.toNat hi lo
def thPart (p : Packet) : Nat := thField p.th 3 0
def thClass (p : Packet) : Nat := thField p.th 7 4
def thQueue (p : Packet) : Nat := thField p.th 17 8
def thTag (p : Packet) : Nat := thField p.th 39 24
def thSrc (p : Packet) : Nat := thField p.th 63 40
def thDst (p : Packet) : Nat := thField p.th 87 64
def thSeq (p : Packet) : Nat := thField p.th 111 88
/-- TH.FLAGS bits: 0 LAST, 1 FAIL, 2 POISON, 3 EXPRESS, 4 THROTTLED, 5 MARK. -/
def thFlag (p : Packet) (i : Nat) : Bool := p.th.toNat.testBit (112 + i)
def setThFlag (p : Packet) (i : Nat) : Packet := { p with th := p.th ||| BitVec.ofNat 128 (2 ^ (112 + i)) }

/-- A tag header from its fields. -/
def mkTh (part cls q tag src dst seq flags : Nat) : TagHeader :=
  BitVec.ofNat 128 (part % 2 ^ 4 + cls % 2 ^ 4 * 2 ^ 4 + q % 2 ^ 10 * 2 ^ 8 + tag % 2 ^ 16 * 2 ^ 24 +
    src % 2 ^ 24 * 2 ^ 40 + dst % 2 ^ 24 * 2 ^ 64 + seq % 2 ^ 24 * 2 ^ 88 + flags % 2 ^ 16 * 2 ^ 112)

/-- The flags of a header. -/
def flagBits (last fail poison express throttled mark : Bool) : Nat :=
  last.toNat + 2 * fail.toNat + 4 * poison.toNat + 8 * express.toNat + 16 * throttled.toNat + 32 * mark.toNat

/-- A device ID and a unit number in a header. -/
def devUnit (dev unit : Nat) : Nat := dev * 4096 + unit

/-- The device ID of a packet's source and destination. -/
def srcDev (p : Packet) : Nat := thSrc p / 4096
def dstDev (p : Packet) : Nat := thDst p / 4096

/-- The own device ID. -/
def ownDev (s : State) : Nat := getF s F.LNK_DEVID_DEVID

end Sys2Proof.Machine
end

