-- ==== Sys2Proof/Machine/Reset.lean ====
section
/-! DEFINITION. What power removal, a power-on reset and a device warm reset leave (R81, R154, R305,
R330, R356), and the stages of the luthier (*Table: Luthier stages*). -/

namespace Sys2Proof.Machine

/-- The register fields of the always-on domain and of the fuses, and those that R305 names: they
survive a device warm reset (log entry 7). -/
def keptAtWarm : List Fld :=
  [F.LUT_CFG_FULL_TRAIN, F.GLB_HALT_CAUSE_CAUSE, F.GLB_HALT_CAUSE_UNIT, F.GLB_ID, F.GLB_SERIAL, F.GLB_STEP,
   F.GLB_FUSE_SIGN, F.GLB_SLOT, F.MGT_STATUS_DYN_ADDR, F.MGT_STATUS_LEGACY, F.MGT_STATUS_PEC_ERRS,
   F.MGT_ALERT_PENDING, F.MGT_ALERT_ENABLE, F.MGT_ALERT_MIN_SEV, F.LUT_STAGE_STATUS 0, F.LUT_STAGE_DURATION 0,
   F.LUT_STAGE_TESTED 0, F.LUT_STAGE_FAILED 0, F.LUT_STAGE_SPARED 0, F.LUT_STAGE_EVENTS 0,
   F.LUT_STAGE_FF_KIND 0, F.LUT_STAGE_FF_INDEX 0, F.NVM_STATUS_BUSY, F.NVM_STATUS_SOURCE] ++
  (List.range 8).map F.MGT_EVT_LAST

/-- The register fields after a device warm reset. -/
def warmFields (s : State) : Sparse Nat :=
  keptAtWarm.foldl (fun m f => sput f.reset m f.key (getF s f)) []

/-- The inputs that the filters of R327 hold read on. -/
def keepInput (s t : State) : State :=
  setB (setB (setB t F.EVT_INPUT_THROTTLE (getB s F.EVT_INPUT_THROTTLE))
    F.EVT_INPUT_THR_STUCK (getB s F.EVT_INPUT_THR_STUCK))
    F.EVT_INPUT_THR_CHATTER (getB s F.EVT_INPUT_THR_CHATTER)

/-- The state in which stage `n` of bring-up begins after everything but the always-on domain, the
fuses, the flash, the pins and the host has been reset. -/
def warmState (s : State) : State :=
  { State.reset with
    pending := s.pending, time := s.time, freeCtr := s.freeCtr, memEpoch := s.memEpoch + 1,
    fields := warmFields s, power := s.power, pins := s.pins,
    pcie := { Pcie.zero with msix := s.pcie.msix }, mgmt := s.mgmt, hostMem := s.hostMem, hostPoison := s.hostPoison,
    flash := s.flash, flashOp := s.flashOp, fuses := s.fuses, throttle := s.throttle,
    luthier := { Luthier.zero with t0 := s.time, tStage := s.time } }

/-- A device warm reset: all work stops, memory is lost, and the luthier begins stage 1 (R305). -/
def warmReset (s : State) : State :=
  setF (setF (keepInput s (warmState s)) F.LUT_STATE_STAGE 1) (F.LUT_STAGE_STATUS 1) 1

/-- A device warm reset request: a thermal trip keeps the device halted until its own condition (R285). -/
def warmRequest (s : State) : State := if s.pins.thermtrip then s else warmReset s

/-- Bytes of flash under a command that power removal cut short are undefined. -/
def cutFlash (s : State) : State :=
  match s.flashOp with
  | none => s
  | some o =>
    let n := if o.erase then 65536 else o.bytes.length
    { s with flashOp := none, freeCtr := s.freeCtr + n,
             flash := (List.range n).foldl (fun m i =>
               sput 0xFF#8 m (o.addr + i) ((Config.freeWord (s.freeCtr + i)).setWidth 8)) s.flash }

/-- Power is removed from everything but the J5 bank, the fuses and the flash. -/
def removePower (s : State) (p : Power) : State :=
  let s := cutFlash s
  { State.reset with
    pending := s.pending, freeCtr := s.freeCtr, memEpoch := s.memEpoch + 1, power := p,
    pins := { s.pins with pwrGood := false, thermtrip := false },
    pcie := { Pcie.zero with msix := s.pcie.msix }, hostMem := s.hostMem, hostPoison := s.hostPoison, flash := s.flash,
    fuses := { s.fuses with read := false }, throttle := { s.throttle with since := 0, edges := [] } }

/-- The block as stage 0 of bring-up begins (R305, R355). -/
def powerUp (s : State) (slot : BitVec 4) : State :=
  let t := setB (removePower s .on) F.EVT_INPUT_THROTTLE s.throttle.level
  let t := { t with pins := { t.pins with pwrGood := true, slotId := slot } }
  setF (setF t F.GLB_SLOT slot.toNat) (F.LUT_STAGE_STATUS 0) 1

/-- The present stage. -/
def stage (s : State) : Nat := getF s F.LUT_STATE_STAGE

/-- Tenths of a millisecond since a time. -/
def tenths (s : State) (t0 : Nat) : Nat := min ((s.time - t0) / 100000) 65535

/-- Fill the counts of a stage's report: units tested, failed, spared, and the first failing unit. -/
def stageReport (s : State) (n tested failed spared : Nat) (first : Option (Nat × Nat)) : State :=
  let s := setF s (F.LUT_STAGE_TESTED n) (min tested 65535)
  let s := setF s (F.LUT_STAGE_FAILED n) (min failed 65535)
  let s := setF s (F.LUT_STAGE_SPARED n) (min spared 65535)
  match first with
  | some (k, i) => setF (setF s (F.LUT_STAGE_FF_KIND n) k) (F.LUT_STAGE_FF_INDEX n) i
  | none => s

/-- A stage ends: it passed, degraded or not, and the next one begins. -/
def stageEnd (s : State) (n : Nat) (degraded : Bool) : State :=
  let s := setF s (F.LUT_STAGE_STATUS n) (if degraded then 3 else 2)
  let s := setF s (F.LUT_STAGE_DURATION n) (tenths s s.luthier.tStage)
  let s := { s with luthier := { s.luthier with tStage := s.time } }
  if n < 8 then setF (setF s F.LUT_STATE_STAGE (n + 1)) (F.LUT_STAGE_STATUS (n + 1)) 1 else s

/-- Bring-up halts at a stage (R295, *Table: Luthier stages*). -/
def stageHalt (s : State) (n : Nat) (first : Option (Nat × Nat)) : State :=
  let s := (match first with
    | some (k, i) => setF (setF s (F.LUT_STAGE_FF_KIND n) k) (F.LUT_STAGE_FF_INDEX n) i
    | none => s)
  let s := setF s (F.LUT_STAGE_STATUS n) 4
  let s := setF s (F.LUT_STAGE_DURATION n) (tenths s s.luthier.tStage)
  let s := setF s F.LUT_TIME_TOTAL (tenths s s.luthier.t0)
  enterHalted s 1 0

end Sys2Proof.Machine
end

