-- ==== Sys2Proof/Machine/Noc.lean ====
section
/-! DEFINITION. The NoC: routes, packets at router outputs, route changes in service, the distance table
and fall-back mode (R206 to R215, R223). -/

namespace Sys2Proof.Machine

/-! ## The mesh -/

/-- The router beyond a mesh link: north is row − 1, east is grid column − 1. -/
def neighbour (r d : Nat) : Option Nat :=
  if meshOk r d then
    match d with
    | 0 => some (r - 8)
    | 1 => some (r - 1)
    | 2 => some (r + 8)
    | _ => some (r + 1)
  else none

/-- The opposite direction. -/
def opposite (d : Nat) : Nat := (d + 2) % 4

/-- A bypassed router (R210). -/
def bypassed (s : State) (r : Nat) : Bool := getF s (F.NOC_ROUTER_STATE r) != 0

/-- A failed mesh link (R212). -/
def meshFailed (s : State) (r d : Nat) : Bool := getF s (F.NOC_LINK_FAIL (4 * r + d)) != 0

/-- A hop that routes may take: over a good link into a router that forwards. -/
def hopTo (s : State) (r d : Nat) : Option Nat :=
  match neighbour r d with
  | some n => if meshFailed s r d || bypassed s n then none else some n
  | none => none

/-- Manhattan distance of two sites. -/
def manhattan (a b : Nat) : Nat := (a / 8 - b / 8) + (b / 8 - a / 8) + ((a % 8 - b % 8) + (b % 8 - a % 8))

/-! ## Routes (R210, R211): shortest paths under the west-first turn model -/

/-- What a router's table says of one destination: the hops, the direction, and whether no west hop is left. -/
structure RouteTo where
  hops : Nat
  dir : Nat
  free : Bool
  deriving DecidableEq, Repr

/-- The entries towards one destination, by router. -/
abbrev Toward := List (Option RouteTo)

/-- The entry of a router by one of the hops that routes may take. A hop other than west must meet a route
without a west hop, since one entry serves the packets of every source (R210). -/
def hopEntry (s : State) (t : Toward) (r d : Nat) : Option RouteTo :=
  match hopTo s r d with
  | none => none
  | some n =>
    match t.getD n none with
    | none => none
    | some e => if d = 3 then some { hops := e.hops + 1, dir := 3, free := false }
      else if e.free then some { hops := e.hops + 1, dir := d, free := true } else none

/-- One round: each router without an entry takes one by a neighbour that has it. Of equal paths the one
that goes on without a west hop, then east, north, south (log entry 30). -/
def spread (s : State) (t : Toward) : Toward :=
  (List.range 72).map (fun r =>
    match t.getD r none with
    | some e => some e
    | none => if bypassed s r then none else [1, 0, 2, 3].findSome? (hopEntry s t r))

/-- Apply a function `n` times. -/
def times {α : Type} (n : Nat) (f : α → α) (a : α) : α := (List.range n).foldl (fun a _ => f a) a

/-- The shortest routes towards a destination, grown from it a hop a round; an acceptable path has at most 17
hops (R211). -/
def toward (s : State) (d : Nat) : Toward :=
  times 17 (spread s) ((List.range 72).map (fun r =>
    if r = d && !bypassed s d then some { hops := 0, dir := 4, free := true } else none))

/-- Whether a path from a router is at most 2 hops longer than the Manhattan distance (R211). -/
def acceptable (e : RouteTo) (r d : Nat) : Bool := decide (e.hops ≤ manhattan r d + 2)

/-- The key of a router's entry for a destination. -/
def routeKey (r d : Nat) : Nat := 72 * r + d

/-- The route entries towards one destination. -/
def routesTo (s : State) (d : Nat) : List (Nat × Nat) :=
  (toward s d).zipIdx.filterMap (fun x =>
    match x.1 with
    | some e => if x.2 != d && acceptable e x.2 d then some (routeKey x.2 d, e.dir) else none
    | none => none)

/-- Fill the route tables of every router: an entry for each destination site (R210). -/
def fillRoutes (s : State) : State :=
  { s with routes := (List.range 72).foldl (fun m d =>
      (routesTo s d).foldl (fun m p => sins m p.1 p.2) m) [] }

/-- The route entry of a router for a destination. -/
def routeHop (s : State) (r d : Nat) : Option Nat := slook s.routes (routeKey r d)

/-- The routers of the route in use from one site to another, after its start; none without a route. -/
def routePath (s : State) (n : Nat) (r d : Nat) : Option (List Nat) :=
  match n with
  | 0 => if r = d then some [] else none
  | n + 1 =>
    if r = d then some []
    else match routeHop s r d with
      | some h => (match neighbour r h with
        | some x => (routePath s n x d).map (x :: ·)
        | none => none)
      | none => none

/-- The route in use between two sites. -/
def route (s : State) (a b : Nat) : Option (List Nat) := routePath s 18 a b

/-! ## The distance table (R213) -/

/-- NoC clock step of a half. -/
def halfStep (s : State) (h : Nat) : Nat := getF s (F.CLK_HALF_CUR_STEP h)

/-- Entry of a route of `h` hops, in 0.25 ns units: 1.5 ns, and 0.4 ns a hop and 0.5 ns for the seam,
which scale with the slower half that the route runs through. -/
def distOf (s : State) (a : Nat) (path : List Nat) : Nat :=
  let halves := (a :: path).map halfOf
  let step := max 1 ((halves.map (halfStep s)).foldl min 80)
  let c := if halves.contains 0 && halves.contains 1 then 1 else 0
  ceilDiv (30 * step + (8 * path.length + 10 * c) * 80) (5 * step)

/-- Rewrite the distance table and increment its generation (R213). -/
def writeDist (s : State) : State :=
  let gen := getF s F.NOC_DIST_GEN
  let s := forEach (List.range 72) s (fun s a => forEach (List.range 72) s (fun s b =>
    setF s (F.NOC_DIST a b) (match route s a b with
      | some p => distOf s a p
      | none => Config.unroutedDist gen (72 * a + b))))
  wrapF s F.NOC_DIST_GEN 1

/-! ## Fall-back mode (R214) -/

/-- ROW: more than 2 routers of a row are bypassed. -/
def rowTrigger (s : State) : Bool :=
  (List.range 9).any (fun i => decide (2 < ((List.range 8).filter (fun c => bypassed s (8 * i + c))).length))

/-- SEAM: a seam link runs at half width or has failed. -/
def seamTrigger (s : State) : Bool := (List.range 9).any (fun i => getF s (F.NOC_SEAM_WIDTH i) != 0)

/-- The trigger bits as NOC_FALLBACK places them. -/
def triggerBits (s : State) : Nat :=
  (getB s F.NOC_FALLBACK_HALF).toNat + 2 * (getB s F.NOC_FALLBACK_ROW).toNat +
    4 * (getB s F.NOC_FALLBACK_SEAM).toNat + 256 * (getB s F.NOC_FALLBACK_FORCE).toNat

/-- Raise FALLBACK: AUX 1 on entry, 0 on exit. -/
def raiseFallback (s : State) (aux : Nat) : State := raiseEv s 0x5005 sevWarn none 0 0 aux (triggerBits s)

/-- Evaluate the triggers: the NoC enters fall-back mode while one holds; from the moment that the last
one clears, the 100 µs of its exit run. -/
def fallback (s : State) : State :=
  let s := setB s F.NOC_FALLBACK_HALF (halfStep s 0 != halfStep s 1)
  let s := setB (setB s F.NOC_FALLBACK_ROW (rowTrigger s)) F.NOC_FALLBACK_SEAM (seamTrigger s)
  if triggerBits s ≠ 0 then
    let s := { s with fallbackClear := none }
    if getB s F.NOC_STATUS_FALLBACK then s
    else raiseFallback (incF (setB s F.NOC_STATUS_FALLBACK true) F.NOC_FB_CNT) 1
  else if getB s F.NOC_STATUS_FALLBACK && s.fallbackClear.isNone then
    { s with fallbackClear := some s.time }
  else s

/-! ## Packets (R207, R208, R212) -/

/-- The site that serves a soundboard unit or a front end. -/
def attachSite (unit : Nat) : Nat := Config.attachSite unit % 72

/-- The site and the local port of a packet's destination (*Table: Unit numbers in TH.SRC and TH.DST
[11:0]*): 4 cluster, 5 command fabric, 6 trunk. A packet for another device leaves over a link. -/
def destOf (s : State) (r : Nat) (p : Packet) : Nat × Nat :=
  let u := thDst p % 4096
  let atLc (lc : Nat) : Nat × Nat := (getF s (F.NOC_LC_SITE_SITE lc), 4)
  if thDst p / 4096 ≠ getF s F.LNK_DEVID_DEVID then (attachSite 0x600, 6)
  else if u < 0x400 then atLc (u / 16)
  else if u < 0x480 then atLc (u % 64)
  else if 0x500 ≤ u && u < 0x505 then (attachSite u, 5)
  else if u = 0xFFF then (r, 4)
  else (attachSite u, 6)

/-- A destination that is fenced or absent. -/
def destGone (s : State) (p : Packet) : Bool :=
  let u := thDst p % 4096
  if thDst p / 4096 ≠ getF s F.LNK_DEVID_DEVID then false
  else if u < 0x400 then coreAbsent s u
  else if u < 0x440 then lcAbsent s (u - 0x400)
  else if u < 0x480 then (getF s F.EVT_FENCED_UPD).testBit (u - 0x440)
  else false

/-- Packets that R207 keeps in order: one class, one source unit, one destination unit. -/
def sameFlow (a b : Packet) : Bool := thClass a == thClass b && thSrc a == thSrc b && thDst a == thDst b

/-- A source–destination pair. -/
def samePair' (a b : Packet) : Bool := thSrc a == thSrc b && thDst a == thDst b

/-- Every packet that waits in the NoC. -/
def nocPackets (s : State) : List NocWait := s.noc.flatMap (fun o => o.2.waiting)

/-- Port 7 of a router is no output: packets wait there for which its table has no route (R212). -/
def nocKey (r port : Nat) : Nat := 8 * r + port
def getOut (s : State) (r port : Nat) : NocOut := sget .zero s.noc (nocKey r port)
def setOut (s : State) (r port : Nat) (o : NocOut) : State :=
  { s with noc := sput .zero s.noc (nocKey r port) o }

/-- The output of a router that a packet takes, none without a route. A bypassed router gives out what it
still holds towards a neighbour that knows a route (R212). -/
def outputOf (s : State) (r : Nat) (p : Packet) : Option Nat :=
  let d := destOf s r p
  if d.1 = r then some d.2
  else if bypassed s r then
    [1, 0, 2, 3].find? (fun h => match hopTo s r h with
      | some n => n == d.1 || (routeHop s n d.1).isSome
      | none => false)
  else routeHop s r d.1

/-- Put a packet at its output of a router. -/
def enqueue (s : State) (r : Nat) (w : NocWait) : State :=
  let port := (outputOf s r w.pkt).getD 7
  let o := getOut s r port
  setOut s r port { o with waiting := o.waiting ++ [w] }

/-- A packet comes to a router and begins to wait (R208). -/
def enter (s : State) (r : Nat) (w : NocWait) : State := enqueue s r { w with since := s.time, cycles := 0, aged := false }

/-- Inject a packet at a router. -/
def inject (s : State) (r inPort : Nat) (p : Packet) : State :=
  enter { s with nocNext := s.nocNext + 1 } r
    { no := s.nocNext, pkt := p, inPort := inPort, aged := false, since := s.time, cycles := 0 }

/-- A new packet is held at its source: no new traffic goes into a bypassed router, and while routes change a
pair that has packets on the old routes waits for them (R212). -/
def heldAtSource (s : State) (r : Nat) (p : Packet) : Bool :=
  bypassed s r || (getB s F.NOC_STATUS_ROUTE_BUSY && (nocPackets s).any (fun w => samePair' w.pkt p))

/-- A new packet, behind what its source already holds of its pair. -/
def arrive (s : State) (r inPort : Nat) (p : Packet) : State :=
  if s.nocHeld.any (fun h => samePair' h.2.2 p) || heldAtSource s r p then
    { s with nocHeld := s.nocHeld ++ [(r, inPort, p)] }
  else inject s r inPort p

/-- Let the held packets go whose earlier packets have arrived. -/
def releaseHeld (s : State) : State :=
  let free (h : Nat × Nat × Packet) : Bool := !bypassed s h.1 && !(nocPackets s).any (fun w => samePair' w.pkt h.2.2)
  let go := s.nocHeld.filter free
  forEach go { s with nocHeld := s.nocHeld.filter (fun h => !free h) } (fun s h => inject s h.1 h.2.1 h.2.2)

/-- A local output gives out a packet only after every earlier packet of its flow (R207). -/
def mayLeave (s : State) (port : Nat) (w : NocWait) : Bool :=
  port < 4 || (nocPackets s).all (fun x => !sameFlow x.pkt w.pkt || decide (w.no ≤ x.no))

/-- The next ordinary packet in round-robin order over input ports. -/
def nextPort (l : List NocWait) (rr : Nat) : Option NocWait :=
  ((List.range 7).map (fun i => (rr + 1 + i) % 7)).findSome? (fun p => l.find? (fun w => w.inPort == p))

/-- The packet that an output gives out next (R208): the oldest aged ordinary one, else the oldest
express one, else the ordinary ones in turn. -/
def nextPacket (s : State) (r port : Nat) : Option NocWait :=
  let o := getOut s r port
  let l := o.waiting.filter (mayLeave s port)
  match l.find? (fun w => w.aged && !thFlag w.pkt 3) with
  | some w => some w
  | none =>
    match l.find? (fun w => thFlag w.pkt 3) with
    | some w => some w
    | none => nextPort l o.rr

/-- The column ports of a region serve packets: the region is in RUN, or they have had their time to wake, of GATE
10 ns and of IDLE 1 µs (R311, *Table: Sleep states*; log entry 108). -/
def portServes (s : State) (k : Nat) : Bool :=
  decide (scopeState s k = 0) || (match slook s.portWake k with
    | some t => decide (t + (regionCost (min 2 (scopeState s k))).2 ≤ s.time)
    | none => false)

/-- A packet at a sleeping column port: a wake request of its region, and the port wakes (R311, R314). -/
def wakePort (s : State) (k : Nat) : State :=
  match slook s.portWake k with
  | some _ => s
  | none => wakeScope { s with portWake := sins s.portWake k s.time } k

/-- A mesh output forwards while its link is good and the next router forwards (R206, R212). -/
def outputOpen (s : State) (r port : Nat) : Bool := 4 ≤ port || (hopTo s r port).isSome

/-- Report the item that a packet belongs to unless it has reported. -/
def reportItem (s : State) (p : Packet) (status : Nat) : State :=
  match findCmd s (thQueue p) (thTag p) with
  | some o =>
    if (o.sent ++ o.got).any (fun r => r.seq == thSeq p) then s
    else sendReport s (thQueue p) (thTag p) (thSeq p) (plainResult status)
  | none => s

/-- A cluster's part of a program load came poisoned: the cluster reports, and what it was to load is undefined
(R38, R212). -/
def poisonLoad (s : State) (o : OpenCmd) (p : Packet) : State :=
  match s.loads.find? (fun l => l.q == o.q && l.tag == o.tag),
      (List.range 64).find? (fun l => (maskOf o.cmd).testBit l && lcItem (maskOf o.cmd) l == thSeq p) with
  | some l, some lc =>
    if l.left.contains lc then reportItem (dropLoad (undefSlot s o.cmd lc) l lc) p stUe else s
  | _, _ => s

/-- The oldest transfer in flight, out of the local store or into it, of a core that runs a command. -/
def flyingDma (s : State) (o : OpenCmd) (c : Nat) (put : Bool) : Option DmaOp :=
  match (getCore s c).kernel with
  | some k => if k.q == o.q && k.tag == o.tag then (getCore s c).dma.find? (fun x => x.put == put) else none
  | none => none

/-- A transfer of a core takes note of a poisoned packet. -/
def hitDma (s : State) (c : Nat) (x : DmaOp) : State :=
  let k := getCore s c
  drawn (setCore s c { k with dma := k.dma.map (fun y => if y = x then { y with bad := y.bad ++ [s.freeCtr] } else y) })

/-- Data of a kernel came poisoned: words of the GET that the packet belongs to, which the core takes into its
local store poisoned (R139, R326), else of the PUT that it belongs to. Which words is open (log entry 112). -/
def poisonData (s : State) (o : OpenCmd) (p : Packet) : State :=
  match flyingDma s o (thDst p % 4096) false, flyingDma s o (thSrc p % 4096) true with
  | some x, _ => hitDma s (thDst p % 4096) x
  | none, some x => hitDma s (thSrc p % 4096) x
  | none, none => s

/-- The consumer of a poisoned packet completes ST_UE (R212). CONTROL and HOST packets belong to no item. -/
def consumePoison (s : State) (p : Packet) : State :=
  if !thFlag p 2 || thDst p / 4096 != getF s F.LNK_DEVID_DEVID || thClass p == 7 || thClass p == 10 then s
  else
    match findCmd s (thQueue p) (thTag p) with
    | none => s
    | some o =>
      if thClass p == 6 then reportItem s p stUe
      else match engineOf s o.q, cOpcode o.cmd with
        | 0, 0x01 => poisonLoad s o p
        | 0, 0x02 => poisonData s o p
        | _, _ => reportItem s p stUe

/-- A packet leaves the NoC at a local port; at a fenced unit its item ends (R328). -/
def deliver (s : State) (p : Packet) : State :=
  if destGone s p then reportItem s p stFenced
  else
    let s := consumePoison s p
    { s with delivered := s.delivered ++ [p] }

/-- One packet leaves an output: it goes to the next router or is delivered. Retries on the link and what
the ECC of the buffer finds are counted; lost data is delivered with TH.FLAGS.POISON set. -/
def forward (s : State) (r port : Nat) (w : NocWait) (retries : Nat) (ecc : BufEcc) : State :=
  let o := getOut s r port
  let rr := if thFlag w.pkt 3 then o.rr else w.inPort
  let s := setOut s r port { waiting := o.waiting.filter (fun x => x.no != w.no), rr := rr }
  let s := if ecc = .clean then s else incF s F.NOC_ECC_CNT
  let w := if ecc = .uncorrectable then { w with pkt := setThFlag w.pkt 2 } else w
  if port < 4 then
    let s := addF s (F.NOC_LINK_RETRY_CNT (4 * r + port)) retries
    match neighbour r port with
    | some n => enter s n { w with inPort := opposite port }
    | none => s
  else deliver s w.pkt

/-- An output gives out its next packet; at a column port that sleeps the packet waits at the router. -/
def giveOut (s : State) (r port retries : Nat) (ecc : BufEcc) : State :=
  match nextPacket s r port with
  | none => s
  | some w =>
    if port = 4 && !portServes s (regionOf r) && !destGone s w.pkt then wakePort s (regionOf r)
    else forward s r port w retries ecc

def nocPacket (s : State) (r port : Nat) (arrivals : List (Nat × Packet)) (retries : Nat) (ecc : BufEcc) : State :=
  let s := forEach arrivals s (fun s a => arrive s r a.1 a.2)
  releaseHeld (if outputOpen s r port then giveOut s r port retries ecc else s)

def execNocPacket (r port : Nat) (arrivals : List (Nat × Packet)) (retries : Nat) (ecc : BufEcc) (s : State) : Out :=
  onUnit (routerOk r && portOk port && arrivals.all (fun a => localPortOk a.1))
    (live s (fun s => nocPacket s r port arrivals retries ecc))

/-- NoC cycles that a packet has waited, in fortieths: a step is 25 MHz. -/
def waited (s : State) (r : Nat) (w : NocWait) : Nat := w.cycles + (s.time - w.since) * halfStep s (halfOf r)

/-- Bring the waits at a half's routers up to now, before its step changes. -/
def accrueWaits (s : State) (h : Nat) : State :=
  { s with noc := s.noc.map (fun o =>
      if halfOf (o.1 / 8) = h then
        (o.1, { o.2 with waiting := o.2.waiting.map (fun w => { w with cycles := waited s (o.1 / 8) w, since := s.time }) })
      else o) }

/-- R208: an ordinary packet that has waited 256 NoC cycles takes the next slot. -/
def packetAged (s : State) (r port : Nat) : State :=
  let o := getOut s r port
  match o.waiting.find? (fun w => !w.aged && !thFlag w.pkt 3 && decide (256 * 40 ≤ waited s r w)) with
  | some w =>
    setOut s r port { o with waiting := o.waiting.map (fun x => if x.no = w.no then { x with aged := true } else x) }
  | none => s

def execPacketAged (r port : Nat) (s : State) : Out :=
  onUnit (routerOk r && portOk port) (live s (fun s => packetAged s r port))

/-! ## Route changes (R212) -/

/-- A route change begins. -/
def beginChange (s : State) (r : Nat) (dir : Option Nat) : State :=
  let s := setB s F.NOC_STATUS_ROUTE_BUSY true
  fallback { s with routeChanges := s.routeChanges ++ [{ router := r, dir := dir, since := s.time }] }

/-- The seam links join grid columns 3 and 4. -/
def isSeam (r d : Nat) : Bool := (r % 8 == 3 && d == 3) || (r % 8 == 4 && d == 1)

/-- A mesh link is declared failed: both directions carry nothing more. -/
def meshFail (s : State) (r d : Nat) : State :=
  match neighbour r d with
  | none => s
  | some n =>
    if meshFailed s r d then s
    else
      let s := setF (setF s (F.NOC_LINK_FAIL (4 * r + d)) 1) (F.NOC_LINK_FAIL (4 * n + opposite d)) 1
      let s := if isSeam r d then setF s (F.NOC_SEAM_WIDTH (r / 8)) 2 else s
      beginChange s r (some d)

def execMeshLinkFailed (r dir : Nat) (s : State) : Out :=
  onUnit (routerOk r && meshOk r dir) (inService s (fun s => meshFail s r dir))

/-- A router is bypassed in service: an uncorrectable error of its route table. -/
def bypassRouter (s : State) (r : Nat) : State :=
  if bypassed s r then s
  else beginChange (wrapF (setF s (F.NOC_ROUTER_STATE r) 3) F.NOC_STATUS_BYPASSED 1) r none

def execRouterBypass (r : Nat) (s : State) : Out :=
  onUnit (routerOk r) (inService s (fun s => bypassRouter s r))

/-- Put every waiting packet at its output under the new routes: one whose output stays goes on waiting, another
begins anew there (R208). -/
def reroute (s : State) : State :=
  let ws := (List.range 72).flatMap (fun r =>
    (List.range 8).flatMap (fun port => (getOut s r port).waiting.map (fun w => (r, port, w))))
  let t := { s with noc := s.noc.map (fun o => (o.1, { o.2 with waiting := [] })) }
  forEach ws t (fun s x =>
    if (outputOf s x.1 x.2.2.pkt).getD 7 = x.2.1 then enqueue s x.1 x.2.2 else enter s x.1 x.2.2)

/-- The sites that hold a logical cluster. -/
def usedSites (s : State) : List Nat := (List.range 72).filter (fun r => getB s (F.NOC_ROUTER_USED r) && !(match lcOf s r with | some l => lcAbsent s l | none => true))

/-- The pairs of sites without an acceptable route. -/
def routeless (s : State) (sites : List Nat) (a : Nat) : Nat :=
  (sites.filter (fun b => a != b && ((route s a b).isNone || (route s b a).isNone))).length

/-- The sites to give up so that every two of the rest reach each other: again and again the one with
the most failing pairs, the lowest first (R211, log entry 31). -/
def unreachableSites (s : State) (n : Nat) (sites : List Nat) : List Nat :=
  match n with
  | 0 => []
  | n + 1 =>
    let worst := sites.foldl (fun w a => if routeless s sites w < routeless s sites a then a else w) (sites.headD 0)
    if routeless s sites worst = 0 then []
    else worst :: unreachableSites s n (sites.filter (· != worst))

/-- The clusters that the new routes leave unreachable are fenced. -/
def fenceUnreachable (s : State) : State :=
  forEach (unreachableSites s 72 (usedSites s)) s (fun s r =>
    match lcOf s r with
    | some lc => fence s 1 lc 212
    | none => s)

/-- ROUTE_CHANGE names the router, or the link as 0x1_0000 + 4 × site + direction (log entry 32). -/
def changeData (c : RouteChange) : Nat :=
  match c.dir with
  | some d => 0x10000 + 4 * c.router + d
  | none => c.router

/-- The routers that a route change takes out hold no packet any more. -/
def drainedAll (s : State) : Bool :=
  s.routeChanges.all (fun c => c.dir.isSome || (List.range 8).all (fun p => (getOut s c.router p).waiting.isEmpty))

/-- Packets for a unit that the change has left fenced or absent end at the router that holds them. -/
def dropGone (s : State) : State :=
  forEach (List.range 72) s (fun s r =>
    let o := getOut s r 7
    let gone := o.waiting.filter (fun w => destGone s w.pkt)
    forEach gone (setOut s r 7 { o with waiting := o.waiting.filter (fun w => !destGone s w.pkt) })
      (fun s w => deliver s w.pkt))

/-- The route tables of a change are ready (R212): the held packets go out along the new routes, and the change
is over once the routers that it takes out are empty; until then ROUTE_BUSY stays. -/
def routeChangeDone (s : State) : State :=
  if getB s F.NOC_STATUS_ROUTE_BUSY then
    let s := reroute (fillRoutes s)
    if drainedAll s then
      let cs := s.routeChanges
      let s := forEach cs (writeDist s) (fun s c => raiseEv s 0x5004 sevWarn none 6 c.router 0 (changeData c))
      let s := setB { s with routeChanges := [] } F.NOC_STATUS_ROUTE_BUSY false
      releaseHeld (dropGone (fallback (fenceUnreachable s)))
    else s
  else s

def execRouteChangeDone (s : State) : Out := done (live s routeChangeDone)

/-- A router holds packets that a route change has still to drain: it is bypassed, or they wait without a route or
at an output that no longer forwards. -/
def undrained (s : State) (r : Nat) : Bool :=
  (List.range 8).any (fun p => !(getOut s r p).waiting.isEmpty && (bypassed s r || p == 7 || !outputOpen s r p))

/-- A router that cannot drain within 10 µs is fatal. -/
def drainTimeout (s : State) (r : Nat) : State :=
  if s.routeChanges.any (fun c => decide (c.since + 10000 ≤ s.time)) && undrained s r then
    raiseFatal s 0x5004 6 r r
  else s

def execNocDrainTimeout (r : Nat) (s : State) : Out :=
  onUnit (routerOk r) (live s (fun s => drainTimeout s r))

/-! ## Commands of fall-back mode and of the clocks -/

/-- A write of NOC_FALLBACK: FORCE is bit 8. -/
def fallbackWrite (s : State) (v : Word) : State := fallback (setB s F.NOC_FALLBACK_FORCE (v.getLsbD 8))

def execNocFallbackWrite (v : Word) (s : State) : Out := done (inService s (fun s => fallbackWrite s v))

/-- Fall-back mode ends 100 µs after the last trigger cleared. -/
def fallbackExit (s : State) : State :=
  let s := fallback s
  match s.fallbackClear with
  | some t =>
    if t + 100000 ≤ s.time then
      raiseFallback (setB { s with fallbackClear := none } F.NOC_STATUS_FALLBACK false) 0
    else s
  | none => s

def execFallbackExit (s : State) : Out := done (live s fallbackExit)

/-- A half PLL loses lock (R223): fatal after READY. -/
def pllLost (s : State) (half : Nat) : State :=
  let s := setB s (if half = 0 then F.CLK_PLL_STATUS_EAST_LOCK else F.CLK_PLL_STATUS_WEST_LOCK) false
  if ready s then raiseFatal s 0x1006 0 0 half else s

def execPllLock (half : Nat) (s : State) : Out := onUnit (halfOk half) (live s (fun s => pllLost s half))

end Sys2Proof.Machine
end

