-- ==== Sys2Proof/Machine/Power.lean ====
section
/-! DEFINITION. Regulator cells, droop and current, clock steps, and the power side of the capo (R219,
R249 to R270). -/

namespace Sys2Proof.Machine

/-! ## Rails and cells (R249, R251) -/

/-- R249: a sense pair outside 1.5–2.1 V is excluded; with none left the regulator senses locally. -/
def senseExclude (s : State) (pair mv : Nat) : State :=
  if 1500 ≤ mv && mv ≤ 2100 then s
  else
    let s := setBit s F.PDM_VSTK_SENSE_SENSE_OK pair false
    if getF s F.PDM_VSTK_SENSE_SENSE_OK = 0 && !getB s F.PDM_VSTK_SENSE_LOCAL then
      raiseEv (setB s F.PDM_VSTK_SENSE_LOCAL true) 0x1002 sevError none 15 0 0 (getF s F.PDM_VSTK_SENSE_SENSE_OK)
    else s

def execSenseExclude (pair mv : Nat) (s : State) : Out :=
  onUnit (senseOk pair) (live s (fun s => senseExclude s pair mv))

/-- A sample of a cell's output (R251): the lowest value since the last clear and its first time. -/
def vminSample (s : State) (c mv : Nat) : State :=
  if !getB s (F.PDM_VMIN_VALID c) || mv < getF s (F.PDM_VMIN_MV c) then
    setF (setB (setF s (F.PDM_VMIN_MV c) mv) (F.PDM_VMIN_VALID c) true) (F.PDM_VMIN_TIME c) s.time
  else s

/-- Since when the record of a cell stands: its last clear, or the reset that began bring-up. -/
def vminSince (s : State) (c : Nat) : Nat := max s.luthier.t0 (sget 0 s.vminFrom c)

/-- A sample at a time that nothing but the clear bounds: what the cells put out between two droops is not
stated, so the value and its time are free (log entry 99). A cell that is off gives none. -/
def vminFree (s : State) (c : Nat) : State :=
  if getF s (F.PDM_CELL_STATE c) < 2 then
    let mv := (freeWord s).toNat % 2 ^ 12
    let t := vminSince s c + (freeWord (drawn s)).toNat % (s.time + 1 - vminSince s c)
    let s := drawn (drawn s)
    if !getB s (F.PDM_VMIN_VALID c) || mv < getF s (F.PDM_VMIN_MV c) then
      setF (setB (setF s (F.PDM_VMIN_MV c) mv) (F.PDM_VMIN_VALID c) true) (F.PDM_VMIN_TIME c) t
    else s
  else s

/-- Clear the record of a cell. -/
def vminClear (s : State) (c : Nat) : State :=
  let s := { s with vminFrom := sput 0 s.vminFrom c s.time }
  setF (setB (setF s (F.PDM_VMIN_MV c) 0) (F.PDM_VMIN_VALID c) false) (F.PDM_VMIN_TIME c) 0

/-- A write of PDM_VMIN_CLR: CELL [6:0], ALL [7], GO [8]. -/
def vminClrWrite (s : State) (v : Nat) : State :=
  if v.testBit 8 then
    if v.testBit 7 then forEach (List.range 76) s vminClear
    else if bits v 6 0 < 76 then vminClear s (bits v 6 0) else s
  else s

def execPdmVminClr (v : BitVec 32) (s : State) : Out := done (inService s (fun s => vminClrWrite s v.toNat))

/-- The record of a cell as PDM_VMIN lays it out. -/
def vminRecord (s : State) (c : Nat) : Nat :=
  getF s (F.PDM_VMIN_MV c) + getF s (F.PDM_VMIN_VALID c) * 2 ^ 12 + getF s (F.PDM_VMIN_TIME c) * 2 ^ 64

/-- A read of PDM_VMIN word 0 latches the whole record, the samples up to then included. -/
def vminLatch (s : State) (c : Nat) : State :=
  let s := vminFree s c
  { s with vminLatch := sins s.vminLatch c (vminRecord s c) }

def execVminReadLatch (c : Nat) (s : State) : Out := onUnit (cellOk c) (inService s (fun s => vminLatch s c))

/-! ## Stretching (R252, R254) -/

/-- The cluster sites of a region. -/
def regionSites (k : Nat) : List Nat := (List.range 9).map (fun i => 8 * i + k)

def getStretch (s : State) (site : Nat) : Stretch := sget .zero s.stretch site

/-- Change the stretching of a site, after its cycles up to now are counted. -/
def setStretch (s : State) (site : Nat) (x : Stretch) : State :=
  let s := accrue s (regionOf site)
  { s with stretch := sput .zero s.stretch site { x with lost := (getStretch s site).lost } }

/-- Some site is stretched for a cause. -/
def anyStretch (s : State) (f : Stretch → Bool) : Bool := s.stretch.any (fun p => f p.2)

/-- A hard limit lowers the rate of the frets: a layer that carries a logical one has lost part of its share, at its
temperature limit or as suspect (R134, R278, R279). The current loops stretch compute sites alone (R254), which no
fret is clocked with. -/
def fretHard (s : State) : Bool :=
  (List.range 8).any (fun l =>
    let p := getF s (layerFld l)
    (slook s.capo.shareCap p).isSome || getB s (F.THM_LAYER_SUSPECT p))

/-- The fixed rate is in force while no hard limit lowers it (R134). -/
def fretFixed (s : State) : State := setB s F.FRET_STATUS_FIXED_ACTIVE (getB s F.FRET_MODE_FIXED && !fretHard s)

/-- Set the reasons that follow from stretching. -/
def stretchReasons (s : State) : State :=
  let s := setReason s 6 (anyStretch s (·.droop))
  setReason s 1 (anyStretch s (fun x => x.current || x.vstk))

/-- The setpoint of a site's cell. -/
def setpoint (s : State) (site : Nat) : Nat := getF s (F.PDM_CELL_SET_MV site)

/-- R252: the output falls TRIP_MV below the setpoint. -/
def droop (s : State) (site mv : Nat) : State :=
  let s := vminSample s site mv
  let x := getStretch s site
  if mv + getF s F.PDM_DROOP_CFG_TRIP_MV ≤ setpoint s site && !x.droop && getF s (F.PDM_CELL_STATE site) < 2 then
    stretchReasons (incF (setStretch s site { x with droop := true }) (F.CLK_STRETCH_CNT_COUNT (regionOf site)))
  else s

def execDroop (site mv : Nat) (s : State) : Out := onUnit (siteOk site) (live s (fun s => droop s site mv))

/-- The output has risen back to within REL_MV of the setpoint. -/
def droopRelease (s : State) (site mv : Nat) : State :=
  let s := vminSample s site mv
  let x := getStretch s site
  if x.droop && setpoint s site ≤ mv + getF s F.PDM_DROOP_CFG_REL_MV then
    stretchReasons (setStretch s site { x with droop := false, released := some s.time })
  else s

def execDroopRelease (site mv : Nat) (s : State) : Out :=
  onUnit (siteOk site) (live s (fun s => droopRelease s site mv))

/-- The current limit of a cell in 0.1 A: 48 A, or 43.2 A with a failed phase (R254, R255). -/
def cellLimit (s : State) (site : Nat) : Nat := if getF s (F.PDM_CELL_STATE site) = 0 then 480 else 432

/-- The limit of VSTK in 0.1 A. -/
def vstkLimit : Nat := 16500

/-- Set or clear the stretching of every site for VSTK current. -/
def stretchAll (s : State) (on : Bool) : State :=
  stretchReasons (forEach (List.range 72) s (fun s n => setStretch s n { getStretch s n with vstk := on }))

/-- R254: a current, in 0.1 A, above its limit stretches the site, or every site for VSTK. -/
def curLimit (s : State) (vstk : Bool) (site amps : Nat) : State :=
  if vstk then (if vstkLimit < amps then stretchAll s true else s)
  else if cellLimit s site < amps then
    stretchReasons (setStretch s site { getStretch s site with current := true })
  else s

def execCurLimit (vstk : Bool) (site amps : Nat) (s : State) : Out :=
  onUnit (siteOk site) (live s (fun s => curLimit s vstk site amps))

/-- A current below 95 % of the limit releases. -/
def curRelease (s : State) (vstk : Bool) (site amps : Nat) : State :=
  if vstk then (if amps * 20 < vstkLimit * 19 then stretchAll s false else s)
  else if amps * 20 < cellLimit s site * 19 then
    stretchReasons (setStretch s site { getStretch s site with current := false })
  else s

def execCurLimitRelease (vstk : Bool) (site amps : Nat) (s : State) : Out :=
  onUnit (siteOk site) (live s (fun s => curRelease s vstk site amps))

/-! ## Steps (R219, R250, R253) -/

/-- MAX_STEP as it acts (*Table: CLK field maps*). -/
def maxStep (s : State) (k : Nat) : Nat := max 32 (min 80 (getF s (F.CLK_REGION_MAX_STEP k)))

/-- The step that a region is to have: the one requested last, else the present one. -/
def targetStep (s : State) (k : Nat) : Nat := (slook s.capo.stepWait k).getD (getF s (F.CLK_REGION_CUR_STEP k))

/-- The setpoint of the voltage–frequency curve for a step. -/
def vfPoint (s : State) (step : Nat) : Nat := s.fuses.vf.getD (step - 32) 0

/-- Change the setpoints of a region's cells that are on. -/
def moveCells (s : State) (k : Nat) (f : Nat → Nat) : State :=
  forEach (regionSites k) s (fun s c =>
    if getF s (F.PDM_CELL_STATE c) < 2 then setF s (F.PDM_CELL_SET_MV c) (f (getF s (F.PDM_CELL_SET_MV c))) else s)

/-- R250: the setpoints go up at the request; the step follows with CLOCK_STEP, which the capo sends once
the cells have reported (log entry 100). -/
def raiseCells (s : State) (k n : Nat) : State := moveCells s k (fun v => max v (vfPoint s n))

/-- R250: the setpoints come down once a lower step is in effect, as far as no step that waits needs them. -/
def dropCells (s : State) (k : Nat) : State :=
  let level := max (vfPoint s (getF s (F.CLK_REGION_CUR_STEP k))) (vfPoint s (targetStep s k))
  moveCells s k (fun v => min v level)

/-- Request a step of a region; only the latest request is kept. -/
def requestStep (s : State) (k n : Nat) : State :=
  let n := max 32 (min (maxStep s k) n)
  let w := if n = getF s (F.CLK_REGION_CUR_STEP k) then sdel s.capo.stepWait k else sins s.capo.stepWait k n
  raiseCells { s with capo := { s.capo with stepWait := w } } k n

/-- Request a step of a half's NoC clock. -/
def requestHalf (s : State) (h n : Nat) : State :=
  let w := if n = halfStep s h then sdel s.capo.stepWait (8 + h) else sins s.capo.stepWait (8 + h) n
  { s with capo := { s.capo with stepWait := w } }

/-- A step change waits while a site of the region is stretched for droop and for 1 µs after (R253). -/
def stepHeld (s : State) (k : Nat) : Bool :=
  (regionSites k).any (fun n =>
    let x := getStretch s n
    x.droop || (match x.released with | some t => decide (s.time < t + 1000) | none => false))

/-- A region's step takes effect; the voltages stay until the next boundary (R250). -/
def applyStep (s : State) (k n : Nat) : State :=
  let s := setF (accrue s k) (F.CLK_REGION_CUR_STEP k) n
  { s with capo := { s.capo with stepWait := sdel s.capo.stepWait k } }

/-- A frame boundary: the requested step of a region takes effect unless a droop holds it, never above
MAX_STEP as it now reads (R219); with none requested the voltages follow the step. -/
def takeStep (s : State) (k : Nat) : State :=
  match slook s.capo.stepWait k with
  | some n => if stepHeld s k then s else applyStep s k (min n (maxStep s k))
  | none => dropCells s k

/-- The requested steps of both halves take effect together (R257): the distance table and the triggers
of fall-back follow (R213, R214). -/
def takeHalves (s : State) : State :=
  let s' := forEach [0, 1] s (fun s h =>
    match slook s.capo.stepWait (8 + h) with
    | some n =>
      let s := accrueWaits s h
      setF { s with capo := { s.capo with stepWait := sdel s.capo.stepWait (8 + h) } } (F.CLK_HALF_CUR_STEP h) n
    | none => s)
  if halfStep s' 0 = halfStep s 0 ∧ halfStep s' 1 = halfStep s 1 then s' else fallback (writeDist s')

def clockStep (s : State) (half : Bool) (k : Nat) : State := if half then takeHalves s else takeStep s k

def execClockStep (half : Bool) (k : Nat) (s : State) : Out :=
  onUnit (clockOk half k) (live s (fun s => clockStep s half k))

def execDroopStepHoldEnd (k : Nat) (s : State) : Out := onUnit (regionOk k) (live s (fun s => takeStep s k))

/-! ## The limit and fixed-clock mode (R258, R264, R269) -/

/-- The state of the flow (*Table: Flow states*): 0 NORMAL, 1 REDUCED, 2 LOSS. -/
def flowState (s : State) : Nat := getF s F.THM_STATUS_FLOW_STATE

/-- THROTTLE_N is treated as asserted (R327). -/
def throttled (s : State) : Bool := getB s F.EVT_INPUT_THROTTLE

/-- P_lim (R258). -/
def pLim (s : State) : Nat :=
  let a := min (getF s F.CAPO_LIMIT_LIMIT_W) s.therm.pth
  let a := if throttled s then min a (getF s F.CAPO_LIMIT_EXT_W) else a
  if flowState s = 2 then min a 900 else a

/-- The fret grant (R264). -/
def setGrant (s : State) : State :=
  setF s F.FRET_GRANT_TOTAL_W (min (getF s F.FRET_BUDGET_TOTAL_W) (getF s F.CAPO_CTRL_MEM_PCT * getF s F.CAPO_STATE_EFF_W / 100))

/-- A hard reason that lowers a step: regions lose steps at a temperature limit, a NoC cell is lost, or the
power loop lowers them for EXT_W or the coolant floor (R269). -/
def hardLowers (s : State) : Bool := s.capo.stepCut || s.capo.hardLow || !s.capo.nocLost.isEmpty

/-- Evaluate fixed-clock mode: on entry every region goes to step 56 and both halves to 80 (R269). -/
def fixedClock (s : State) : State :=
  let on := getB s F.CLK_FIXED_EN && decide (3000 ≤ getF s F.CAPO_STATE_EFF_W) && !hardLowers s
  if on = getB s F.CLK_FIXED_ACTIVE then s
  else
    let s := setReason (setB s F.CLK_FIXED_ACTIVE on) 10 on
    let s := raiseEv s 0x1007 sevInfo none 0 0 0 on.toNat
    if on then
      let s := forEach (List.range 8) s (fun s k => requestStep s k 56)
      forEach [0, 1] s (fun s h => requestHalf s h 80)
    else s

/-- Apply P_lim: EFF_W, the reasons of its terms, the grant and fixed-clock mode. -/
def applyLimit (s : State) : State :=
  let old := getF s F.CAPO_STATE_EFF_W
  let s := setF s F.CAPO_STATE_EFF_W (pLim s)
  let s := setReason (setReason s 5 (throttled s)) 4 (flowState s == 2)
  let s := if getF s F.CAPO_STATE_EFF_W = old then s else setGrant s
  fixedClock s

/-- A write of CLK_FIXED: EN is bit 0. -/
def clkFixedWrite (s : State) (v : Nat) : State := fixedClock (setB s F.CLK_FIXED_EN (v.testBit 0))

def execClkFixedWrite (v : BitVec 32) (s : State) : Out := done (inService s (fun s => clkFixedWrite s v.toNat))

/-! ## Regulator failure (R255 to R257) -/

/-- Fence the cluster of a site whose cell is dark. -/
def fenceSite (s : State) (site rule : Nat) : State :=
  match lcOf s site with
  | some lc => fence s 1 lc rule
  | none => s

/-- A phase of a cluster cell fails: the first degrades the cell, the second shuts it down. -/
def phaseFail (s : State) (cell phase : Nat) : State :=
  let ok := getF s (F.PDM_CELL_PHASE_OK cell)
  if !ok.testBit phase then s
  else
    let s := setBit s (F.PDM_CELL_PHASE_OK cell) phase false
    let now := getF s (F.PDM_CELL_PHASE_OK cell)
    let s := setReason s 7 true
    if ok = 0xFFF then
      raiseEv (setF s (F.PDM_CELL_STATE cell) 1) 0x1003 sevWarn none 13 cell 0 now
    else if getF s (F.PDM_CELL_STATE cell) = 2 then s
    else
      let s := setF s (F.PDM_CELL_STATE cell) 2
      fenceSite (raiseEv s 0x1004 sevError none 13 cell 0 now) cell 256

def execVrDegraded (cell phase : Nat) (s : State) : Out :=
  onUnit (siteOk cell && phaseOk phase) (live s (fun s => phaseFail s cell phase))

/-- A NoC cell fails (log entry 36): both halves go to step 60 or lower; a second failure is fatal. -/
def nocCellFail (s : State) (cell : Nat) : State :=
  if s.capo.nocLost.contains cell then s
  else
    let first := s.capo.nocLost.isEmpty
    let s := { s with capo := { s.capo with nocLost := s.capo.nocLost ++ [cell] } }
    let s := setReason (setF (setF s (F.PDM_CELL_PHASE_OK (72 + cell)) 0) (F.PDM_CELL_STATE (72 + cell)) 2) 7 true
    if first then
      let s := raiseEv s 0x1003 sevWarn none 13 (72 + cell) 0 0
      fixedClock (forEach [0, 1] s (fun s h => requestHalf s h (min 60 (halfStep s h))))
    else raiseFatal s 0x1005 13 (72 + cell) (72 + cell)

def execNocCellFail (cell : Nat) (s : State) : Out := onUnit (nocCellOk cell) (live s (fun s => nocCellFail s cell))

/-! ## The power loop (R258, R263, R265) -/

/-- The running kernels of a region. -/
def regionKernels (s : State) (k : Nat) : List Kernel :=
  (regionCores s k).filterMap (fun c => (getCore s c).kernel)

/-- A COLLECTIVE of a partition is dispatched and not completed. -/
def collOpen (s : State) (part : Nat) : Bool :=
  s.open_.any (fun o => partOf s o.q == part && engineOf s o.q == 3 && cOpcode o.cmd == 0x33)

/-- A region runs a kernel of a partition that waits for a collective (R265). -/
def collRuns (s : State) (k : Nat) : Bool := (regionKernels s k).any (fun n => collOpen s n.part)

/-- A lowering of a region is noted among those that wait. -/
def deferNote (s : State) (k : Nat) (thermal : Bool) : State :=
  let c := s.capo
  if thermal then { s with capo := { c with deferThm := if c.deferThm.contains k then c.deferThm else k :: c.deferThm } }
  else { s with capo := { c with deferPwr := if c.deferPwr.contains k then c.deferPwr else k :: c.deferPwr } }

/-- A deferral of a region's lowering begins. -/
def deferStart (s : State) (k : Nat) (thermal : Bool) : State :=
  deferNote { s with capo := { s.capo with deferSince := sins s.capo.deferSince k s.time } } k thermal

/-- A lowering of a region by a soft reason waits now, or goes on waiting: none when it takes effect. -/
def deferStep (s : State) (k : Nat) (thermal : Bool) : Option State :=
  if !getB s F.CAPO_CTRL_COLL_DEFER || !collRuns s k then none
  else if (slook s.capo.deferSince k).isSome then some (deferNote s k thermal)
  else
    match slook s.capo.deferLast k with
    | some t => if s.time < t + 1000000 then none else some (deferStart s k thermal)
    | none => some (deferStart s k thermal)

/-- The power loop lowers a region by one step. -/
def lowerPower (s : State) (k : Nat) : State :=
  let s := requestStep s k (targetStep s k - 1)
  { s with capo := { s.capo with powerLow := if s.capo.powerLow.contains k then s.capo.powerLow else k :: s.capo.powerLow } }

/-- The average exceeds a hard term of P_lim, EXT_W or the coolant floor: such a lowering never waits. -/
def hardLimit (s : State) (avg : Nat) : Bool :=
  (throttled s && decide (getF s F.CAPO_LIMIT_EXT_W < avg)) || (flowState s == 2 && decide (900 < avg))

/-- Lower a region for the power loop, or let the lowering wait. -/
def lowerOrDefer (s : State) (avg k : Nat) : State :=
  if targetStep s k ≤ 32 then s
  else if hardLimit s avg then lowerPower s k
  else match deferStep s k false with
    | some t => t
    | none => lowerPower s k

/-- Regions that run a kernel of an express queue. -/
def expressRegion (s : State) (k : Nat) : Bool := (regionKernels s k).any (·.express)

/-- One lowering: regions without express kernels first, down to step 32, only then the others (R263). -/
def lowerAll (s : State) (avg : Nat) : State :=
  let plain := (List.range 8).filter (fun k => !expressRegion s k)
  if plain.any (fun k => decide (32 < targetStep s k)) then forEach plain s (fun s k => lowerOrDefer s avg k)
  else forEach (List.range 8) s (fun s k => lowerOrDefer s avg k)

/-- The step up to which the power loop may raise a region. -/
def raiseTo (s : State) (k : Nat) : Nat := maxStep s k - sget 0 s.capo.regionCut k - sget 0 s.capo.foreCut k

/-- One raising of a region with work; a region without work is held no longer. -/
def raiseRegion (s : State) (k : Nat) : State :=
  let free (s : State) : State := { s with capo := { s.capo with powerLow := s.capo.powerLow.filter (· != k) } }
  if (regionKernels s k).isEmpty then free s
  else
    let s := if targetStep s k < raiseTo s k then requestStep s k (targetStep s k + 1) else s
    if raiseTo s k ≤ targetStep s k then free s else s

/-- No region stays above MAX_STEP. -/
def capSteps (s : State) : State :=
  forEach (List.range 8) s (fun s k => if maxStep s k < targetStep s k then requestStep s k (maxStep s k) else s)

/-- Whether the power loop lowers for a hard term of P_lim: from the first average above one until an average
more than 2 % below P_lim. -/
def noteHard (s : State) (avg : Nat) : State :=
  let on := hardLimit s avg || (s.capo.hardLow && decide (getF s F.CAPO_STATE_EFF_W * 98 ≤ avg * 100))
  { s with capo := { s.capo with hardLow := on } }

/-- In fixed-clock mode every region stands at step 56, or at MAX_STEP where that is lower (R219, R269). -/
def holdFixed (s : State) : State :=
  forEach (List.range 8) s (fun s k => if targetStep s k = min 56 (maxStep s k) then s else requestStep s k 56)

/-- The power loop: `pwr` is the input power averaged over 1 ms, `avg` its projection, both in W, `vin` the
input in 0.1 V. -/
def powerLoop (s : State) (pwr avg vin : Nat) : State :=
  let s := setF (setF s F.CAPO_INPUT_PWR_W (min 8191 pwr)) F.CAPO_INPUT_VIN (min 8191 vin)
  let s := fixedClock (noteHard (capSteps (applyLimit (forEach (List.range 8) s dropCells))) avg)
  let lim := getF s F.CAPO_STATE_EFF_W
  let s :=
    if getB s F.CLK_FIXED_ACTIVE then holdFixed s
    else if lim < avg then lowerAll s avg
    else if avg * 100 < lim * 98 then forEach (List.range 8) s raiseRegion
    else s
  let s := if getB s F.CLK_FIXED_ACTIVE then { s with capo := { s.capo with powerLow := [] } } else s
  setReason s 0 (!s.capo.powerLow.isEmpty)

def execPowerLoop (pwr avg vin : Nat) (s : State) : Out := done (inService s (fun s => powerLoop s pwr avg vin))

/-- A region loses steps at a temperature limit (R279). -/
def cutRegion (s : State) (k n : Nat) : State :=
  let lost := min n (targetStep s k - 32)
  let s := requestStep s k (targetStep s k - lost)
  { s with capo := { s.capo with regionCut := sput 0 s.capo.regionCut k (sget 0 s.capo.regionCut k + lost) } }

/-- A region loses a step by the thermal forecast (R283). -/
def foreRegion (s : State) (k : Nat) : State :=
  let lost := min 1 (targetStep s k - 32)
  let s := requestStep s k (targetStep s k - lost)
  { s with capo := { s.capo with foreCut := sput 0 s.capo.foreCut k (sget 0 s.capo.foreCut k + lost) } }

/-- A deferral ends: the lowering takes effect (R265). -/
def collDeferEnd (s : State) (k : Nat) : State :=
  match slook s.capo.deferSince k with
  | none => s
  | some t =>
    if collRuns s k && decide (s.time < t + 1000 * getF s F.CAPO_CTRL_DEFER_MAX_US) then s
    else
      let thm := s.capo.deferThm.contains k
      let pwr := s.capo.deferPwr.contains k
      let c := s.capo
      let s := { s with capo := { c with deferSince := sdel c.deferSince k, deferThm := c.deferThm.filter (· != k),
                                         deferPwr := c.deferPwr.filter (· != k), deferLast := sins c.deferLast k s.time } }
      let s := addF (incF s F.CAPO_COLL_DEFER_CNT) F.CAPO_COLL_DEFER_NS (s.time - t)
      if getB s F.CLK_FIXED_ACTIVE then s
      else
        let s := if thm then foreRegion s k else s
        if pwr then setReason (lowerPower s k) 0 true else s

def execCollDeferEnd (k : Nat) (s : State) : Out := onUnit (regionOk k) (inService s (fun s => collDeferEnd s k))

/-! ## Energy (R262, R267) -/

/-- k as a fraction: (E_m − E_u) ÷ Σa clamped to 0.8–1.25, and 1 when Σa = 0. -/
def energyScale (em eu sum : Nat) : Nat × Nat :=
  let d := em - eu
  if sum = 0 then (1, 1)
  else if d * 5 < sum * 4 then (4, 5)
  else if sum * 5 < d * 4 then (5, 4)
  else (d, sum)

/-- Scale a modelled energy, rounded down (log entry 37). -/
def scaleEnergy (k : Nat × Nat) (a : Nat) : Nat := a * k.1 / k.2

/-- R267: attribute the energy of one ms, in µJ: `em` measured, `eu` modelled as unattributed, and the
modelled energies of partitions, queues and commands. -/
def attributeEnergy (s : State) (em eu : Nat) (parts queues : List (Nat × Nat)) (cmds : List CmdEnergy) : State :=
  let k := energyScale em eu ((parts.map (·.2)).sum)
  let given := (parts.map (fun p => scaleEnergy k p.2)).sum
  let s := forEach parts s (fun s p => addF s (F.CAPO_PART_ENERGY p.1) (scaleEnergy k p.2))
  let s := forEach queues s (fun s p => addF s (F.CAPO_Q_ENERGY p.1) (scaleEnergy k p.2))
  let s := forEach cmds s (fun s c =>
    updCmd s c.q c.tag (fun o => { o with attributed := o.attributed + scaleEnergy k c.energy }))
  let s := addF s F.CAPO_ENERGY_TOTAL em
  let s := setF s F.CAPO_ENERGY_IDLE (min (2 ^ 64 - 1) (getF s F.CAPO_ENERGY_IDLE + em - given))
  { s with capo := { s.capo with pIdle := (em - given) / 1000 } }

def execEnergyAttribution (em eu : Nat) (parts queues : List (Nat × Nat)) (cmds : List CmdEnergy) (s : State) : Out :=
  onUnit (parts.all (fun p => partOk p.1) && queues.all (fun q => queueOk q.1) && cmds.all (fun c => queueOk c.q))
    (inService s (fun s => attributeEnergy s em eu parts queues cmds))

end Sys2Proof.Machine
end

