-- ==== Sys2Proof/Machine/Frets.lean ====
section
/-! DEFINITION. The meanings of the attend engine, the frets, the merge unit and the select unit (R114 to
R131, R136). -/

namespace Sys2Proof.Machine

/-! ## The body of an attend command -/

def atLayer (c : CmdWord) : Nat := cmdField c 34 1
def atFlags (c : CmdWord) : Nat := cmdField c 35 1
def atQdesc (c : CmdWord) : Nat := cmdField c 40 8
def atCtx (c : CmdWord) : Nat := bits (cmdField c 48 2) 11 0
def atCore (c : CmdWord) : Nat := bits (cmdField c 50 2) 9 0
def atWindow (c : CmdWord) : Nat := cmdField c 52 4
def atHeadFirst (c : CmdWord) : Nat := cmdField c 56 1
def atHeadCount (c : CmdWord) : Nat := cmdField c 57 1
def atNq (c : CmdWord) : Nat := cmdField c 58 1
def atSoftcap (c : CmdWord) : Word := BitVec.ofNat 32 (cmdField c 60 4)

/-- KV_END, 0 read as POS at dispatch. -/
def atKvEnd (e : Seq) (c : CmdWord) : Nat := if cmdField c 36 4 = 0 then e.pos else cmdField c 36 4

/-- Flag bits. -/
def flCausal (f : Nat) : Bool := f.testBit 0
def flWindow (f : Nat) : Bool := f.testBit 1
def flSoftcap (f : Nat) : Bool := f.testBit 2
def flRaw (f : Nat) : Bool := f.testBit 3

/-- The reserved fields of the body; SELECT reserves FLAGS [3:2] as well. -/
def attendFields (c : CmdWord) : Bool :=
  bits (atFlags c) 7 4 == 0 && (cOpcode c != 0x11 || bits (atFlags c) 3 2 == 0) &&
    bits (cmdField c 48 2) 15 12 == 0 && bits (cmdField c 50 2) 15 10 == 0 && cmdField c 59 1 == 0 &&
    atQdesc c % 64 == 0 && (!flWindow (atFlags c) || (flCausal (atFlags c) && atWindow c != 0))

/-- The ranges of *Table: Attend substatus codes*, RANGE. -/
def attendRange (e : Seq) (c : CmdWord) : Bool :=
  decide (atLayer c < e.layers) && decide (atKvEnd e c ≤ e.maxTokens) && atHeadCount c != 0 &&
    decide (atHeadFirst c + atHeadCount c ≤ e.heads) && decide (1 ≤ atNq c) && decide (atNq c ≤ 64)

/-! ## The query descriptor -/

/-- QOFF (*Table: Query descriptor*). -/
def qOff (hc nq : Nat) : Nat := roundUp (320 + 4 * hc * nq) 64

/-- Length of the descriptor. -/
def qLen (e : Seq) (c : CmdWord) : Nat :=
  qOff (atHeadCount c) (atNq c) + 2 * e.d * atHeadCount c * atNq c

/-- A 32-bit word of a byte list. -/
def word32 (bs : List Byte) (a : Nat) : Nat := natOf ((bs.drop a).take 4)
def word64 (bs : List Byte) (a : Nat) : Nat := natOf ((bs.drop a).take 8)

/-- Bytes `a` to `b − 1` are 0. -/
def zeroBytes (bs : List Byte) (a b : Nat) : Bool := ((bs.drop a).take (b - a)).all (· == 0)

/-- The reserved bytes of a descriptor are 0 (R366). -/
def descFields (hc nq : Nat) (bs : List Byte) : Bool :=
  zeroBytes bs 28 64 && zeroBytes bs (64 + 4 * nq) 320 && zeroBytes bs (320 + 4 * hc * nq) (qOff hc nq)

/-- The attend command that a body and a descriptor describe, without its items. -/
def attendOf (o : OpenCmd) (e : Seq) (bs : List Byte) : Attend :=
  let c := o.cmd
  let hc := atHeadCount c
  let nq := atNq c
  { q := o.q, tag := o.tag, entry := e, layer := atLayer c, flags := atFlags c, kvEnd := atKvEnd e c,
    qctx := atCtx c, core := atCore c, window := atWindow c, headFirst := atHeadFirst c, headCount := hc,
    nq := nq, softcap := atSoftcap c, out := BitVec.ofNat 64 (word64 bs 0), st := BitVec.ofNat 64 (word64 bs 8),
    sinks := word32 bs 24, qpos := (List.range nq).map (fun j => word32 bs (64 + 4 * j)),
    scale := (List.range (hc * nq)).map (fun i => BitVec.ofNat 32 (word32 bs (320 + 4 * i))),
    query := halves ((bs.drop (qOff hc nq)).take (2 * e.d * hc * nq)), items := [] }

/-- A parameter that is out of order (0x0404). -/
def attendParam (a : Attend) : Bool :=
  a.scale.any (fun w => !ffinite w) ||
    (flSoftcap a.flags && (!ffinite a.softcap || !flt 0 a.softcap))

/-! ## Checks before any item (R115) -/

def badAttend (s : State) (o : OpenCmd) (sub : Nat) : State := answer s o.q o.tag (codeResult stInvalid sub) 0

/-- Read bytes that an attend command needs; a failure completes it. -/
def attendRead (s : State) (o : OpenCmd) (va n : Nat) (f : State → List Byte → State) : State :=
  let r := vreadBytes s (atCtx o.cmd) va n .read
  match r.2.fail with
  | some x => answer r.1 o.q o.tag x 0
  | none => if r.2.poison then answer r.1 o.q o.tag (codeResult stUe 0) 0 else f r.1 r.2.bytes

/-- The descriptor of an attend command, read and checked. -/
def withDesc (s : State) (o : OpenCmd) (e : Seq) (f : State → Attend → List Byte → State) : State :=
  attendRead s o (atQdesc o.cmd) (qLen e o.cmd) (fun s bs =>
    let a := attendOf o e bs
    if !descFields a.headCount a.nq bs then badAttend s o 0x0402
    else if attendParam a then badAttend s o 0x0404
    else f s a bs)

/-- The checks that every attend command makes: mode, body, sequence, ranges, REQ_CORE, descriptor. -/
def attendBegin (s : State) (q tag op : Nat) (f : State → OpenCmd → Attend → List Byte → State) : State :=
  match toBegin s q tag op with
  | none => s
  | some o =>
    if !o.fretOn then answer s q tag (codeResult stNotReady 0) 0
    else if !attendFields o.cmd then badAttend s o 0x0402
    else match o.entry with
      | none => badAttend s o 0x0400
      | some e =>
        if e.part ≠ partOf s q ∨ foreignCtx s q (atCtx o.cmd) then deny s q tag
        else if !attendRange e o.cmd then badAttend s o 0x0401
        else if op = 0x11 ∧ e.sumEn = false then badAttend s o 0x0403
        else if coreAbsent s (atCore o.cmd) then answer s q tag (plainResult stFenced) 0
        else withDesc s o e (fun s a bs => f s o a bs)

/-! ## Visibility and items (R116, R117) -/

/-- Token `t` is visible to a vector at position `qp`. -/
def visible (a : Attend) (t qp : Nat) : Bool :=
  decide (t < a.kvEnd) && (!flCausal a.flags || decide (t ≤ qp)) &&
    (!flWindow a.flags || decide (qp < t + a.window) || decide (t < a.sinks))

/-- The vectors of a group. -/
def groupVecs (a : Attend) (g : Nat) : List Nat := (List.range (min 8 (a.nq - 8 * g))).map (fun i => 8 * g + i)

def qposOf (a : Attend) (j : Nat) : Nat := a.qpos.getD j 0

/-- A block holds a token visible to one of some vectors. -/
def blockSeen (a : Attend) (js : List Nat) (b : Nat) : Bool :=
  (List.range a.entry.p).any (fun i => js.any (fun j => visible a (b * a.entry.p + i) (qposOf a j)))

/-- Blocks that hold a candidate token. -/
def candBlocks (a : Attend) : Nat := ceilDiv a.kvEnd a.entry.p

/-- The heads of the range. -/
def headsOf (a : Attend) : List Nat := (List.range a.headCount).map (fun i => a.headFirst + i)

/-- The (head, group, block) of every item, in order; `listed` names the blocks of each head. -/
def itemKeys (a : Attend) (listed : Nat → Nat → Bool) : List (Nat × Nat × Nat) :=
  (headsOf a).flatMap (fun h => (List.range (ceilDiv a.nq 8)).flatMap (fun g =>
    ((List.range (candBlocks a)).filter (fun b => listed h b && blockSeen a (groupVecs a g) b)).map
      (fun b => (h, g, b))))

/-- The items of an attend command, numbered densely (R117). -/
def itemsOf (a : Attend) (listed : Nat → Nat → Bool) : List AttItem :=
  (itemKeys a listed).zipIdx.map (fun x =>
    { seq := x.2, head := x.1.1, group := x.1.2.1, block := x.1.2.2, issued := false, arr := 0, served := false,
      merged := false, res := okResult, partials := [] })

/-! ## The merge unit's buffer (R118) -/

/-- Bytes of the partials of one item. -/
def partialBytes (a : Attend) (i : AttItem) : Nat := (groupVecs a i.group).length * (a.entry.d + 2) * 4

/-- Bytes of the partial buffer that issued items of a column port use or will use. -/
def bufferUsed (s : State) (lc : Nat) : Nat :=
  (s.attends.map (fun a => if a.core / 16 = lc then
    ((a.items.filter (fun i => i.issued && !i.merged)).map (partialBytes a)).sum else 0)).sum

/-- The merge unit's partial buffer. -/
def partialBuffer : Nat := 2 ^ 20

/-- Issue items in order while the buffer has room, numbering their arrivals from `n`. -/
def issueUpTo (a : Attend) (room n : Nat) : List AttItem → List AttItem
  | [] => []
  | i :: t =>
    if i.issued then i :: issueUpTo a room n t
    else if partialBytes a i ≤ room then
      { i with issued := true, arr := n } :: issueUpTo a (room - partialBytes a i) (n + 1) t
    else i :: t

/-- The next place in the arrival order: after every item that has reached a fret. -/
def nextArrival (s : State) : Nat :=
  s.attends.foldl (fun m a => a.items.foldl (fun m i => if i.issued then max m (i.arr + 1) else m) m) 0

/-- Put an attend command back after a change. -/
def setAttend (s : State) (a : Attend) : State :=
  { s with attends := s.attends.map (fun x => if x.q == a.q && x.tag == a.tag then a else x) }

/-- Note the layers whose frets hold queued items, for the limiters' next report. -/
def noteFrets (s : State) : State :=
  { s with capo := { s.capo with fretSeen := (s.capo.fretSeen ++ fretLayers s).eraseDups } }

/-- Issue the items of an attend command that the buffer has room for. -/
def issueItems (s : State) (a : Attend) : State :=
  noteFrets (setAttend s { a with items := issueUpTo a (partialBuffer - bufferUsed s (a.core / 16)) (nextArrival s) a.items })

/-! ## Outputs (R124) -/

/-- The empty state of a vector. -/
def Softmax.empty (d : Nat) : Softmax := { m := f32NegInf, l := 0, o := List.replicate d 0 }

/-- Bytes of FP32 words. -/
def wordsBytes (l : List Word) : List Byte := l.flatMap (fun w => bytesOf 4 w.toNat)

/-- Where OUT and STATE of vector `j` of head `h` lie. -/
def outVa (a : Attend) (h j : Nat) : Nat := a.out.toNat + 4 * (((h - a.headFirst) * a.nq + j) * a.entry.d)
def stateVa (a : Attend) (h j : Nat) : Nat := a.st.toNat + 8 * ((h - a.headFirst) * a.nq + j)

/-- What OUT receives from the root. -/
def outWords (a : Attend) (r : Softmax) : List Word :=
  if flRaw a.flags then r.o
  else if feq r.l 0 then r.o.map (fun _ => 0)
  else
    let o := if a.entry.kvfmt = 5 then butterflyAll r.o else r.o
    o.map (fun v => fdiv v r.l)

/-- Write the outputs of one vector. -/
def writeOut (s : State) (a : Attend) (h j : Nat) (r : Softmax) : State × Option Result :=
  let w := ownedWrite s a.entry.part a.qctx (outVa a h j) (wordsBytes (outWords a r)) false
  if flRaw a.flags then
    let v := ownedWrite w.1 a.entry.part a.qctx (stateVa a h j) (wordsBytes [r.m, r.l]) false
    (v.1, match w.2 with | some x => some x | none => v.2)
  else w

/-- Every (head, vector) of the range. -/
def outPairs (a : Attend) : List (Nat × Nat) := (headsOf a).flatMap (fun h => (List.range a.nq).map (fun j => (h, j)))

/-- The output of an attend command that failed is undefined (R38). -/
def undefOuts (s : State) (a : Attend) : State :=
  forEach (outPairs a) s (fun s hj =>
    let s := undefRange s a.entry.part a.qctx (outVa a hj.1 hj.2) (4 * a.entry.d)
    if flRaw a.flags then undefRange s a.entry.part a.qctx (stateVa a hj.1 hj.2) 8 else s)

/-- Write the outputs of every vector from its root; after a failure, the first, all of them are undefined. -/
def writeOuts (s : State) (a : Attend) (root : Nat → Nat → Softmax) : State × Option Result :=
  let r := (outPairs a).foldl (fun (acc : State × Option Result) hj =>
    let r := writeOut acc.1 a hj.1 hj.2 (root hj.1 hj.2)
    (r.1, acc.2.or r.2)) (s, none)
  if r.2.isSome then (undefOuts r.1 a, r.2) else r

/-! ## ATTEND and ATTEND_SELECTED -/

/-- The items of an attend command are issued; without any, the outputs are written at once. -/
def attendIssue (s : State) (o : OpenCmd) (a : Attend) (listed : Nat → Nat → Bool) : State :=
  let a := { a with items := itemsOf a listed }
  if a.items.isEmpty then
    let r := writeOuts s a (fun _ _ => Softmax.empty a.entry.d)
    answerOr r.1 o r.2 0
  else
    let s := updCmd s o.q o.tag (fun o => { o with begun := true, items := some a.items.length, okDetail := a.items.length })
    issueItems { s with attends := s.attends ++ [a] } a

def attend (s : State) (q tag : Nat) : State :=
  attendBegin s q tag 0x10 (fun s o a _ => attendIssue s o a (fun _ _ => true))

def execAttend (q tag : Nat) (s : State) : Out :=
  onUnit (queueOk q) (inService s (memGate (.attend q tag) (fun s => attend s q tag)))

/-- Where the selection list of a head lies. -/
def listVa (sel : Nat) (a : Attend) (h : Nat) : Nat := sel + 4 * (a.entry.nblk + 1) * (h - a.headFirst)

/-- Strictly ascending and below a bound. -/
def ascending (bound : Nat) : List Nat → Bool
  | [] => true
  | [x] => decide (x < bound)
  | x :: y :: t => decide (x < y) && ascending bound (y :: t)

/-- Read the selection lists of the heads, checked, and go on with them (R115). -/
def withLists (s : State) (o : OpenCmd) (a : Attend) (sel : Nat) (acc : List (Nat × List Nat))
    (f : State → List (Nat × List Nat) → State) : List Nat → State
  | [] => f s acc
  | h :: t =>
    attendRead s o (listVa sel a h) 4 (fun s cb =>
      let n := natOf cb
      if a.entry.nblk < n then badAttend s o 0x0405
      else attendRead s o (listVa sel a h + 4) (4 * n) (fun s bs =>
        let l := (List.range n).map (fun i => word32 bs (4 * i))
        if ascending a.entry.nblk l then withLists s o a sel (acc ++ [(h, l)]) f t
        else badAttend s o 0x0405))

/-- The blocks that lists name for a head. -/
def listedIn (lists : List (Nat × List Nat)) (h b : Nat) : Bool := lists.any (fun x => x.1 == h && x.2.contains b)

def attendSelected (s : State) (q tag : Nat) : State :=
  attendBegin s q tag 0x12 (fun s o a bs =>
    withLists s o a (word64 bs 16) [] (fun s lists => attendIssue s o a (listedIn lists)) (headsOf a))

def execAttendSelected (q tag : Nat) (s : State) : Out :=
  onUnit (queueOk q) (inService s (memGate (.attendSelected q tag) (fun s => attendSelected s q tag)))

def findAttend (s : State) (q tag : Nat) : Option Attend := s.attends.find? (fun a => a.q == q && a.tag == tag)

/-- R118: the attend engine goes on issuing as merges free the buffer, unless it is stopped (R339). -/
def issueResume (s : State) (q tag : Nat) : State :=
  if feStopped s 1 then s
  else match findAttend s q tag with
    | some a => issueItems s a
    | none => s

def execAttendIssueResume (q tag : Nat) (s : State) : Out :=
  onUnit (queueOk q) (inService s (memGate (.attendIssueResume q tag) (fun s => issueResume s q tag)))

/-! ## Score arithmetic (R119) -/

/-- Depth of the tree over a scale block. -/
def blockDepth (k : Nat) : Nat := if kvBlock k = 32 then 5 else 6

/-- Sum the products of each scale block by a tree, scale each, and add in block order. -/
def blockSum (k : Nat) (products : List Word) (scales : List Word) : Word :=
  let parts := ((blocksOf (kvBlock k) products).map (fsumTree (blockDepth k))).zipIdx.map
    (fun p => if k ≤ 1 then p.1 else fmul p.1 (scales.getD p.2 0))
  parts.tail.foldl fadd (parts.headD 0)

/-- The query of vector `j` of head `h`, rotated for HR4. -/
def queryOf (a : Attend) (h j : Nat) : List Word :=
  let d := a.entry.d
  let q := ((a.query.drop (d * ((h - a.headFirst) * a.nq + j))).take d).map (fun x => enc32 (decBF16 x))
  if a.entry.kvfmt = 5 then butterflyAll q else q

def scaleOf (a : Attend) (h j : Nat) : Word := a.scale.getD ((h - a.headFirst) * a.nq + j) 0

/-- The elements of D keys or values as FP32, and their scales. -/
def elems32 (e : Seq) (bs : List Byte) : List Word := (kvElems e.kvfmt e.d bs).map enc32
def scales32 (e : Seq) (bs : List Byte) : List Word := (kvScales e.kvfmt e.d bs).map enc32

/-- The score of a vector against a key. -/
def score (a : Attend) (h j : Nat) (q : List Word) (key : List Byte) : Word :=
  let sum := blockSum a.entry.kvfmt (List.zipWith fmul q (elems32 a.entry key)) (scales32 a.entry key)
  let sc := fmul sum (scaleOf a h j)
  if flSoftcap a.flags then fmul a.softcap (ftanh (fdiv sc a.softcap)) else sc

/-- The value elements: dequantised and scaled with one rounding (R121). -/
def valueWords (e : Seq) (bs : List Byte) : List Word :=
  let sc := scales32 e bs
  (elems32 e bs).zipIdx.map (fun p => if e.kvfmt ≤ 1 then p.1 else fmul p.1 (sc.getD (p.2 / kvBlock e.kvfmt) 0))

/-- One token of the online softmax (R121). -/
def softmaxStep (st : Softmax) (sc : Word) (v : List Word) : Softmax :=
  let z := fmul sc log2e
  let up := flt st.m z
  let x := if up then (if st.m = f32NegInf then 0 else fexp2 (fsub st.m z)) else f32One
  let e := if up then f32One else fexp2 (fsub z st.m)
  { m := if up then z else st.m, l := fadd (fmul st.l x) e,
    o := List.zipWith (fun o w => fadd (fmul o x) (fmul e w)) st.o v }

/-! ## FRET_WORK (R114, R121, R131, R133) -/

/-- The express flag of an attend command. -/
def attendExpress (s : State) (a : Attend) : Bool :=
  match findCmd s a.q a.tag with
  | some o => o.express
  | none => false

/-- Items waiting at the frets, with their command. -/
def queuedItems (s : State) : List (Attend × AttItem) :=
  s.attends.flatMap (fun a => (a.items.filter (fun i => i.issued && !i.served)).map (fun i => (a, i)))

/-- No item goes before this one at its fret: express items first, then arrival order (R133). -/
def isNext (s : State) (a : Attend) (i : AttItem) : Bool :=
  (queuedItems s).all (fun x =>
    fretOf s x.1 x.2 != fretOf s a i ||
      (attendExpress s a && !attendExpress s x.1) ||
      (attendExpress s a == attendExpress s x.1 && decide (i.arr ≤ x.2.arr)))

/-- The logical layer of the fret that serves an item. -/
def itemLayer (s : State) (a : Attend) (i : AttItem) : Option Nat := (fretOf s a i).map (fun n => dpaLayer (n * 2 ^ 22))

/-- The limiter of a layer that holds items admits the express ones ahead of the ordinary ones (R133). -/
def admitted (s : State) (a : Attend) (i : AttItem) : Bool :=
  attendExpress s a || !(s.capo.fretHold.any (fun l => itemLayer s a i == some l)) ||
    (queuedItems s).all (fun x => !attendExpress s x.1 || itemLayer s x.1 x.2 != itemLayer s a i)

/-- The records of an item's page that hold a token visible to its group, with the vectors that see it. -/
def seenRecords (a : Attend) (i : AttItem) : List (Nat × List Nat) :=
  ((List.range a.entry.p).map (fun r =>
    (r, (groupVecs a i.group).filter (fun j => visible a (i.block * a.entry.p + r) (qposOf a j))))).filter
    (fun x => !x.2.isEmpty)

/-- The bytes of a record, or why the item fails. -/
def readRecord (s : State) (a : Attend) (i : AttItem) (r : Nat) : State × Except Result (List Byte) :=
  let e := a.entry
  let v := ownedRead s e.part e.ctx (e.va (e.idx a.layer i.head i.block) + r * e.recBytes) e.recBytes .kv
  match v.2.fail with
  | some f => (v.1, .error f)
  | none => (v.1, if v.2.poison then .error (plainResult stUe) else .ok v.2.bytes)

/-- The partials of a group over the records listed, in ascending position. -/
def serveRecords (s : State) (a : Attend) (i : AttItem) (sts : List Softmax) :
    List (Nat × List Nat) → State × Except Result (List Softmax)
  | [] => (s, .ok sts)
  | (r, js) :: t =>
    match readRecord s a i r with
    | (s, .error f) => (s, .error f)
    | (s, .ok bs) =>
      let key := bs.take (kvHalf a.entry.kvfmt a.entry.d)
      let v := valueWords a.entry (bs.drop (kvHalf a.entry.kvfmt a.entry.d))
      serveRecords s a i (sts.zipIdx.map (fun x =>
        let j := 8 * i.group + x.2
        if js.contains j then softmaxStep x.1 (score a i.head j (queryOf a i.head j) key) v else x.1)) t

/-- Replace an item of an attend command. -/
def setItem (s : State) (a : Attend) (i : AttItem) : State :=
  setAttend s { a with items := a.items.map (fun x => if x.seq = i.seq then i else x) }

/-- Count the element products and the channel bytes of a served item (R329). -/
def countItem (s : State) (a : Attend) (i : AttItem) (dpa : Option Nat) : State :=
  let n := ((seenRecords a i).map (fun x => x.2.length)).sum * a.entry.d
  let s := countOp (countOp s a.entry.part (10 + a.entry.kvfmt) n) a.entry.part (16 + a.entry.kvfmt) n
  match dpa with
  | some p => countChan s a.entry.part 22 (dpaCol p) (partialBytes a i)
  | none => s

/-- Combine the states of two leaves (R122). -/
def merge (x y : Softmax) : Softmax :=
  let empty (v : Softmax) : Bool := v.m == f32NegInf && v.l == 0 && v.o.all (· == 0)
  if empty x then y
  else if empty y then x
  else
    let m := fmax x.m y.m
    let ax := fexp2 (fsub x.m m)
    let ay := fexp2 (fsub y.m m)
    { m := m, l := fadd (fmul x.l ax) (fmul y.l ay),
      o := List.zipWith (fun p q => fadd (fmul p ax) (fmul q ay)) x.o y.o }

/-- Depth of the merge tree: the smallest K with 2^K ≥ NBLK (R123). -/
def treeDepth (n : Nat) : Nat := if n ≤ 1 then 0 else Nat.log2 (n - 1) + 1

/-- The root of vector `j` of head `h`: the merge of its leaves over the block-index tree (R123). -/
def rootOf (a : Attend) (h j : Nat) : Softmax :=
  let leaf (b : Nat) : Softmax :=
    match a.items.find? (fun i => i.head == h && i.group == j / 8 && i.block == b) with
    | some i => i.partials.getD (j % 8) (Softmax.empty a.entry.d)
    | none => Softmax.empty a.entry.d
  let k := treeDepth a.entry.nblk
  (treeFold merge k ((List.range (2 ^ k)).map leaf)).headD (Softmax.empty a.entry.d)

/-- An item reports; with the last item the merge unit writes the outputs, or leaves them undefined when
an item failed (R38, R124). -/
def itemDone (s : State) (a : Attend) (i : AttItem) : State :=
  let i := { i with merged := true }
  let a := { a with items := a.items.map (fun x => if x.seq = i.seq then i else x) }
  let s := setAttend s a
  if a.items.all (·.merged) then
    let r := if a.items.all (fun x => x.res.status == stOk) then writeOuts s a (rootOf a) else (undefOuts s a, none)
    let s := { r.1 with attends := r.1.attends.filter (fun x => !(x.q == a.q && x.tag == a.tag)) }
    sendReport s a.q a.tag i.seq (match r.2 with | some x => x | none => i.res)
  else sendReport s a.q a.tag i.seq i.res

/-- A fret serves an item that is next at it. -/
def serveItem (s : State) (a : Attend) (i : AttItem) : State :=
  let dpa := itemDpa s a i
  let sts := (groupVecs a i.group).map (fun _ => Softmax.empty a.entry.d)
  match serveRecords s a i sts (seenRecords a i) with
  | (s, .ok l) =>
    setItem (countItem (incF s F.FRET_ITEMS) a i dpa) a { i with served := true, partials := l }
  | (s, .error f) =>
    let s := incF s F.FRET_ITEMS
    let s := if f.status = stUe then incF s F.FRET_UE_ITEMS else s
    itemDone s a { i with served := true, res := f }

/-- The item of an attend command with a number. -/
def findItem (a : Attend) (seq : Nat) : Option AttItem := a.items.find? (fun i => i.seq == seq)

def fretWork (s : State) (q tag seq : Nat) : State :=
  match findAttend s q tag with
  | none => s
  | some a =>
    match findItem a seq with
    | none => s
    | some i =>
      if i.issued && !i.served && isNext s a i && admitted s a i then settleHold (serveItem s a i) else s

def execFretWork (q tag seq : Nat) (s : State) : Out :=
  onUnit (queueOk q) (inService s (memGate (.fretWork q tag seq) (fun s => fretWork s q tag seq)))

/-- Take up to `n` poisoned words that a failed transfer left on a channel; whether there was one. -/
def takeBads (s : State) (key : Nat) : Nat → State × Bool
  | 0 => (s, false)
  | n + 1 =>
    let r := takeBad s key
    if r.2 then ((takeBads r.1 key n).1, true) else (s, false)

/-- The partials of an item cross the vertical channel of its page's column: an item whose transfer failed for good
reports ST_UE (R60). -/
def partialUp (s : State) (a : Attend) (i : AttItem) : State × AttItem :=
  match itemDpa s a i with
  | none => (s, i)
  | some p =>
    let r := takeBads s (2 * getF s (F.MEM_COLMAP_PCOL (dpaCol p)) + 1) (ceilDiv (partialBytes a i) 8)
    if r.2 then (incF r.1 F.FRET_UE_ITEMS, { i with res := plainResult stUe }) else (s, i)

/-- A partial reaches the merge unit. -/
def fretPartial (s : State) (q tag seq : Nat) : State :=
  match findAttend s q tag with
  | none => s
  | some a =>
    match findItem a seq with
    | none => s
    | some i =>
      if i.served && !i.merged then
        let r := partialUp s a i
        itemDone r.1 a r.2
      else s

def execFretPartial (q tag seq : Nat) (s : State) : Out :=
  onUnit (queueOk q) (inService s (memGate (.fretPartial q tag seq) (fun s => fretPartial s q tag seq)))

/-! ## SELECT (R127, R128) -/

/-- A full block of the sequence, at POS as read at dispatch. -/
def blockFull (a : Attend) (b : Nat) : Bool := a.entry.full a.entry.pos b

/-- The blocks whose summaries SELECT reads. -/
def fullBlocks (a : Attend) : List Nat := (List.range a.entry.nblk).filter (blockFull a)

/-- u_j(b) from the words of a summary (R127). -/
def summaryScore (a : Attend) (h j : Nat) (q lo hi : List Word) : Word :=
  let terms := (List.range a.entry.d).map (fun i =>
    fmax (fmul (q.getD i 0) (lo.getD i 0)) (fmul (q.getD i 0) (hi.getD i 0)))
  fmul (scaleOf a h j) (blockSum a.entry.kvfmt terms ((List.range 8).map (fun _ => f32One)))

/-- g(b): the largest score of any vector; NaN counts as −∞. -/
def blockScore (a : Attend) (h : Nat) (bs : List Byte) : Word :=
  let w := (halves bs).map (fun x => enc32 (decBF16 x))
  let lo := w.take a.entry.d
  let hi := w.drop a.entry.d
  let us := (List.range a.nq).map (fun j => summaryScore a h j (queryOf a h j) lo hi)
  let g := us.tail.foldl fmax (us.headD 0)
  if fisNan g then f32NegInf else g

/-- Read the summaries of a head and score its full blocks; a failure completes the command. -/
def scoreBlocks (s : State) (o : OpenCmd) (a : Attend) (h : Nat) :
    List Nat → State × Except Result (List (Nat × Word))
  | [] => (s, .ok [])
  | b :: t =>
    let e := a.entry
    let r := ownedRead s e.part e.ctx (e.sumVa + e.idx a.layer h b * sumBytes e) (sumBytes e) .read
    match r.2.fail with
    | some f => (r.1, .error f)
    | none =>
      if r.2.poison then (r.1, .error (plainResult stUe))
      else match scoreBlocks r.1 o a h t with
        | (s, .error f) => (s, .error f)
        | (s, .ok l) => (s, .ok ((b, blockScore a h r.2.bytes) :: l))

/-- Conditions 1 to 3 of R128. -/
def keptAlways (a : Attend) (recent b : Nat) : Bool :=
  decide (b * a.entry.p < a.sinks) || decide (candBlocks a ≤ b + recent) || !blockFull a b

/-- Block `x` comes before block `y` by score, the lower index first on a tie. -/
def ranksAbove (x y : Nat × Word) : Bool := flt y.2 x.2 || (feq x.2 y.2 && decide (x.1 < y.1))

/-- The list of a head (R128). -/
def selectHead (a : Attend) (topn recent : Nat) (scores : List (Nat × Word)) : List Nat :=
  let seen := (List.range (candBlocks a)).filter (blockSeen a (List.range a.nq))
  let rest := scores.filter (fun x => seen.contains x.1 && !keptAlways a recent x.1)
  let top := rest.filter (fun x => decide ((rest.filter (fun y => ranksAbove y x)).length < topn))
  seen.filter (fun b => keptAlways a recent b || top.any (fun x => x.1 == b))

/-- Score every head, then write the lists. -/
def selectHeads (s : State) (o : OpenCmd) (a : Attend) (topn recent : Nat) (acc : List (Nat × List Nat)) :
    List Nat → State × Except Result (List (Nat × List Nat))
  | [] => (s, .ok acc)
  | h :: t =>
    match scoreBlocks s o a h (fullBlocks a) with
    | (s, .error f) => (s, .error f)
    | (s, .ok l) => selectHeads s o a topn recent (acc ++ [(h, selectHead a topn recent l)]) t

/-- Where the list of a head is written. -/
def listBytes (x : Nat × List Nat) : List Byte := (x.2.length :: x.2).flatMap (bytesOf 4)

/-- The first list address that does not translate for a write: nothing is written then (R115). -/
def listsFault (s : State) (a : Attend) (sel : Nat) (lists : List (Nat × List Nat)) : State × Option Result :=
  lists.foldl (fun acc x =>
    match acc.2 with
    | some _ => acc
    | none => checkRange acc.1 a.qctx (listVa sel a x.1) (listBytes x).length .write) (s, none)

/-- Write the lists of the heads; after a failure, the first, they are undefined (R38). -/
def writeLists (s : State) (a : Attend) (sel : Nat) (lists : List (Nat × List Nat)) : State × Option Result :=
  match listsFault s a sel lists with
  | (s, some f) => (s, some f)
  | (s, none) =>
    let r := lists.foldl (fun (acc : State × Option Result) x =>
      let r := ownedWrite acc.1 a.entry.part a.qctx (listVa sel a x.1) (listBytes x) false
      (r.1, acc.2.or r.2)) (s, none)
    if r.2.isSome then
      (forEach lists r.1 (fun s x => undefRange s a.entry.part a.qctx (listVa sel a x.1) (listBytes x).length), r.2)
    else r

/-- The selection lists of a SELECT that failed are undefined (R38). -/
def undefLists (s : State) (a : Attend) (sel : Nat) : State :=
  forEach (headsOf a) s (fun s h => undefRange s a.entry.part a.qctx (listVa sel a h) (4 * (a.entry.nblk + 1)))

/-- A summary that cannot be read: after poison nothing is written (R128); otherwise the lists are undefined
(R38). -/
def selectFail (s : State) (a : Attend) (sel : Nat) (f : Result) : State :=
  if f.status = stUe then s else undefLists s a sel

def select (s : State) (q tag : Nat) : State :=
  attendBegin s q tag 0x11 (fun s o a bs =>
    match selectHeads s o a (cmdField o.cmd 60 2) (cmdField o.cmd 62 2) [] (headsOf a) with
    | (s, .error f) => answer (selectFail s a (word64 bs 16) f) q tag f 0
    | (s, .ok lists) =>
      let r := writeLists s a (word64 bs 16) lists
      let reads := a.headCount * (fullBlocks a).length
      answerOr r.1 o r.2 (reads + (lists.map (fun x => x.2.length)).sum * 2 ^ 32))

def execSelect (q tag : Nat) (s : State) : Out :=
  onUnit (queueOk q) (inService s (memGate (.select q tag) (fun s => select s q tag)))

/-! ## FRET_MODE and the limiters (R132, R134, R136, R264) -/

/-- A write of FRET_MODE: a FIXED_TBPS outside 8 to 200 is taken as the reset value, with an event. -/
def fretModeWrite (s : State) (v : Nat) : State :=
  let t := bits v 15 8
  let bad := decide (t < 8) || decide (200 < t)
  let s := setB (setB s F.FRET_MODE_EN (v.testBit 0)) F.FRET_MODE_FIXED (v.testBit 1)
  let s := setF s F.FRET_MODE_FIXED_TBPS (if bad then 120 else t)
  fretFixed (if bad then raiseCfg s 0x6002 0x400004 v else s)

/-- Of the layers reported as limited, those whose frets held queued items since the last report: a limiter
holds nothing else (R132). -/
def limitedLayers (s : State) (limited : BitVec 8) : List Nat :=
  (List.range 8).filter (fun l => limited.getLsbD l && s.capo.fretSeen.contains l)

/-- A limiter that held an item within the last ms and none at its beginning: MEM_LAYER_POWER rose, and was set for
the time reported; the report does not say when, so the device time of the rise is free within the ms (R132, R266). -/
def holdSeen (s : State) (l : List Nat) (heldNs : Nat) : State :=
  if l.isEmpty || reason s 9 then s
  else
    let s := addF (setReason s 9 true) (F.CAPO_RSN_NS 9) heldNs
    drawn (setF s (F.CAPO_RSN_START 9) (s.time - (freeWord s).toNat % 1000001))

/-- The capo sets the grant (R264), and the fret limiters report the last ms: the power of each physical
layer in 0.1 W, the rate admitted in TB/s, the layers whose limiter held work and the time of holding. A
limiter that still has items queued goes on holding them. -/
def fretGrant (s : State) (pwr : List Nat) (rate : Nat) (limited : BitVec 8) (heldNs : Nat) : State :=
  let s := setGrant s
  let s := forEach pwr.zipIdx s (fun s p => setF s (F.FRET_LAYER_PWR_PWR p.2) (min 4095 p.1))
  let l := limitedLayers s limited
  let s := setF (setF s F.FRET_GRANT_RATE_TBPS (min 65535 rate)) F.FRET_STATUS_LIMITED (l.map (2 ^ ·)).sum
  let bound := min (getF s F.FRET_BUDGET_TOTAL_W) (getF s F.FRET_GRANT_TOTAL_W)
  let s := setB s F.FRET_STATUS_BUDGET (decide (10 * bound ≤ pwr.sum) && !l.isEmpty && !getB s F.FRET_MODE_FIXED)
  let s := fretFixed (if l.isEmpty then s else addF s F.FRET_HELD_NS heldNs)
  let now := fretLayers s
  setHold (holdSeen { s with capo := { s.capo with fretSeen := now.eraseDups } } l heldNs) (l.filter now.contains)

def execFretGrant (pwr : List Nat) (rate : Nat) (limited : BitVec 8) (heldNs : Nat) (s : State) : Out :=
  onUnit (decide (pwr.length ≤ 9)) (inService s (fun s => fretGrant s pwr rate limited heldNs))

def execFretModeWrite (v : BitVec 32) (s : State) : Out := done (inService s (fun s => fretModeWrite s v.toNat))

end Sys2Proof.Machine
end

