-- ==== Sys2Proof/Machine/Memory.lean ====
section
/-! DEFINITION. The meanings of vertical channels, banks, FILL and COPY, the scrubber, saddles, layer
evacuation and layer resets (R56 to R82). -/

namespace Sys2Proof.Machine

/-! ## Channels and banks -/

/-- R60: up to 4 retransmissions; after a fifth failure every word is delivered poisoned, and so reach their
consumers the next words that cross the channel (log entry 88). The source is the physical column, the data
the logical column. -/
def channelTransfer (s : State) (pcol : Nat) (up : Bool) (words : List PWord) (fails : Nat) : State :=
  let s := addF s F.MEM_CRC_RETRY_CNT (min fails 4)
  let bad := decide (5 ≤ fails)
  let key := 2 * pcol + up.toNat
  let out := if bad then words.map (fun w => { w with poison := true }) else words
  let s := { s with channelOut := sput [] s.channelOut key out }
  if bad then
    let s := { s with channelBad := sput 0 s.channelBad key (sget 0 s.channelBad key + words.length) }
    raiseEv (incF s F.MEM_CRC_FAIL_CNT) 0x3001 sevError none 3 pcol 0 ((colOfPcol s pcol).getD 0)
  else s

/-- The through slices carry the channels from stage 3 on, until their switches open (R11). -/
def channelLive (s : State) : Bool := !s.thruOpen && (devState s != 0 || decide (3 < getF s F.LUT_STATE_STAGE))

def execChannelTransfer (col : Nat) (up : Bool) (words : List PWord) (fails : Nat) (s : State) : Out :=
  onUnit (pcolOk col)
    (live s (fun s => if channelLive s then channelTransfer s col up words fails else s))

/-- A read of the word at a column-local DPA; the channel delivers it (R63). -/
def bankRead (s : State) (dpa : Nat) : State :=
  match readWord s (dpa / 8 * 8) with
  | (s, none) => s
  | (s, some w) =>
    { s with channelOut := sput [] s.channelOut (2 * getF s (F.MEM_COLMAP_PCOL (dpaCol dpa)) + 1) [w] }

def execBankRead (dpa : Nat) (s : State) : Out :=
  onUnit (dpaOk dpa) (inService s (memGate (.bankRead dpa) (fun s => bankRead s dpa)))

def execBankWrite (dpa : Nat) (data : BitVec 64) (mask : BitVec 8) (poison : Bool) (s : State) : Out :=
  onUnit (dpaOk dpa) (inService s (memGate (.bankWrite dpa data mask poison) (fun s => (writeWord s (dpa / 8 * 8) data mask poison).1)))

/-! ## FILL (R67, R68, R70) -/

/-- Fields of FILL and COPY. -/
def cA (c : CmdWord) : Nat := cmdField c 32 8
def cB (c : CmdWord) : Nat := cmdField c 40 8
def cC (c : CmdWord) : Nat := cmdField c 48 8
def cCtx56 (c : CmdWord) : Nat := bits (cmdField c 56 2) 11 0
def cCtx58 (c : CmdWord) : Nat := bits (cmdField c 58 2) 11 0

/-- Why a write at a column-local DPA will fail whatever it writes. -/
def dpaFail (s : State) (a : Nat) : Option Result :=
  if colGone s (dpaCol a) then some (xResult .fenced 0)
  else if deadWrite s a then some { status := stUe, sub := 0, detail := 0 } else none

/-- Where a word of a FILL goes, or why it fails. -/
def fillTarget (s : State) (c : CmdWord) (a : Nat) : State × Except Result Nat :=
  if (cmdField c 58 1).testBit 1 then
    (s, match dpaFail s (toLocal a) with | some r => .error r | none => .ok (toLocal a))
  else
    match translate s (cCtx56 c) a .write with
    | (s, .error f) => (s, .error (xResult f a))
    | (s, .ok dpa) => (s, match dpaFail s dpa with | some r => .error r | none => .ok dpa)

/-- The targets of every word of a FILL, and the first failure in ascending address. -/
def fillTargets (s : State) (c : CmdWord) : State × List Nat × Option Result :=
  (List.range (cB c / 8)).foldl (fun acc i =>
    match fillTarget acc.1 c (cA c + 8 * i) with
    | (s, .ok dpa) => (s, acc.2.1 ++ [dpa], acc.2.2)
    | (s, .error r) => (s, acc.2.1, match acc.2.2 with | none => some r | some x => some x)) (s, [], none)

/-- Set the scrub-map bit of the MiB that holds a column-local DPA (R70). -/
def scrubSet (s : State) (a : Nat) : State := setBit s (F.MEM_SCRUB_MAP (a / 2 ^ 25)) (bits a 24 20) true

/-- The reserved fields of a FILL body are 0. -/
def fillFields (c : CmdWord) : Bool :=
  bits (cmdField c 56 2) 15 12 == 0 && bits (cmdField c 58 1) 7 2 == 0 && cmdField c 59 5 == 0

/-- Some byte of a DPA range is invalid (R56). -/
def dpaRangeBad (a n : Nat) : Bool :=
  !(decide (a + n ≤ 2 ^ 37) || (decide (2 ^ 39 ≤ a) && decide (a + n ≤ 2 ^ 39 + 2 ^ 37)))

/-- A FILL writes its words; when one of them fails the output is undefined (R38). -/
def fillNow (s : State) (o : OpenCmd) : State :=
  let r := fillTargets s o.cmd
  let put (s : State) (a : Nat) : State :=
    if r.2.2.isNone then (writeWord s a (BitVec.ofNat 64 (cC o.cmd)) 0xFF false).1 else undefWord s a
  let s := forEach r.2.1 r.1 put
  let s := forEach r.2.1 s (fun s a => countChan s (partOf s o.q) 23 (dpaCol a) 8)
  let s := if (cmdField o.cmd 58 1).testBit 0 then forEach r.2.1 s scrubSet else s
  answerOr s o r.2.2 0

/-- What a FILL that does not run was to write is undefined, where its partition may write it (R38). -/
def fillFree (s : State) (o : OpenCmd) : State :=
  let c := o.cmd
  let dpaMode := (cmdField c 58 1).testBit 1
  if !fillFields c || cA c % 8 != 0 || cB c % 8 != 0 then s
  else if (if dpaMode then partOf s o.q != 0 || dpaRangeBad (cA c) (cB c) else foreignCtx s o.q (cCtx56 c)) then s
  else forEach (fillTargets s c).2.1 s undefWord

def fill (s : State) (q tag : Nat) : State :=
  match toBegin s q tag 0x31 with
  | none => s
  | some o =>
    let c := o.cmd
    let dpaMode := (cmdField c 58 1).testBit 1
    let answerBad (st sub : Nat) : State := answer s q tag (codeResult st sub) 0
    if !fillFields c then answerBad stInvalid 0x0110
    else if cA c % 8 != 0 || cB c % 8 != 0 || cB c == 0 then answerBad stInvalid 0x0100
    else if dpaMode && partOf s q != 0 then answerBad stPermission 0
    else if dpaMode && dpaRangeBad (cA c) (cB c) then answerBad stInvalid 0x0102
    else if !dpaMode && foreignCtx s q (cCtx56 c) then deny s q tag
    else fillNow s o

def execFill (q tag : Nat) (s : State) : Out :=
  onUnit (queueOk q) (inService s (memGate (.fill q tag) (fun s => fill s q tag)))

/-! ## COPY (R69, R346) -/

/-- A source word as a COPY finds it. -/
inductive SrcWord where
  | word (w : PWord)
  | fenced
  | fault (r : Result)
  deriving DecidableEq, Repr

/-- A word of host memory, poisoned when the host does not back a byte of the range in it (R346). -/
def hostWord (s : State) (lo hi w : Nat) : PWord :=
  let byte (i : Nat) : Option Byte :=
    if w + i < lo ∨ hi ≤ w + i then some 0
    else if sget false s.hostPoison (w + i) then none else slook s.hostMem (w + i)
  match (List.range 8).mapM byte with
  | some bs => { data := BitVec.ofNat 64 (natOf bs), poison := false }
  | none => { data := 0, poison := true }

/-- Read the source words of a COPY; each that fails to translate counts (log entry 104). -/
def copySrc (s : State) (host : Bool) (ctx a n : Nat) : State × List SrcWord :=
  (wordAddrs a n).foldl (fun acc w =>
    if host then (acc.1, acc.2 ++ [.word (hostWord acc.1 a (a + n) w)])
    else match vread acc.1 ctx (firstByte a w) .read with
      | (s, .word x) => (s, acc.2 ++ [.word x])
      | (s, .fail .fenced _) => (s, acc.2 ++ [.fenced])
      | (s, .fail f va) => (s, acc.2 ++ [.fault (xResult f va)])) (s, [])

/-- Where a destination word of a COPY goes. -/
inductive DstWord where
  | host
  | dpa (a : Nat)
  | fenced
  | fault (r : Result)
  deriving DecidableEq, Repr

def copyDst (s : State) (host : Bool) (ctx a n : Nat) : State × List DstWord :=
  (wordAddrs a n).foldl (fun acc w =>
    if host then (acc.1, acc.2 ++ [.host])
    else match translate acc.1 ctx (firstByte a w) .write with
      | (s, .error .fenced) => (s, acc.2 ++ [.fenced])
      | (s, .error f) => (s, acc.2 ++ [.fault (xResult f (firstByte a w))])
      | (s, .ok dpa) => (s, acc.2 ++ [if colGone s (dpaCol dpa) then .fenced else .dpa (dpa / 8 * 8)])) (s, [])

/-- The source words that the bytes of a destination word come from. -/
def srcOf (src dst n w : Nat) : List Nat :=
  let lo := max dst w
  let hi := min (dst + n) (w + 8)
  wordAddrs (src + lo - dst) (hi - lo)

/-- The byte of a source word list at an address. -/
def srcByte (src a : Nat) (l : List SrcWord) : Byte :=
  match l[a / 8 - src / 8]? with
  | some (.word w) => w.data.extractLsb' (8 * (a % 8)) 8
  | _ => 0

/-- What one destination word becomes, and its failure. -/
inductive CopyWord where
  | write (data : DWord) (mask : BitVec 8) (poison : Bool)
  | skip
  deriving DecidableEq, Repr

def copyWord (src dst n w : Nat) (l : List SrcWord) : CopyWord :=
  let from_ := (srcOf src dst n w).map (fun x => l[x / 8 - src / 8]?)
  if from_.any (fun x => x == some .fenced) then .skip
  else
    let poison := from_.any (fun x => match x with | some (.word p) => p.poison | _ => false)
    let bs := (List.range n).map (fun i => srcByte src (src + i) l)
    let lo := max dst w
    let dm := wordOfBytes lo ((bs.drop (lo - dst)).take (min (dst + n) (w + 8) - lo)) w
    .write dm.1 dm.2 poison

/-- The write of one destination word of a COPY to the host: its bytes of the range. -/
def hostPart (dst n w : Nat) (data : DWord) (poison : Bool) : HostOut :=
  let lo := max dst w
  let hi := min (dst + n) (w + 8)
  .write lo ((List.range (hi - lo)).map (fun i => data.extractLsb' (8 * (lo + i - w)) 8)) poison

/-- Store one destination word of a COPY. -/
def copyStore (s : State) (dst n w : Nat) (d : DstWord) (x : CopyWord) : State × Option Result :=
  let fencedR := some (xResult .fenced 0)
  match d, x with
  | .fenced, _ => (s, fencedR)
  | _, .skip => (s, fencedR)
  | .host, .write data _ poison =>
    (hostSend s (hostPart dst n w data poison), if poison then some (plainResult stUe) else none)
  | .dpa a, .write data mask poison =>
    let r := writeWord s a data mask poison
    (r.1, if poison then some (plainResult stUe) else wroteResult (.done r.2))
  | .fault r, _ => (s, some r)

/-- Store every destination word in order; the first failure. -/
def copyStores (s : State) (src dst n : Nat) (l : List SrcWord) (ds : List DstWord) : State × Option Result :=
  ((wordAddrs dst n).zip ds).foldl (fun acc x =>
    let r := copyStore acc.1 dst n x.1 x.2 (copyWord src dst n x.1 l)
    (r.1, match acc.2 with | none => r.2 | some y => some y)) (s, none)

/-- The output of a COPY is undefined: every reachable destination word (R38, R69). -/
def copyUndef (s : State) (dst n : Nat) (ds : List DstWord) : State :=
  ((wordAddrs dst n).zip ds).foldl (fun s x =>
    match x.2 with
    | .dpa a =>
      undefPart s a (maskIn dst n x.1)
    | .host => drawn (hostDo s (hostPart dst n x.1 (freeWord s) false))
    | _ => s) s

/-- The column-local words that a COPY reads, with the bytes of each. -/
def srcCells (s : State) (ctx a n : Nat) : List (Nat × BitVec 8) :=
  (wordAddrs a n).filterMap (fun w =>
    ((translate s ctx (firstByte a w) .read).2.toOption).map (fun d => (d / 8 * 8, maskIn a n w)))

/-- The column-local words that a COPY writes, with the bytes of each. -/
def dstCells (dst n : Nat) (ds : List DstWord) : List (Nat × BitVec 8) :=
  ((wordAddrs dst n).zip ds).filterMap (fun x => match x.2 with | .dpa a => some (a, maskIn dst n x.1) | _ => none)

/-- A byte of the source of a COPY is one of its destination, through different contexts, or in host memory (R69).
DESIGN CHOICE (log entry 114): so too where two disjoint ranges of one context map to it. -/
def copyAliased (s : State) (srcHost dstHost : Bool) (sctx src dst n : Nat) (ds : List DstWord) : Bool :=
  if srcHost && dstHost then rangesMeet src n dst n
  else if srcHost || dstHost then false
  else
    let l := srcCells s sctx src n
    (dstCells dst n ds).any (fun d => l.any (fun x => x.1 == d.1 && x.2 &&& d.2 != 0))

/-- A translation failure among the words of a COPY. DESIGN CHOICE (log entry 89): the manual does not number
the items of a COPY for R37; a failing source word comes before a failing destination word, and both before a
poisoned or fenced word, each kind in ascending address. -/
def copyFault (l : List SrcWord) (ds : List DstWord) : Option Result :=
  match l.findSome? (fun x => match x with | .fault r => some r | _ => none) with
  | some r => some r
  | none => ds.findSome? (fun x => match x with | .fault r => some r | _ => none)

def cpSrcHost (c : CmdWord) : Bool := (cmdField c 60 1).testBit 0
def cpDstHost (c : CmdWord) : Bool := (cmdField c 60 1).testBit 1

/-- Count the bytes that a COPY moves down the channels; those up count as they are read. -/
def copyCount (s : State) (o : OpenCmd) (ds : List DstWord) : State :=
  let part := partOf s o.q
  forEach ds s (fun s d => match d with | .dpa a => countChan s part 23 (dpaCol a) 8 | _ => s)

/-- Carry out a COPY on its source words. -/
def copyWith (o : OpenCmd) (rs : State × List SrcWord) : State :=
  let c := o.cmd
  let n := cC c
  let rd := copyDst rs.1 (cpDstHost c) (cCtx58 c) (cB c) n
  match copyFault rs.2 rd.2 with
  | some r => answer (copyUndef rd.1 (cB c) n rd.2) o.q o.tag r 0
  | none =>
    let r := copyStores rd.1 (cA c) (cB c) n rs.2 rd.2
    let s := copyCount r.1 o rd.2
    let s := if copyAliased s (cpSrcHost c) (cpDstHost c) (cCtx56 c) (cA c) (cB c) n rd.2 then
        copyUndef s (cB c) n rd.2 else s
    answerOr s o r.2 0

def copyNow (s : State) (o : OpenCmd) : State :=
  copyWith o (copySrc s (cpSrcHost o.cmd) (cCtx56 o.cmd) (cA o.cmd) (cC o.cmd))

/-- A read of host memory for a COPY fails: its data counts as poisoned (R346). -/
def copyPoisoned (s : State) (o : OpenCmd) : State :=
  copyWith o (s, (wordAddrs (cA o.cmd) (cC o.cmd)).map (fun _ => .word { data := 0, poison := true }))

/-- The reserved fields of a COPY body are 0. -/
def copyFields (c : CmdWord) : Bool :=
  bits (cmdField c 56 2) 15 12 == 0 && bits (cmdField c 58 2) 15 12 == 0 && bits (cmdField c 60 1) 7 2 == 0 &&
    cmdField c 61 3 == 0

/-- The checks of R67, R69 and R22 on a COPY. -/
def copyReject (s : State) (o : OpenCmd) : Option State :=
  let c := o.cmd
  let bad (sub : Nat) : Option State := some (answer s o.q o.tag (codeResult stInvalid sub) 0)
  if !copyFields c then bad 0x0110
  else if cC c = 0 then bad 0x0100
  else if !cpSrcHost c && !cpDstHost c && cCtx56 c == cCtx58 c && rangesMeet (cA c) (cC c) (cB c) (cC c) then
    bad 0x0101
  else if (!cpSrcHost c && foreignCtx s o.q (cCtx56 c)) || (!cpDstHost c && foreignCtx s o.q (cCtx58 c)) then
    some (deny s o.q o.tag)
  else none

/-- What a COPY that does not run was to write is undefined, where its partition may write it (R38). -/
def copyFree (s : State) (o : OpenCmd) : State :=
  let c := o.cmd
  if !copyFields c || (!cpDstHost c && foreignCtx s o.q (cCtx58 c)) then s
  else copyUndef s (cB c) (cC c) (copyDst s (cpDstHost c) (cCtx58 c) (cB c) (cC c)).2

/-- A COPY to the host that meets the endpoint's reset (R304). -/
def copyReset (s : State) (o : OpenCmd) : State :=
  answer (copyFree s o) o.q o.tag (codeResult stLinkReset 0) 0

/-- A COPY from the host waits for the PCIe link; one to the host meets the endpoint's reset (R304). -/
def copy (s : State) (q tag : Nat) : State :=
  match toBegin s q tag 0x30 with
  | none => s
  | some o =>
    match copyReject s o with
    | some t => t
    | none =>
      if s.pcie.up || (!cpSrcHost o.cmd && !cpDstHost o.cmd) then copyNow s o
      else if cpSrcHost o.cmd then s
      else copyReset s o

def execCopy (q tag : Nat) (s : State) : Out :=
  onUnit (queueOk q) (inService s (memGate (.copy q tag) (fun s => copy s q tag)))

/-! ## The scrubber (R71) -/

/-- Scrub one word: a correction is counted and written back; an uncorrectable word is rewritten as a
clean codeword with bit 79 set and the data as read. -/
def scrubWord (s : State) (pl pcol bank w dpa : Nat) : State :=
  let s := stallAt s pl (bankIndex pl pcol bank) (w / 8)
  let pw := physWord s pl pcol bank w
  let c := cwAt s pw
  match decodeWord c with
  | .clean => s
  | .corrected c' => cwPut (countCe s pw) pw c'
  | .uncorrectable => cwPut (memUe s pcol dpa) pw (encodeWord (cwData c) true)

/-- The scrub-map bit of a MiB. -/
def mibMapped (s : State) (m : Nat) : Bool := (getF s (F.MEM_SCRUB_MAP (m / 32))).testBit (m % 32)

/-- Scrub one MiB in the bank that holds it. DESIGN CHOICE (log entry 90): the manual does not say what the
scrubber does in a layer that failed its post-reset check; it reads nothing there, and the MiB counts as done. The scrub task of the layer has run now (R320). -/
def scrubMib (s : State) (m : Nat) : State :=
  let a := m * 2 ^ 20
  let pl := readLayer s (dpaLayer a) (dpaCol a) (dpaBank a)
  if colGone s (dpaCol a) || s.layerDead.contains pl then s
  else
    let pcol := getF s (F.MEM_COLMAP_PCOL (dpaCol a))
    let s := wakeLayer { s with drones := sput 0 s.drones (8 + pl) s.time } pl
    forEach (List.range 131072) s (fun s i => scrubWord s pl pcol (dpaBank a) (dpaByte a / 8 + i) (a + 8 * i))

/-- The rows of a transfer: local address and virtual address. -/
def dmaPairs (o : DmaOp) : List (Nat × Nat) :=
  (List.range o.rows).map (fun r =>
    (o.l + 16 * o.lstride * r, (((o.va.toNat : Int) + o.vstride.toInt * r) % 2 ^ 64).toNat))

/-- A core runs a kernel of a command from an express queue. -/
def expressKernel (s : State) (c : Nat) : Bool :=
  match (getCore s c).kernel with
  | some k => s.open_.any (fun o => o.q == k.q && o.tag == k.tag && o.express)
  | none => false

/-- A transfer in flight touches a bank. -/
def dmaMeets (s : State) (o : DmaOp) (n : Nat) : Bool :=
  (dmaPairs o).any (fun r => (wordAddrs r.2 o.n).any (fun w =>
    match (translate s o.ctx (firstByte r.2 w) (if o.put then .write else .read)).2 with
    | .ok a => a / 2 ^ 22 == n
    | .error _ => false))

/-- An express access waits at the bank of a DPA: an express item at its fret, or a transfer of an express
kernel. A drone's access there is cancelled and comes again later (R319). -/
def expressAt (s : State) (dpa : Nat) : Bool :=
  (queuedItems s).any (fun x => attendExpress s x.1 && fretOf s x.1 x.2 == some (dpa / 2 ^ 22)) ||
    s.cores.any (fun p => expressKernel s p.1 && p.2.dma.any (fun o => dmaMeets s o (dpa / 2 ^ 22)))

/-- One MiB of a pass; the pass ends with the last mapped MiB. -/
def scrub (s : State) (m : Nat) : State :=
  if getB s F.MEM_SCRUB_CTRL_EN && mibMapped s m && !s.scrubbed.contains m && !expressAt s (m * 2 ^ 20) then
    let s := scrubMib s m
    let s := { s with scrubbed := s.scrubbed ++ [m] }
    if (List.range 131072).all (fun k => !mibMapped s k || s.scrubbed.contains k) then
      wrapF { s with scrubbed := [] } F.MEM_SCRUB_STATUS_PASSES 1
    else s
  else s

def execScrub (m : Nat) (s : State) : Out := onUnit (mibOk m) (inService s (memGate (.scrub m) (fun s => scrub s m)))

/-! ## Saddles and retired frames (R72 to R74) -/

/-- A saddle entry is free: neither valid nor being installed. -/
def freeEntry (s : State) (bi : Nat) : Option Nat :=
  (List.range 8).find? (fun e => (slook s.saddles (bi * 8 + e)).isNone &&
    (slook s.saddleHolds (bi * 8 + e)).isNone)

/-- Valid entries of MEM_RETIRED. -/
def retiredCount (s : State) : Nat := ((List.range 256).filter (fun i => getB s (F.MEM_RETIRED_VALID i))).length

/-- R73, R74: the frame of a column-local DPA is retired, or the table is full. -/
def retireFrame (s : State) (pcol dpa : Nat) : State :=
  match (List.range 256).find? (fun i => !getB s (F.MEM_RETIRED_VALID i)) with
  | none => raiseEv s 0x3005 sevError none 3 pcol 0 dpa
  | some i =>
    let s := setF (setB s (F.MEM_RETIRED_VALID i) true) (F.MEM_RETIRED_FRAME i) (bits dpa 36 12)
    retirePage (raiseEv s 0x3004 sevWarn none 3 pcol 0 dpa) dpa

/-- A hard fault in the line that holds a column-local DPA: it waits for a free saddle entry, or retires its
frame (R72, R73). A spare line that fails is replaced in the same way. -/
def hardFault (s : State) (dpa : Nat) : State :=
  let col := dpaCol dpa
  if colGone s col then s
  else
    let pcol := getF s (F.MEM_COLMAP_PCOL col)
    let bi := bankIndex (readLayer s (dpaLayer dpa) col (dpaBank dpa)) pcol (dpaBank dpa)
    let line := dpaByte dpa / 64
    if lineHeld s bi line then s
    else match freeEntry s bi with
      | some e => { s with saddleHolds := sins s.saddleHolds (bi * 8 + e) { line := line, dpa := dpa } }
      | none => retireFrame s pcol dpa

def execHardFault (dpa : Nat) (s : State) : Out := onUnit (dpaOk dpa) (inService s (fun s => hardFault s dpa))

/-- A word of a layer as a copy within the memory reads it: poisoned when the layer is dead (R82). -/
def layerWord (s : State) (pl pcol pw dpa : Nat) : State × PWord :=
  if s.layerDead.contains pl then (drawn s, { data := freeWord s, poison := true }) else readPhys s pcol pw dpa

/-- Copy a line of a bank to a spare line, uncorrectable words with bit 79 set; whether any was. -/
def copyLine (s : State) (pl pcol bank line e dpa : Nat) : State × Bool :=
  (List.range 8).foldl (fun acc i =>
    let r := layerWord acc.1 pl pcol (physWord acc.1 pl pcol bank (8 * line + i)) (dpa / 64 * 64 + 8 * i)
    (cwPut r.1 (bankIndex pl pcol bank * bankWords + 2 ^ 19 + 8 * e + i) (encodeWord r.2.data r.2.poison),
     acc.2 || r.2.poison))
    (s, false)

/-- The lowest entry of a bank that waits for its line. -/
def heldEntry (s : State) (bi : Nat) : Option (Nat × SaddleHold) :=
  (List.range 8).findSome? (fun e => (slook s.saddleHolds (bi * 8 + e)).map (fun h => (e, h)))

/-- R72: the line is copied to its spare line and the entry becomes valid, and what waited for the line goes on; a
layer in reset does so after it. The event's source is the physical column (log entry 53). -/
def saddleInstall (s : State) (player pcol bank : Nat) : State :=
  let bi := bankIndex player pcol bank
  match heldEntry s bi with
  | none => s
  | some (e, h) =>
    if s.layerRst == some player then s
    else
      let r := copyLine s player pcol bank h.line e h.dpa
      let s := { r.1 with saddleHolds := sdel r.1.saddleHolds (bi * 8 + e),
                          saddles := sins r.1.saddles (bi * 8 + e) { line := h.line, origin := true, poisoned := r.2 } }
      resumeWaiting (raiseEv s 0x3003 sevInfo none 3 pcol 0 h.dpa)

def execSaddleInstall (player pcol bank : Nat) (s : State) : Out :=
  onUnit (layerOk player && pcolOk pcol && bankOk bank) (inService s (fun s => saddleInstall s player pcol bank))

/-! ## Layer evacuation (R77 to R80, R130) -/

/-- MEM_EVAC_STATUS as read. -/
def evacStatus (s : State) : Nat :=
  getF s F.MEM_EVAC_STATUS_STATE + getF s F.MEM_EVAC_STATUS_REFUSED * 4 + getF s F.MEM_EVAC_STATUS_UE_WORDS * 2 ^ 16

def setMark (s : State) (col bank line : Nat) : State :=
  setF (setF (setF s F.MEM_EVAC_MARK_COLUMN col) F.MEM_EVAC_MARK_BANK bank) F.MEM_EVAC_MARK_LINE line

/-- R77: a START begins the evacuation of LLAYER, or is refused, with MEM_EVAC_STATUS as the event's source (log
entry 53); a reset of the source or spare pauses it (R81). -/
def evacBegin (s : State) (l : Nat) : State :=
  let st := getF s F.MEM_EVAC_STATUS_STATE
  if (st = 0 ∨ st = 3) ∧ getB s F.MEM_SPARE_AVAIL then
    let src := getF s (layerFld l)
    let dst := getF s F.MEM_SPARE_PHYS
    let paused := s.layerRst == some src || s.layerRst == some dst
    let s := setMark (setF s F.MEM_EVAC_STATUS_STATE (if paused then 2 else 1)) 0 0 0
    { s with evac := some { layer := l, src := src, dst := dst, copied := false } }
  else
    let s := setB s F.MEM_EVAC_STATUS_REFUSED true
    raiseEv s 0x3006 sevWarn none 0x23 0x300014 0 (evacStatus s)

def evacStart (s : State) (v : Nat) : State :=
  let s := setF s F.MEM_EVAC_CTRL_LLAYER (bits v 2 0)
  if v.testBit 8 then evacBegin s (bits v 2 0) else s

def execEvacStart (v : BitVec 32) (s : State) : Out := done (inService s (fun s => evacStart s v.toNat))

/-- The column at the mark. -/
def markCol (s : State) : Nat := getF s F.MEM_EVAC_MARK_COLUMN
def markBank (s : State) : Nat := getF s F.MEM_EVAC_MARK_BANK

/-- The column-local DPA of the line at the mark. -/
def markDpa (s : State) (e : Evac) : Nat :=
  markCol s * 2 ^ 27 + e.layer * 2 ^ 24 + markBank s * 2 ^ 22 + getF s F.MEM_EVAC_MARK_LINE * 64

/-- Store a word in the spare layer, which takes none when it is dead (R82). -/
def sparePut (s : State) (e : Evac) (pw : Nat) (c : Codeword) : State :=
  if s.layerDead.contains e.dst then s else cwPut s pw c

/-- R79: one word, read through the source's saddles and stored through the spare's; a dead source reads
poisoned (R82). -/
def evacWord (s : State) (e : Evac) (dpa : Nat) : State :=
  let pcol := getF s (F.MEM_COLMAP_PCOL (dpaCol dpa))
  let w := dpaByte dpa / 8
  let s := stallAt s e.src (bankIndex e.src pcol (dpaBank dpa)) (w / 8)
  let s := stallAt s e.dst (bankIndex e.dst pcol (dpaBank dpa)) (w / 8)
  let pw := physWord s e.src pcol (dpaBank dpa) w
  let dst := physWord s e.dst pcol (dpaBank dpa) w
  if s.layerDead.contains e.src then drawn (sparePut s e dst (encodeWord (freeWord s) true))
  else
    let c := cwAt s pw
    match decodeWord c with
    | .clean => sparePut s e dst c
    | .corrected c' => sparePut (countCe s pw) e dst c'
    | .uncorrectable =>
      let s := sparePut (incF (incF s F.MEM_UE_CNT) F.MEM_EVAC_STATUS_UE_WORDS) e dst (encodeWord (cwData c) true)
      raiseEv s 0x3007 sevError none 3 pcol 0 dpa

/-- The copier moves the line at the mark; the last line of a bank leaves the mark there until the
switch. -/
def evacLineCopy (s : State) : State :=
  match s.evac with
  | none => s
  | some e =>
    if getF s F.MEM_EVAC_STATUS_STATE = 1 ∧ e.copied = false ∧ expressAt s (markDpa s e) = false then
      let a := markDpa s e
      let line := getF s F.MEM_EVAC_MARK_LINE
      let s := if colGone s (markCol s) then s
        else forEach (List.range 8) (wakeLayer (wakeLayer s e.src) e.dst) (fun s i => evacWord s e (a + 8 * i))
      if line = 65535 then { s with evac := some { e with copied := true } }
      else setF s F.MEM_EVAC_MARK_LINE (line + 1)
    else s

def execEvacLineCopy (s : State) : Out := done (inService s (memGate .evacLineCopy evacLineCopy))

/-- R80: the map, the spare and the failed layer change in one step. -/
def evacDone (s : State) (e : Evac) : State :=
  let s := setF s (layerFld e.layer) e.dst
  let s := setB (setF s F.MEM_SPARE_FAILED e.src) F.MEM_SPARE_FAILED_VALID true
  let s := setB (setF s F.MEM_SPARE_PHYS e.src) F.MEM_SPARE_AVAIL false
  let s := setB (setB s (F.FRET_LAYER_PWR_SPARE e.src) true) (F.FRET_LAYER_PWR_SPARE e.dst) false
  let s := setF { s with evac := none } F.MEM_EVAC_STATUS_STATE 3
  let s := raiseEv s 0x3008 sevInfo none 4 0 0 e.src
  traceSleep (setF s (layerSleepFld e.src) 2) (8 + e.src) (getF s (layerSleepFld e.src)) 2

/-- The copied bank's traffic moves to the spare layer unless the copy is paused; with the last bank the evacuation is done. No
item is then under way on the source's fret: a fret serves an item whole, in one command (R130). -/
def evacBankSwitch (s : State) : State :=
  match s.evac with
  | none => s
  | some e =>
    if e.copied && getF s F.MEM_EVAC_STATUS_STATE == 1 then
      if markBank s = 3 ∧ markCol s = 1023 then evacDone s e
      else
        let n := bankOrd (markCol s) (markBank s) + 1
        { setMark s (n / 4) (n % 4) 0 with evac := some { e with copied := false } }
    else s

def execEvacBankSwitch (s : State) : Out := done (inService s evacBankSwitch)

/-! ## Layer reset (R81, R82) -/

/-- A reset of the source or spare layer pauses the copy at the mark (R81). -/
def pauseEvac (s : State) (p from_ goal : Nat) : State :=
  match s.evac with
  | some e =>
    if (e.src = p ∨ e.dst = p) ∧ getF s F.MEM_EVAC_STATUS_STATE = from_ then setF s F.MEM_EVAC_STATUS_STATE goal else s
  | none => s

/-- A write of MEM_LRST_CTRL: the arrays go to self-refresh and accesses to the layer wait (R82). DESIGN CHOICE
(log entry 91): a PLAYER of 9 to 15 names no layer, and the request does nothing. -/
def layerReset (s : State) (v : Nat) : State :=
  let p := bits v 3 0
  let s := setF s F.MEM_LRST_CTRL_PLAYER p
  if v.testBit 8 && !getB s F.MEM_LRST_STATUS_BUSY && decide (p < 9) then
    let s := pauseEvac (setB s F.MEM_LRST_STATUS_BUSY true) p 1 2
    let s := setScope s (8 + p) .zero
    let s := traceSleep (setF s (layerSleepFld p) 2) (8 + p) (getF s (layerSleepFld p)) 2
    { s with layerRst := some p }
  else s

def execLayerReset (v : BitVec 32) (s : State) : Out := done (inService s (fun s => layerReset s v.toNat))

/-- The reset ends with its check; a layer that fails it is dead until a device warm reset. What waited for the
layer goes on. -/
def layerResetDone (s : State) (pass : Bool) : State :=
  match s.layerRst with
  | none => s
  | some p =>
    let s := setB (setB { s with layerRst := none } F.MEM_LRST_STATUS_BUSY false) F.MEM_LRST_STATUS_FAILED (!pass)
    let s := resumeWaiting (recompute (pauseEvac (incF s F.MEM_LRST_STATUS_COUNT) p 2 1) (8 + p))
    if pass then s
    else raiseEv { s with layerDead := p :: s.layerDead.filter (· != p) } 0x3009 sevError none 4 0 0 p

def execLayerResetDone (pass : Bool) (s : State) : Out := done (inService s (fun s => layerResetDone s pass))

end Sys2Proof.Machine
end

