-- ==== Sys2Proof/Machine/Operands.lean ====
section
/-! DEFINITION. What core instructions share: registers (R161), issue and exceptions (R162, R163, R181,
R182, R197), the local store with its poison bits and the accesses in flight (R138 to R140, R174). -/

namespace Sys2Proof.Machine

/-! ## Registers -/

/-- A clean zero. -/
def pzero : PWord := ⟨0, false⟩

/-- An x register; x0 reads 0 (R161). -/
def xget (r : RegFile) (i : BitVec 5) : PWord := if i = 0 then pzero else sget pzero r.x i.toNat

/-- Write an x register; a write to x0 is discarded. -/
def xput (r : RegFile) (i : BitVec 5) (v : PWord) : RegFile :=
  if i = 0 then r else { r with x := sput pzero r.x i.toNat v }

/-- A lane of a v register: 32 bits in a word that carries poison. -/
def vget (r : RegFile) (n : BitVec 5) (lane : Nat) : Word × Bool :=
  let w := sget pzero r.v (n.toNat * 32 + lane)
  (w.data.setWidth 32, w.poison)

def vput (r : RegFile) (n : BitVec 5) (lane : Nat) (v : Word × Bool) : RegFile :=
  { r with v := sput pzero r.v (n.toNat * 32 + lane) ⟨v.1.setWidth 64, v.2⟩ }

/-- A predicate; p0 reads all ones. -/
def pget (r : RegFile) (n : Nat) : Word := if n = 0 then 0xFFFFFFFF#32 else sget 0 r.p n

def pput (r : RegFile) (n : Nat) (v : Word) : RegFile := if n = 0 then r else { r with p := sput 0 r.p n v }

/-- A field that names a p or t register has upper bits 0 (R163). -/
def low3 (f : BitVec 5) : Bool := decide (f.toNat < 8)

/-- Move the program counter on. -/
def advance (n : Nat) (r : RegFile) : RegFile := { r with pc := r.pc + n }

/-- The registers of an executing unit. -/
def getRf (s : State) : Exu → RegFile
  | .core c => (getCore s c).rf
  | .upd n => (getUnit s n).rf

def setRf (s : State) (u : Exu) (r : RegFile) : State :=
  match u with
  | .core c => setCore s c { getCore s c with rf := r }
  | .upd n => setUnit s n { getUnit s n with rf := r }

/-! ## Exceptions (*Table: Core exceptions*) -/

inductive Exc where
  | illegalInstr | illegalOperand | lsRange | misalign | pcRange | sigRange | priv
  deriving DecidableEq, Repr

def Exc.status : Exc → Nat
  | .priv => stPermission
  | _ => stInvalid

def Exc.sub : Exc → Nat
  | .illegalInstr => 0x0500
  | .illegalOperand => 0x0501
  | .lsRange => 0x0502
  | .misalign => 0x0503
  | .pcRange => 0x0504
  | .sigRange => 0x0505
  | .priv => 0x0506

/-- Record an exception of instruction `seq`: the first in program order stays (R182). -/
def noteExc (k : Core) (seq : Nat) (r : Result) : Core :=
  match k.exc with
  | some e => if seq < e.seq then { k with exc := some { seq := seq, res := r } } else k
  | none => { k with exc := some { seq := seq, res := r } }

def recordExc (s : State) (c seq : Nat) (r : Result) : State := setCore s c (noteExc (getCore s c) seq r)

/-- A core that has ended, with nothing in flight, ends its kernel: its item reports the first
exception, or ST_OK (R43, R182). -/
def settleEnd (s : State) (c : Nat) : State :=
  let k := getCore s c
  if k.ending && k.arr.isEmpty && k.dma.isEmpty then
    endKernel s c ((k.exc.map (·.res)).getD okResult)
  else s

/-- The kernel on a core stops: what has issued runs to its end, and the core counts as finished (R181). -/
def finish (s : State) (c : Nat) : State :=
  settleEnd (setCore s c { getCore s c with ending := true, gone := true, wait := none }) c

/-- DETAIL of an exception that stops a kernel: slot offset and logical core (R182). -/
def coreDetail (s : State) (c : Nat) : Nat := (getCore s c).rf.pc % 2 ^ 17 + c * 2 ^ 32

/-- An update unit's invocation ends with a result; EXC_CNT counts it (R197). -/
def endInvocation (s : State) (n : Nat) (r : Result) : State :=
  let k := getUnit s n
  match k.inv with
  | none => s
  | some i => incF (setUnit s n { k with inv := some { i with ended := true, exc := some r } })
      (F.UPD_UNIT_STATUS_EXC_CNT n)

/-- DETAIL of an exception of an update unit: store offset and block index (R197). -/
def unitDetail (s : State) (n : Nat) : Nat :=
  let k := getUnit s n
  k.rf.pc % 2 ^ 17 + ((k.inv.map (·.block)).getD 0) * 2 ^ 32

/-- Raise an exception that stops the kernel or the invocation. -/
def raiseExc (s : State) (u : Exu) (e : Exc) : State :=
  match u with
  | .core c =>
    finish (recordExc s c (getCore s c).issued
      { status := e.status, sub := e.sub, detail := coreDetail s c }) c
  | .upd n => endInvocation s n { status := e.status, sub := e.sub, detail := unitDetail s n }

/-! ## Issue -/

/-- A core with a kernel that runs and waits for nothing, or an invocation below its limit. -/
def mayIssue (s : State) : Exu → Bool
  | .core c =>
    let k := getCore s c
    k.kernel.isSome && k.wait.isNone && !k.ending && !k.stopped
  | .upd n =>
    match (getUnit s n).inv with
    | some i => !i.ended && decide (i.count < i.limit)
    | none => false

/-- Where the program of a unit ends: the length of the running slot, or of the program store. -/
def codeLen (s : State) : Exu → Nat
  | .core c =>
    match (getCore s c).kernel with
    | some k => (sget .zero (getCluster s (c / 16)).slots k.slot).len
    | none => 0
  | .upd _ => 32768

/-- Count an instruction. -/
def countIssue (s : State) : Exu → State
  | .core c => setCore s c { getCore s c with issued := (getCore s c).issued + 1 }
  | .upd n =>
    let k := getUnit s n
    setUnit s n { k with inv := k.inv.map (fun i => { i with count := i.count + 1 }) }

/-- Issue an instruction of `len` bytes that is legal as `ok` says (R162, R163). -/
def issue (s : State) (u : Exu) (len : Nat) (ok : Bool) (f : State → State) : State :=
  if mayIssue s u then
    let s := countIssue s u
    if codeLen s u < (getRf s u).pc + len then raiseExc s u .pcRange
    else if ok then f s
    else raiseExc s u .illegalInstr
  else s

/-- An instruction that acts on the registers alone. -/
def issueRegs (s : State) (u : Exu) (len : Nat) (ok : Bool) (f : RegFile → RegFile) : State :=
  issue s u len ok (fun s => setRf s u (advance len (f (getRf s u))))

/-- An instruction that only a core executes (R183). -/
def issueCore (s : State) (u : Exu) (len : Nat) (ok : Bool) (f : State → Nat → State) : State :=
  match u with
  | .core c => issue s u len ok (fun s => f s c)
  | .upd _ => issue s u len false (fun s => s)

/-- The kernel's program counter moves past an instruction of 4 bytes. -/
def pass (s : State) (c : Nat) : State := setRf s (.core c) (advance 4 (getRf s (.core c)))

/-! ## The local store (R138, R139) -/

/-- A byte of the local store; one that nothing has written is undefined. -/
def lsByte (s : State) (c : Nat) (ls : Sparse Byte) (a : Nat) : Byte :=
  (slook ls a).getD (Config.unwrittenLocal (c + 1024 * s.memEpoch) a)

/-- Contents of a local store: bytes, poison bits, and the errors of the words' codes. -/
structure Store where
  ls : Sparse Byte
  lp : Sparse Bool
  le : Sparse Nat
  deriving DecidableEq, Repr

def storeOf (k : Core) : Store := { ls := k.ls, lp := k.lp, le := k.le }

/-- A word is delivered as poisoned: its poison bit is set, or its SEC-DED code finds an uncorrectable
error; a single-bit error is corrected silently (R139). -/
def badWord (m : Store) (w : Nat) : Bool := sget false m.lp w || decide (2 ≤ sget 0 m.le w)

/-- The word that holds a byte is delivered as poisoned. -/
def lsPoison (m : Store) (a : Nat) : Bool := badWord m (a / 8)

/-- What a word's poison bit becomes where `cells` are written from address `a`: a full write replaces
it, a partial one keeps it (R326) and poisons a word whose old bytes do not decode. -/
def wordPoison (m : Store) (a : Nat) (cells : List (Option (Byte × Bool))) (w : Nat) : Bool :=
  let at_ (i : Nat) : Option (Byte × Bool) :=
    if a ≤ 8 * w + i then (cells.getD (8 * w + i - a) none) else none
  let l := (List.range 8).map at_
  l.any (fun x => (x.map (·.2)).getD false) || (l.any (·.isNone) && badWord m w)

/-- Write a run of bytes from an address; `none` leaves a byte as it is. -/
def putRun (m : Store) (a : Nat) (cells : List (Option (Byte × Bool))) : Store :=
  let ls := cells.zipIdx.foldl (fun ls p =>
    match p.1 with
    | some b => sins ls (a + p.2) b.1
    | none => ls) m.ls
  let words := if cells.isEmpty then []
    else (List.range ((a + cells.length - 1) / 8 + 1 - a / 8)).map (fun i => a / 8 + i)
  { ls := ls, lp := words.foldl (fun lp w => sput false lp w (wordPoison m a cells w)) m.lp,
    le := words.foldl (fun le w => sput 0 le w 0) m.le }

/-- The 16-byte units that a range meets. -/
def unitsOf (a n : Nat) : List Nat :=
  if n = 0 then [] else (List.range ((a + n - 1) / 16 + 1 - a / 16)).map (fun i => a / 16 + i)

/-- A byte range meets the outputs of an array instruction. -/
def meetsOutputs (op : ArrOp) (a n : Nat) : Bool := tileMeets (tileOf op.ty) a n

/-- The local rows of a transfer. -/
def dmaRows (op : DmaOp) : List Nat := (List.range op.rows).map (fun r => op.l + 16 * op.lstride * r)

/-- A byte range meets the local bytes of a transfer. -/
def meetsDma (op : DmaOp) (a n : Nat) : Bool := (dmaRows op).any (fun l => rangesMeet l op.n a n)

/-- A free choice for one unit and one operation in flight. -/
def choice (ctr unit i : Nat) : Bool := Config.takesNew ctr (32 * unit + i)

/-- The units of a range that an operation in flight may have written or read before the store. -/
def newlyPassed (ctr i : Nat) (done : List Nat) (us : List Nat) : List Nat :=
  us.filter (fun u => !done.contains u && choice ctr u i)

/-- The bytes of a range that lie in the units of a list. -/
def bytesIn (us : List Nat) (a n : Nat) : List Nat :=
  ((List.range n).map (a + ·)).filter (fun b => us.contains (b / 16))

/-- An array instruction in flight notes a write to the local store by another agent (R174). -/
def arrNote (ctr i a n : Nat) (o : ArrOp) : ArrOp :=
  let us := (unitsOf a n).filter (fun u => meetsOutputs o (16 * u) 16)
  let passed := o.passed ++ newlyPassed ctr i o.passed us
  { o with dirty := if meetsInputs o a n then o.dirty ++ [(a, n)] else o.dirty, passed := passed, kept := o.kept ++ bytesIn passed a n }

/-- The contents of a 16-byte unit, and the poison bits of its words. -/
def unitOf (s : State) (c : Nat) (m : Store) (u : Nat) : BitVec 128 × BitVec 2 :=
  (BitVec.ofNat 128 (natOf ((List.range 16).map (fun i => lsByte s c m.ls (16 * u + i)))),
   BitVec.ofNat 2 ((badWord m (2 * u)).toNat + 2 * (badWord m (2 * u + 1)).toNat))

/-- A transfer in flight notes a write to the local store by another agent (R140). -/
def dmaNote (s : State) (c : Nat) (m : Store) (i a n : Nat) (o : DmaOp) : DmaOp :=
  let us := (unitsOf a n).filter (fun u => meetsDma o (16 * u) 16)
  if o.put then
    { o with got := (newlyPassed s.freeCtr i (o.got.map (·.1)) us).foldl (fun g u => sins g u (unitOf s c m u)) o.got }
  else
    let passed := o.passed ++ newlyPassed s.freeCtr i o.passed us
    { o with passed := passed, kept := o.kept ++ bytesIn passed a n }

/-- Something of the core is in flight. -/
def inFlight (k : Core) : Bool := !k.arr.isEmpty || !k.dma.isEmpty

/-- Operations in flight note a write to a range: array instructions, when the writer is none, and
transfers. -/
def noteRange (s : State) (c : Nat) (arr : Bool) (a n : Nat) : State :=
  let k := getCore s c
  if inFlight k then
    let arrs := if arr then k.arr.zipIdx.map (fun p => arrNote s.freeCtr p.2 a n p.1) else k.arr
    let dmas := k.dma.zipIdx.map (fun p => dmaNote s c (storeOf k) (4 + p.2) a n p.1)
    drawn (setCore s c { k with arr := arrs, dma := dmas })
  else s

/-- Write a run of cells to the local store of a core. -/
def putLs (s : State) (c a : Nat) (cells : List (Option (Byte × Bool))) : State :=
  let k := getCore s c
  let m := putRun (storeOf k) a cells
  setCore s c { k with ls := m.ls, lp := m.lp, le := m.le }

/-- A scalar or vector store of bytes that share a poison mark per byte. -/
def storeLs (s : State) (c a : Nat) (bs : List (Byte × Bool)) : State :=
  putLs (noteRange s c true a bs.length) c a (bs.map some)

/-! ## Effects of operations in flight -/

/-- Bytes of an output that depends on inputs written after issue: undefined. -/
def undefPiece (ctr : Nat) (p : OutPiece) : OutPiece :=
  { p with bytes := (List.range p.bytes.length).map (fun i => (Config.freeWord (ctr + p.addr + i)).setWidth 8) }

/-- An output depends on an input byte that was written after issue (R174). -/
def outDirty (o : ArrOp) (x : ArrOut) : Bool := o.dirty.any (fun r => outMeets o x.row x.col r.1 r.2)

/-- The outputs of an array instruction from the contents of a store, and its ASTAT bits. -/
def arrResult (s : State) (c : Nat) (m : Store) (fs : List ArrFault) (o : ArrOp) : List OutPiece × BitVec 4 :=
  let xs := arrEval o fs (lsByte s c m.ls) (lsPoison m)
  let free : BitVec 4 := if xs.any (outDirty o) then (Config.freeWord s.freeCtr).setWidth 4 &&& 0x7#4 else 0
  (xs.map (fun x => if outDirty o x then undefPiece s.freeCtr x.piece else x.piece),
   xs.foldl (fun f x => if outDirty o x then f else f ||| x.flags) free)

/-- Rows of outputs as runs of cells; bytes of stores that came after the array's write stay. -/
def arrRuns (o : ArrOp) (ps : List OutPiece) : List (Nat × List (Option (Byte × Bool))) :=
  (blocksOf (tileOf o.ty).cols ps).map (fun row =>
    let a := (row.head?.map (·.addr)).getD 0
    let cells := row.flatMap (fun p => p.bytes.map (fun b => some (b, p.poison)))
    (a, cells.zipIdx.map (fun p => if o.kept.contains (a + p.2) then none else p.1)))

/-- Write the outputs of an array instruction. -/
def arrWrite (m : Store) (o : ArrOp) (ps : List OutPiece) : Store :=
  (arrRuns o ps).foldl (fun m r => putRun m r.1 r.2) m

/-- Read one word for a transfer: none where its column touches nothing. -/
def dmaRead (s : State) (ctx part va : Nat) : State × Option PWord :=
  match translate s ctx va .read with
  | (s, .error _) => (s, none)
  | (s, .ok dpa) =>
    match readShared s (dpa / 8 * 8) with
    | (s, none) => (s, none)
    | (s, some w) => (countChan s part 22 (dpaCol dpa) 8, some w)

/-- The bytes of one row of a GET; none for bytes of a column that touches nothing. -/
def getRow (s : State) (part : Nat) (o : DmaOp) (va : Nat) : State × List (Option (Byte × Bool)) :=
  let r := (wordAddrs va o.n).foldl (fun (acc : State × List (Option (Byte × Bool))) w =>
    match dmaRead acc.1 o.ctx part (firstByte va w) with
    | (s, none) => (s, acc.2 ++ List.replicate 8 none)
    | (s, some p) => (s, acc.2 ++ (bytesOf 8 p.data.toNat).map (fun b => some (b, p.poison)))) (s, [])
  (r.1, (r.2.drop (va % 8)).take o.n)

/-- Cells of a row without the bytes of stores that came after the transfer's write. -/
def keepCells (kept : List Nat) (a : Nat) (cells : List (Option (Byte × Bool))) : List (Option (Byte × Bool)) :=
  cells.zipIdx.map (fun p => if kept.contains (a + p.2) then none else p.1)

/-- A word of a transfer came in a packet that arrived poisoned (R212, R326). -/
def wordHit (o : DmaOp) (w : Nat) : Bool := o.bad.any (fun n => Config.packetHit n w)

/-- The cells of a row at a local address, with what poisoned packets carried. -/
def hitCells (o : DmaOp) (a : Nat) (cells : List (Option (Byte × Bool))) : List (Option (Byte × Bool)) :=
  if o.bad.isEmpty then cells
  else cells.zipIdx.map (fun p => p.1.map (fun x => (x.1, x.2 || wordHit o ((a + p.2) / 8))))

/-- The rows of a GET as runs of cells. -/
def getRuns (s : State) (part : Nat) (o : DmaOp) : State × List (Nat × List (Option (Byte × Bool))) :=
  (dmaPairs o).foldl (fun (acc : State × List (Nat × List (Option (Byte × Bool)))) p =>
    let r := getRow acc.1 part o p.2
    (r.1, acc.2 ++ [(p.1, hitCells o p.1 r.2)])) (s, [])

/-- The translations of a transfer, checked whole; a column that touches nothing is no failure of the
translation (R140). -/
def dmaCheck (s : State) (o : DmaOp) : State × Option Result :=
  (dmaPairs o).foldl (fun acc p =>
    (pieces p.2 o.n).foldl (fun (acc : State × Option Result) v =>
      match acc.2 with
      | some _ => acc
      | none =>
        match translate acc.1 o.ctx v (if o.put then .write else .read) with
        | (s, .error f) => (s, some (xResult f v))
        | (s, .ok _) => (s, none)) acc) (s, none)

/-- The local store as it would be with the operations in flight done, one after another. -/
def views (s : State) (c : Nat) : List (Nat × Store) :=
  let k := getCore s c
  let arrs := k.arr.zipIdx.foldl (fun (acc : Store × List (Nat × Store)) p =>
    let m := arrWrite acc.1 p.1 (arrResult s c acc.1 [] p.1).1
    (m, acc.2 ++ [(p.2, m)])) (storeOf k, [])
  let gets := (k.dma.zipIdx.filter (fun p => !p.1.put && (dmaCheck s p.1).2.isNone)).map (fun p =>
    (4 + p.2, (getRuns s 0 p.1).2.foldl (fun m r => putRun m r.1 (keepCells p.1.kept r.1 r.2)) (storeOf k)))
  arrs.2 ++ gets

/-- A range meets the bytes that an operation in flight writes. -/
def meetsWrites (k : Core) (a n : Nat) : Bool :=
  k.arr.any (fun o => meetsOutputs o a n) || k.dma.any (fun o => !o.put && meetsDma o a n)

/-- A byte as a read finds it: the old contents, or those of an operation in flight, chosen separately
for each 16-byte unit (R140, R174). -/
def chosen (s : State) (c : Nat) (m : Store) (vs : List (Nat × Store)) (a : Nat) : Byte × Bool :=
  vs.foldl (fun acc v =>
    if choice s.freeCtr (a / 16) v.1 then (lsByte s c v.2.ls a, lsPoison v.2 a) else acc)
    (lsByte s c m.ls a, lsPoison m a)

/-- Read bytes of the local store, with their poison. -/
def readLs (s : State) (c a n : Nat) : State × List (Byte × Bool) :=
  let k := getCore s c
  let m := storeOf k
  if meetsWrites k a n then
    let vs := views s c
    ({ s with freeCtr := s.freeCtr + lsSize }, (List.range n).map (fun i => chosen s c m vs (a + i)))
  else (s, (List.range n).map (fun i => (lsByte s c m.ls (a + i), lsPoison m (a + i))))

/-- A read of the local store by an instruction: poison consumed makes the item report ST_UE (R139). -/
def loadLs (s : State) (c a n : Nat) : State × List (Byte × Bool) :=
  let r := readLs s c a n
  (if r.2.any (·.2) then recordExc r.1 c (getCore s c).issued (plainResult stUe) else r.1, r.2)

/-- The number that bytes hold, and whether one of them is poisoned. -/
def numOf (l : List (Byte × Bool)) : Nat × Bool := (natOf (l.map (·.1)), l.any (·.2))

/-- Why an access of `n` bytes aligned to `al` is not made (R166). -/
def lsFault (a n al : Nat) : Option Exc :=
  if a % al ≠ 0 then some .misalign else if lsSize < a + n then some .lsRange else none

end Sys2Proof.Machine
end

