-- ==== Sys2Proof/Machine/Scalar.lean ====
section
/-! DEFINITION. The meanings of the scalar, control and system instructions (R162 to R165, R183). -/

namespace Sys2Proof.Machine

/-! ## Scalar operations (R164) -/

/-- Two sources and a result; a poisoned source poisons the result (R326). -/
def alu (d : BitVec 5) (x y : PWord) (f : DWord → DWord → DWord) (r : RegFile) : RegFile :=
  xput r d ⟨f x.data y.data, x.poison || y.poison⟩

/-- A REG form: xD = xA op xB. -/
def aluReg (s : State) (u : Exu) (d a b : BitVec 5) (f : DWord → DWord → DWord) : State :=
  issueRegs s u 4 true (fun r => alu d (xget r a) (xget r b) f r)

/-- An IMM form: sext(IMM15) takes the place of xB. -/
def aluImm (s : State) (u : Exu) (d a : BitVec 5) (imm : BitVec 15) (f : DWord → DWord → DWord) : State :=
  issueRegs s u 4 true (fun r => alu d (xget r a) ⟨imm.signExtend 64, false⟩ f r)

/-- A shift by an immediate: IMM15[5:0], and every other bit of it 0. -/
def aluShift (s : State) (u : Exu) (d a : BitVec 5) (imm : BitVec 15) (f : DWord → DWord → DWord) : State :=
  issueRegs s u 4 (decide (imm.toNat < 64)) (fun r => alu d (xget r a) ⟨imm.setWidth 64, false⟩ f r)

def boolWord (b : Bool) : DWord := if b then 1 else 0

def opSll (x y : DWord) : DWord := x <<< (y.toNat % 64)
def opSrl (x y : DWord) : DWord := x >>> (y.toNat % 64)
def opSra (x y : DWord) : DWord := x.sshiftRight (y.toNat % 64)
def opSlt (x y : DWord) : DWord := boolWord (x.slt y)
def opSltu (x y : DWord) : DWord := boolWord (x.ult y)
def opMin (x y : DWord) : DWord := if x.slt y then x else y
def opMax (x y : DWord) : DWord := if x.slt y then y else x
def opMulh (x y : DWord) : DWord := BitVec.ofInt 64 (x.toInt * y.toInt / 2 ^ 64)
def opMulhu (x y : DWord) : DWord := BitVec.ofNat 64 (x.toNat * y.toNat / 2 ^ 64)
/-- R164: division by zero gives all ones; −2^63 by −1 wraps to −2^63. -/
def opDiv (x y : DWord) : DWord := if y = 0 then BitVec.allOnes 64 else BitVec.ofInt 64 (x.toInt.tdiv y.toInt)
def opDivu (x y : DWord) : DWord := if y = 0 then BitVec.allOnes 64 else BitVec.ofNat 64 (x.toNat / y.toNat)
/-- R164: the remainder by zero is xA. -/
def opRem (x y : DWord) : DWord := if y = 0 then x else BitVec.ofInt 64 (x.toInt.tmod y.toInt)
def opRemu (x y : DWord) : DWord := if y = 0 then x else BitVec.ofNat 64 (x.toNat % y.toNat)

def execAdd (u : Exu) (d a b : BitVec 5) (s : State) : Out :=
  onUnit (exuOk u) (inService s (fun s => aluReg s u d a b (· + ·)))

def execSub (u : Exu) (d a b : BitVec 5) (s : State) : Out :=
  onUnit (exuOk u) (inService s (fun s => aluReg s u d a b (· - ·)))

def execAnd (u : Exu) (d a b : BitVec 5) (s : State) : Out :=
  onUnit (exuOk u) (inService s (fun s => aluReg s u d a b (· &&& ·)))

def execOr (u : Exu) (d a b : BitVec 5) (s : State) : Out :=
  onUnit (exuOk u) (inService s (fun s => aluReg s u d a b (· ||| ·)))

def execXor (u : Exu) (d a b : BitVec 5) (s : State) : Out :=
  onUnit (exuOk u) (inService s (fun s => aluReg s u d a b (· ^^^ ·)))

def execSll (u : Exu) (d a b : BitVec 5) (s : State) : Out :=
  onUnit (exuOk u) (inService s (fun s => aluReg s u d a b opSll))

def execSrl (u : Exu) (d a b : BitVec 5) (s : State) : Out :=
  onUnit (exuOk u) (inService s (fun s => aluReg s u d a b opSrl))

def execSra (u : Exu) (d a b : BitVec 5) (s : State) : Out :=
  onUnit (exuOk u) (inService s (fun s => aluReg s u d a b opSra))

def execSlt (u : Exu) (d a b : BitVec 5) (s : State) : Out :=
  onUnit (exuOk u) (inService s (fun s => aluReg s u d a b opSlt))

def execSltu (u : Exu) (d a b : BitVec 5) (s : State) : Out :=
  onUnit (exuOk u) (inService s (fun s => aluReg s u d a b opSltu))

def execMin (u : Exu) (d a b : BitVec 5) (s : State) : Out :=
  onUnit (exuOk u) (inService s (fun s => aluReg s u d a b opMin))

def execMax (u : Exu) (d a b : BitVec 5) (s : State) : Out :=
  onUnit (exuOk u) (inService s (fun s => aluReg s u d a b opMax))

def execMul (u : Exu) (d a b : BitVec 5) (s : State) : Out :=
  onUnit (exuOk u) (inService s (fun s => aluReg s u d a b (· * ·)))

def execMulh (u : Exu) (d a b : BitVec 5) (s : State) : Out :=
  onUnit (exuOk u) (inService s (fun s => aluReg s u d a b opMulh))

def execMulhu (u : Exu) (d a b : BitVec 5) (s : State) : Out :=
  onUnit (exuOk u) (inService s (fun s => aluReg s u d a b opMulhu))

def execDiv (u : Exu) (d a b : BitVec 5) (s : State) : Out :=
  onUnit (exuOk u) (inService s (fun s => aluReg s u d a b opDiv))

def execDivu (u : Exu) (d a b : BitVec 5) (s : State) : Out :=
  onUnit (exuOk u) (inService s (fun s => aluReg s u d a b opDivu))

def execRem (u : Exu) (d a b : BitVec 5) (s : State) : Out :=
  onUnit (exuOk u) (inService s (fun s => aluReg s u d a b opRem))

def execRemu (u : Exu) (d a b : BitVec 5) (s : State) : Out :=
  onUnit (exuOk u) (inService s (fun s => aluReg s u d a b opRemu))

def execAddi (u : Exu) (d a : BitVec 5) (imm : BitVec 15) (s : State) : Out :=
  onUnit (exuOk u) (inService s (fun s => aluImm s u d a imm (· + ·)))

def execAndi (u : Exu) (d a : BitVec 5) (imm : BitVec 15) (s : State) : Out :=
  onUnit (exuOk u) (inService s (fun s => aluImm s u d a imm (· &&& ·)))

def execOri (u : Exu) (d a : BitVec 5) (imm : BitVec 15) (s : State) : Out :=
  onUnit (exuOk u) (inService s (fun s => aluImm s u d a imm (· ||| ·)))

def execXori (u : Exu) (d a : BitVec 5) (imm : BitVec 15) (s : State) : Out :=
  onUnit (exuOk u) (inService s (fun s => aluImm s u d a imm (· ^^^ ·)))

def execSlli (u : Exu) (d a : BitVec 5) (imm : BitVec 15) (s : State) : Out :=
  onUnit (exuOk u) (inService s (fun s => aluShift s u d a imm opSll))

def execSrli (u : Exu) (d a : BitVec 5) (imm : BitVec 15) (s : State) : Out :=
  onUnit (exuOk u) (inService s (fun s => aluShift s u d a imm opSrl))

def execSrai (u : Exu) (d a : BitVec 5) (imm : BitVec 15) (s : State) : Out :=
  onUnit (exuOk u) (inService s (fun s => aluShift s u d a imm opSra))

def execSlti (u : Exu) (d a : BitVec 5) (imm : BitVec 15) (s : State) : Out :=
  onUnit (exuOk u) (inService s (fun s => aluImm s u d a imm opSlt))

/-! ## Control (R165) -/

/-- A branch condition; none when COND is undefined. -/
def condOf (cond : BitVec 3) (x y : DWord) : Option Bool :=
  match cond.toNat with
  | 0 => some (x == y)
  | 1 => some (x != y)
  | 2 => some (x.slt y)
  | 3 => some (!x.slt y)
  | 4 => some (x.ult y)
  | 5 => some (!x.ult y)
  | _ => none

/-- A program counter moved by a signed number of instructions' 4 bytes, modulo 2^64. -/
def pcMoved (pc : Nat) (n : Int) : Nat := (((pc : Int) + 4 * n) % 2 ^ 64).toNat

/-- Bcc: when the condition holds, PC = PC + 4 × OFF12. -/
def branch (cond : BitVec 3) (a b : BitVec 5) (off : BitVec 12) (r : RegFile) : RegFile :=
  match condOf cond (xget r a).data (xget r b).data with
  | some true => { r with pc := pcMoved r.pc off.toInt }
  | _ => advance 4 r

def execBcc (u : Exu) (cond : BitVec 3) (a b : BitVec 5) (off : BitVec 12) (s : State) : Out :=
  onUnit (exuOk u) (inService s (fun s =>
    issue s u 4 (decide (cond.toNat < 6)) (fun s => setRf s u (branch cond a b off (getRf s u)))))

/-- xD = address of the next instruction; PC = PC + 4 × IMM15. -/
def jump (d : BitVec 5) (imm : BitVec 15) (r : RegFile) : RegFile :=
  { xput r d ⟨BitVec.ofNat 64 (r.pc + 4), false⟩ with pc := pcMoved r.pc imm.toInt }

def execJal (u : Exu) (d a : BitVec 5) (imm : BitVec 15) (s : State) : Out :=
  onUnit (exuOk u) (inService s (fun s =>
    issue s u 4 (a == 0) (fun s => setRf s u (jump d imm (getRf s u)))))

/-- The target of a JALR. -/
def jalrTarget (a : BitVec 5) (imm : BitVec 15) (r : RegFile) : Nat :=
  ((xget r a).data + imm.signExtend 64).toNat

/-- xD = address of the next instruction; PC = xA + sext(IMM15). -/
def jumpReg (d a : BitVec 5) (imm : BitVec 15) (r : RegFile) : RegFile :=
  { xput r d ⟨BitVec.ofNat 64 (r.pc + 4), (xget r a).poison⟩ with pc := jalrTarget a imm r }

def execJalr (u : Exu) (d a : BitVec 5) (imm : BitVec 15) (s : State) : Out :=
  onUnit (exuOk u) (inService s (fun s => issue s u 4 true (fun s =>
    if jalrTarget a imm (getRf s u) % 4 = 0 then setRf s u (jumpReg d a imm (getRf s u))
    else raiseExc s u .misalign)))

def execLi (u : Exu) (d : BitVec 5) (rsv : BitVec 15) (imm : BitVec 32) (s : State) : Out :=
  onUnit (exuOk u) (inService s (fun s =>
    issueRegs s u 8 (rsv == 0) (fun r => xput r d ⟨imm.signExtend 64, false⟩)))

/-- xD[63:32] = IMM32; xD[31:0] unchanged. -/
def highImm (d : BitVec 5) (imm : BitVec 32) (r : RegFile) : RegFile :=
  let x := xget r d
  xput r d ⟨imm ++ x.data.setWidth 32, x.poison⟩

def execLih (u : Exu) (d : BitVec 5) (rsv : BitVec 15) (imm : BitVec 32) (s : State) : Out :=
  onUnit (exuOk u) (inService s (fun s => issueRegs s u 8 (rsv == 0) (highImm d imm)))

/-! ## System (*Table: System operations*) -/

def execSystemNop (u : Exu) (s : State) : Out :=
  onUnit (exuOk u) (inService s (fun s => issueRegs s u 4 true (fun r => r)))

/-- END of an update unit's invocation (R192 to R194). -/
def endUnit (s : State) (n : Nat) : State :=
  let k := getUnit s n
  setUnit s n { k with inv := k.inv.map (fun i => { i with ended := true }) }

/-- END ends the kernel once what the core has in flight has completed (R43). -/
def endUnitOrCore (s : State) : Exu → State
  | .core c => finish (pass s c) c
  | .upd n => endUnit s n

def execEndKernel (u : Exu) (s : State) : Out :=
  onUnit (exuOk u) (inService s (fun s => issue s u 4 true (fun s => endUnitOrCore s u)))

/-- xD takes a value. -/
def setX (s : State) (u : Exu) (d : BitVec 5) (v : PWord) : State :=
  setRf s u (advance 4 (xput (getRf s u) d v))

def execAstr (u : Exu) (d : BitVec 5) (s : State) : Out :=
  onUnit (exuOk u) (inService s (fun s => issueCore s u 4 true (fun s c =>
    setX s u d ⟨(getCore s c).astat.setWidth 64, false⟩)))

/-- Clear each ASTAT bit that is set in a mask. -/
def clearAstat (s : State) (c : Nat) (m : DWord) : State :=
  setCore s c { getCore s c with astat := (getCore s c).astat &&& ~~~(m.setWidth 4) }

def execAstc (u : Exu) (a : BitVec 5) (s : State) : Out :=
  onUnit (exuOk u) (inService s (fun s => issueCore s u 4 true (fun s c =>
    pass (clearAstat s c (xget (getRf s u) a).data) c)))

/-- Cycles of a core's clock since its LAUNCH began. -/
def coreCycles (s : State) (c : Nat) : Nat :=
  let n := siteCycles s (coreSiteOf s c)
  match (getCore s c).kernel with
  | some k => (n - k.cyc0) / 80
  | none => 0

/-- CYCLE: of an update unit the manual states no origin, so the value is free. -/
def readCycle (s : State) (u : Exu) (d : BitVec 5) : State :=
  match u with
  | .core c => setX s u d ⟨BitVec.ofNat 64 (coreCycles s c), false⟩
  | .upd _ => drawn (setX s u d ⟨freeWord s, false⟩)

def execCycle (u : Exu) (d : BitVec 5) (s : State) : Out :=
  onUnit (exuOk u) (inService s (fun s => issue s u 4 true (fun s => readCycle s u d)))

def execTimeRead (u : Exu) (d : BitVec 5) (s : State) : Out :=
  onUnit (exuOk u) (inService s (fun s => issue s u 4 true (fun s =>
    setX s u d ⟨BitVec.ofNat 64 s.time, false⟩)))

end Sys2Proof.Machine
end

