-- ==== Sys2Proof/Machine/Vector.lean ====
section
/-! DEFINITION. The meanings of the vector instructions (R167 to R170, R326). -/

namespace Sys2Proof.Machine

/-! ## Issue and counting -/

/-- Lanes that a predicate names. -/
def lanesOn (p : Word) : List Nat := (List.range 32).filter (fun i => p.getLsbD i)

/-- Every lane. -/
def lanes : List Nat := List.range 32

/-- The partition and the logical cluster that a unit works for. -/
def workFor (s : State) : Exu → Nat × Nat
  | .core c => (((getCore s c).kernel.map (·.part)).getD 0, c / 16)
  | .upd n => (((getUnit s n).inv.map (fun i => partOf s i.q)).getD 0, getF s (F.UPD_UNIT_STATUS_LC n))

/-- Counter indices of vector work (*Table: Counter indices*). -/
def cntFp32 : Nat := 7
def cntHalf : Nat := 8
def cntInt : Nat := 9

/-- Issue a vector instruction: its effect on the registers, and the items it counts. -/
def issueVec (s : State) (u : Exu) (ok : Bool) (kind : Nat) (n : RegFile → Nat) (f : RegFile → RegFile) : State :=
  issue s u 4 ok (fun s =>
    let r := getRf s u
    let w := workFor s u
    countLc (setRf s u (advance 4 (f r))) w.1 w.2 kind (n r))

/-- Number of lanes that a predicate names. -/
def laneCount (pred : BitVec 3) (r : RegFile) : Nat := (lanesOn (pget r pred.toNat)).length

/-! ## Lane-wise operations -/

/-- Which registers a lane operation reads. -/
structure Reads where
  a : Bool
  b : Bool
  d : Bool
  deriving DecidableEq, Repr

/-- A poisoned source among the lanes that an operation reads (R326). -/
def laneTaint (rd : Reads) (d a b : BitVec 5) (on : List Nat) (r : RegFile) : Bool :=
  on.any (fun i => (rd.a && (vget r a i).2) || (rd.b && (vget r b i).2) || (rd.d && (vget r d i).2))

/-- Write the lanes of a list; the others stay, or become 0 with PZ (R167). -/
def putLanes (d : BitVec 5) (pz : Bool) (on : List Nat) (f : Nat → Word × Bool) (r : RegFile) : RegFile :=
  lanes.foldl (fun acc i => if on.contains i then vput acc d i (f i) else if pz then vput acc d i (0, false) else acc) r

/-- A lane-wise operation on vA, vB and the old vD. -/
def laneOp (rd : Reads) (d a b : BitVec 5) (pred : BitVec 3) (pz : Bool) (f : Word → Word → Word → Word)
    (r : RegFile) : RegFile :=
  let on := lanesOn (pget r pred.toNat)
  let p := laneTaint rd d a b on r
  putLanes d pz on (fun i => (f (vget r a i).1 (vget r b i).1 (vget r d i).1, p)) r

/-- Two sources. -/
def vec2 (s : State) (u : Exu) (d a b : BitVec 5) (pred : BitVec 3) (pz : Bool) (kind : Nat)
    (f : Word → Word → Word) : State :=
  issueVec s u true kind (laneCount pred) (laneOp ⟨true, true, false⟩ d a b pred pz (fun x y _ => f x y))

/-- One source, B = 0. -/
def vec1 (s : State) (u : Exu) (d a b : BitVec 5) (pred : BitVec 3) (pz : Bool) (f : Word → Word) : State :=
  issueVec s u (b == 0) cntFp32 (laneCount pred) (laneOp ⟨true, false, false⟩ d a b pred pz (fun x _ _ => f x))

/-- Three sources, vD among them. -/
def vec3 (s : State) (u : Exu) (d a b : BitVec 5) (pred : BitVec 3) (pz : Bool) (kind per : Nat)
    (f : Word → Word → Word → Word) : State :=
  issueVec s u true kind (fun r => per * laneCount pred r) (laneOp ⟨true, true, true⟩ d a b pred pz f)

def vSll (x y : Word) : Word := x <<< (y.toNat % 32)
def vSra (x y : Word) : Word := x.sshiftRight (y.toNat % 32)
def vMin (x y : Word) : Word := if x.slt y then x else y
def vMax (x y : Word) : Word := if x.slt y then y else x
/-- Sign operations; a NaN result is the quiet NaN of R168. -/
def vAbs (x : Word) : Word := enc32 (fvAbs (dec32 x))
def vNeg (x : Word) : Word := enc32 (exNeg (dec32 x))

/-- vA × vB + vD in each half, one rounding to the 16-bit format. -/
def halves2 (f : Fmt) (x y z : Word) : Word :=
  fma16 f (x.extractLsb' 16 16) (y.extractLsb' 16 16) (z.extractLsb' 16 16) ++
    fma16 f (x.setWidth 16) (y.setWidth 16) (z.setWidth 16)

/-! ## Compares and predicates -/

/-- The bits of a predicate under another: the other bits stay, or become 0 with PZ. -/
def maskInto (on old new : Word) (pz : Bool) : Word := (new &&& on) ||| (if pz then 0 else old &&& ~~~on)

/-- Write a predicate under PRED. -/
def putPred (d : BitVec 5) (pred : BitVec 3) (pz : Bool) (v : Word) (r : RegFile) : RegFile :=
  pput r d.toNat (maskInto (pget r pred.toNat) (pget r d.toNat) v pz)

/-- A word with bit i from lane i. -/
def bitsOf (f : Nat → Bool) : Word := lanes.foldl (fun w i => if f i then w ||| BitVec.twoPow 32 i else w) 0

/-- A compare writes pD a bit at a time. -/
def vecCmp (s : State) (u : Exu) (d a b : BitVec 5) (pred : BitVec 3) (pz : Bool) (kind : Nat)
    (f : Word → Word → Bool) : State :=
  issueVec s u (low3 d) kind (laneCount pred) (fun r =>
    putPred d pred pz (bitsOf (fun i => f (vget r a i).1 (vget r b i).1)) r)

/-- pD = pA op pB. -/
def vecPred (s : State) (u : Exu) (d a b : BitVec 5) (pred : BitVec 3) (pz : Bool) (ok : Bool)
    (f : Word → Word → Word) : State :=
  issueVec s u (low3 d && low3 a && low3 b && ok) cntInt (laneCount pred) (fun r =>
    putPred d pred pz (f (pget r a.toNat) (pget r b.toNat)) r)

/-! ## Operations across lanes -/

/-- The lanes of a register. -/
def lanesOf (r : RegFile) (n : BitVec 5) : List Word := lanes.map (fun i => (vget r n i).1)

/-- A poisoned lane of a register. -/
def anyPoison (r : RegFile) (n : BitVec 5) : Bool := lanes.any (fun i => (vget r n i).2)

/-- Write every lane. -/
def putAll (d : BitVec 5) (vs : List Word) (p : Bool) (r : RegFile) : RegFile :=
  putLanes d false lanes (fun i => (vs.getD i 0, p)) r

/-- A result in lane 0, the other lanes 0; PRED is 0. -/
def vecRed (s : State) (u : Exu) (d a : BitVec 5) (pred : BitVec 3) (f : List Word → Word) : State :=
  issueVec s u (pred == 0) cntFp32 (fun _ => 32) (fun r => putAll d [f (lanesOf r a)] (anyPoison r a) r)

def redMax (l : List Word) : Word := l.tail.foldl fmax (l.headD 0)

/-- Where the predicate is set vA, else vB. -/
def selLanes (d a b : BitVec 5) (pred : BitVec 3) (r : RegFile) : RegFile :=
  let p := pget r pred.toNat
  let src (i : Nat) : BitVec 5 := if p.getLsbD i then a else b
  let t := lanes.any (fun i => (vget r (src i) i).2)
  putLanes d false lanes (fun i => ((vget r (src i) i).1, t)) r

/-- Lane i = lane vB[i][4:0] of vA. -/
def permLanes (d a b : BitVec 5) (pred : BitVec 3) (pz : Bool) (r : RegFile) : RegFile :=
  let on := lanesOn (pget r pred.toNat)
  let src (i : Nat) : Nat := (vget r b i).1.toNat % 32
  let t := on.any (fun i => (vget r b i).2 || (vget r a (src i)).2)
  putLanes d pz on (fun i => ((vget r a (src i)).1, t)) r

/-- Every lane written = xA[31:0]. -/
def castLanes (d a : BitVec 5) (pred : BitVec 3) (pz : Bool) (r : RegFile) : RegFile :=
  let x := xget r a
  putLanes d pz (lanesOn (pget r pred.toNat)) (fun _ => (x.data.setWidth 32, x.poison)) r

/-- xD = sext(lane xB[4:0] of vA). -/
def extractLane (d a b : BitVec 5) (r : RegFile) : RegFile :=
  let x := xget r b
  let v := vget r a (x.data.toNat % 32)
  xput r d ⟨v.1.signExtend 64, v.2 || x.poison⟩

/-! ## VCVT (R159, R169) -/

/-- FP32 to signed 32-bit: truncated towards zero, clamped; NaN gives 0. -/
def toInt32 (x : Word) : Word :=
  match dec32 x with
  | .nan => 0
  | .inf neg => if neg then 0x80000000#32 else 0x7FFFFFFF#32
  | .fin neg m e =>
    let t : Int := (if 0 ≤ e then m * 2 ^ e.toNat else m / 2 ^ (-e).toNat : Nat)
    BitVec.ofInt 32 (max (-2 ^ 31) (min (2 ^ 31 - 1) (if neg then -t else t)))

/-- The format of a scalar VCVT code. -/
def cvtFmt (code : Nat) : Fmt :=
  match code % 4 with
  | 0 => fmtBF16
  | 1 => fmtF16
  | 2 => fmtE4M3
  | _ => fmtE5M2

/-- A scalar VCVT code on one lane. -/
def cvtLane (code : Nat) (x : Word) : Word :=
  if code < 4 then BitVec.ofNat 32 (fround (cvtFmt code) (dec32 x))
  else if code < 8 then enc32 (fdec (cvtFmt code) (x.toNat % 2 ^ (cvtFmt code).width))
  else if code = 8 then toInt32 x
  else enc32 (intVal 32 x.toNat 0)

/-- The MX format of a VCVT code. -/
def cvtMx (code : Nat) : Mx :=
  match (code - 10) % 6 with
  | 0 => .e4m3
  | 1 => .e5m2
  | 2 => .e2m3
  | 3 => .e3m2
  | 4 => .e2m1
  | _ => .int8

/-- The 32 words of a number. -/
def wordsOf (v : Nat) : List Word := lanes.map (fun i => BitVec.ofNat 32 (v / 2 ^ (32 * i)))

/-- 32 lanes as one MX block: elements from byte 0, the scale in byte 127. -/
def toBlock (k : Mx) (vs : List Word) : List Word :=
  let fs := vs.map dec32
  wordsOf (packCodes k.bits (mxCodes k fs) + mxScale k fs * 2 ^ 1016)

/-- A register as a number. -/
def regNat (vs : List Word) : Nat := vs.foldr (fun w a => w.toNat + a * 2 ^ 32) 0

/-- One MX block as 32 FP32 lanes. -/
def fromBlock (k : Mx) (vs : List Word) : List Word :=
  let v := regNat vs
  lanes.map (fun i => enc32 (mxDec k (v / 2 ^ 1016 % 256) (codeAt k.bits v i)))

/-- VCVT by code; MX codes convert whole registers. -/
def convert (d a : BitVec 5) (code : Nat) (pred : BitVec 3) (pz : Bool) (r : RegFile) : RegFile :=
  if code < 10 then laneOp ⟨true, false, false⟩ d a 0 pred pz (fun x _ _ => cvtLane code x) r
  else if code < 16 then putAll d (toBlock (cvtMx code) (lanesOf r a)) (anyPoison r a) r
  else
    let out := fromBlock (cvtMx code) (lanesOf r a)
    let p := anyPoison r a
    putLanes d pz (lanesOn (pget r pred.toNat)) (fun i => (out.getD i 0, p)) r

/-- A defined code, and PRED 0 for a conversion to MX (R167). -/
def cvtOk (b : BitVec 5) (pred : BitVec 3) : Bool :=
  decide (b.toNat < 22) && (!(decide (10 ≤ b.toNat) && decide (b.toNat < 16)) || pred == 0)

/-! ## Wide values (R170) -/

/-- WIDE value i of a register. -/
def wideAt (r : RegFile) (n : BitVec 5) (i : Nat) : Accum :=
  wideDec (((List.range 4).foldr (fun j a => (vget r n (4 * i + j)).1.toNat + a * 2 ^ 32) 0))

/-- The eight sums of VWADD. -/
def wideSums (r : RegFile) (a b : BitVec 5) : List Accum :=
  (List.range 8).map (fun i => accAdd (wideAt r a i) (wideAt r b i))

def wideLanes (l : List Accum) : List Word :=
  l.flatMap (fun x => (List.range 4).map (fun j => BitVec.ofNat 32 (wideEnc x / 2 ^ (32 * j))))

/-- Set bits of ASTAT; an update unit has none. -/
def setAstat (s : State) (u : Exu) (m : BitVec 4) : State :=
  match u with
  | .core c => setCore s c { getCore s c with astat := (getCore s c).astat ||| m }
  | .upd _ => s

/-- ASTAT bits that sums set: SAT and SPECIAL (R146, R147, R149). -/
def sumFlags (l : List Accum) : BitVec 4 :=
  BitVec.ofNat 4 ((l.any (·.sat)).toNat + 4 * (l.any (fun x => x.st != .none)).toNat)

/-- VWADD: eight wide sums. -/
def wideAdd (s : State) (u : Exu) (d a b : BitVec 5) (pred : BitVec 3) : State :=
  issue s u 4 (pred == 0) (fun s =>
    let r := getRf s u
    let w := workFor s u
    let sums := wideSums r a b
    let s := setAstat s u (sumFlags sums)
    let r' := putAll d (wideLanes sums) (anyPoison r a || anyPoison r b) r
    countLc (setRf s u (advance 4 r')) w.1 w.2 cntInt 32)

/-- VWCVT: eight WIDE values to FP32 in lanes 4i. -/
def wideCvt (d a b : BitVec 5) (r : RegFile) : RegFile :=
  let x := xget r b
  let anchor := (x.data.setWidth 10).toInt
  let vs := (List.range 8).flatMap (fun i =>
    [BitVec.ofNat 32 (accOut 11 anchor (wideAt r a i)).code, 0, 0, 0])
  putAll d vs (anyPoison r a || x.poison) r

/-! ## Meanings -/

def execVadd (u : Exu) (d a b : BitVec 5) (pred : BitVec 3) (pz : Bool) (s : State) : Out :=
  onUnit (exuOk u) (inService s (fun s => vec2 s u d a b pred pz cntInt (· + ·)))

def execVsub (u : Exu) (d a b : BitVec 5) (pred : BitVec 3) (pz : Bool) (s : State) : Out :=
  onUnit (exuOk u) (inService s (fun s => vec2 s u d a b pred pz cntInt (· - ·)))

def execVmul (u : Exu) (d a b : BitVec 5) (pred : BitVec 3) (pz : Bool) (s : State) : Out :=
  onUnit (exuOk u) (inService s (fun s => vec2 s u d a b pred pz cntInt (· * ·)))

def execVand (u : Exu) (d a b : BitVec 5) (pred : BitVec 3) (pz : Bool) (s : State) : Out :=
  onUnit (exuOk u) (inService s (fun s => vec2 s u d a b pred pz cntInt (· &&& ·)))

def execVor (u : Exu) (d a b : BitVec 5) (pred : BitVec 3) (pz : Bool) (s : State) : Out :=
  onUnit (exuOk u) (inService s (fun s => vec2 s u d a b pred pz cntInt (· ||| ·)))

def execVxor (u : Exu) (d a b : BitVec 5) (pred : BitVec 3) (pz : Bool) (s : State) : Out :=
  onUnit (exuOk u) (inService s (fun s => vec2 s u d a b pred pz cntInt (· ^^^ ·)))

def execVsll (u : Exu) (d a b : BitVec 5) (pred : BitVec 3) (pz : Bool) (s : State) : Out :=
  onUnit (exuOk u) (inService s (fun s => vec2 s u d a b pred pz cntInt vSll))

def execVsra (u : Exu) (d a b : BitVec 5) (pred : BitVec 3) (pz : Bool) (s : State) : Out :=
  onUnit (exuOk u) (inService s (fun s => vec2 s u d a b pred pz cntInt vSra))

def execVmin (u : Exu) (d a b : BitVec 5) (pred : BitVec 3) (pz : Bool) (s : State) : Out :=
  onUnit (exuOk u) (inService s (fun s => vec2 s u d a b pred pz cntInt vMin))

def execVmax (u : Exu) (d a b : BitVec 5) (pred : BitVec 3) (pz : Bool) (s : State) : Out :=
  onUnit (exuOk u) (inService s (fun s => vec2 s u d a b pred pz cntInt vMax))

def execVfadd (u : Exu) (d a b : BitVec 5) (pred : BitVec 3) (pz : Bool) (s : State) : Out :=
  onUnit (exuOk u) (inService s (fun s => vec2 s u d a b pred pz cntFp32 fadd))

def execVfsub (u : Exu) (d a b : BitVec 5) (pred : BitVec 3) (pz : Bool) (s : State) : Out :=
  onUnit (exuOk u) (inService s (fun s => vec2 s u d a b pred pz cntFp32 fsub))

def execVfmul (u : Exu) (d a b : BitVec 5) (pred : BitVec 3) (pz : Bool) (s : State) : Out :=
  onUnit (exuOk u) (inService s (fun s => vec2 s u d a b pred pz cntFp32 fmul))

def execVfmin (u : Exu) (d a b : BitVec 5) (pred : BitVec 3) (pz : Bool) (s : State) : Out :=
  onUnit (exuOk u) (inService s (fun s => vec2 s u d a b pred pz cntFp32 fmin))

def execVfmax (u : Exu) (d a b : BitVec 5) (pred : BitVec 3) (pz : Bool) (s : State) : Out :=
  onUnit (exuOk u) (inService s (fun s => vec2 s u d a b pred pz cntFp32 fmax))

def execVfdiv (u : Exu) (d a b : BitVec 5) (pred : BitVec 3) (pz : Bool) (s : State) : Out :=
  onUnit (exuOk u) (inService s (fun s => vec2 s u d a b pred pz cntFp32 fdiv))

def execVfma (u : Exu) (d a b : BitVec 5) (pred : BitVec 3) (pz : Bool) (s : State) : Out :=
  onUnit (exuOk u) (inService s (fun s => vec3 s u d a b pred pz cntFp32 1 ffma))

def execVfabs (u : Exu) (d a b : BitVec 5) (pred : BitVec 3) (pz : Bool) (s : State) : Out :=
  onUnit (exuOk u) (inService s (fun s => vec1 s u d a b pred pz vAbs))

def execVfneg (u : Exu) (d a b : BitVec 5) (pred : BitVec 3) (pz : Bool) (s : State) : Out :=
  onUnit (exuOk u) (inService s (fun s => vec1 s u d a b pred pz vNeg))

def execVfsqrt (u : Exu) (d a b : BitVec 5) (pred : BitVec 3) (pz : Bool) (s : State) : Out :=
  onUnit (exuOk u) (inService s (fun s => vec1 s u d a b pred pz fsqrt))

def execVexp2 (u : Exu) (d a b : BitVec 5) (pred : BitVec 3) (pz : Bool) (s : State) : Out :=
  onUnit (exuOk u) (inService s (fun s => vec1 s u d a b pred pz fexp2))

def execVrcp (u : Exu) (d a b : BitVec 5) (pred : BitVec 3) (pz : Bool) (s : State) : Out :=
  onUnit (exuOk u) (inService s (fun s => vec1 s u d a b pred pz frcp))

def execVrsqrt (u : Exu) (d a b : BitVec 5) (pred : BitVec 3) (pz : Bool) (s : State) : Out :=
  onUnit (exuOk u) (inService s (fun s => vec1 s u d a b pred pz frsqrt))

def execVfma2Bf16 (u : Exu) (d a b : BitVec 5) (pred : BitVec 3) (pz : Bool) (s : State) : Out :=
  onUnit (exuOk u) (inService s (fun s => vec3 s u d a b pred pz cntHalf 2 (halves2 fmtBF16)))

def execVfma2F16 (u : Exu) (d a b : BitVec 5) (pred : BitVec 3) (pz : Bool) (s : State) : Out :=
  onUnit (exuOk u) (inService s (fun s => vec3 s u d a b pred pz cntHalf 2 (halves2 fmtF16)))

def execVfcmpEq (u : Exu) (d a b : BitVec 5) (pred : BitVec 3) (pz : Bool) (s : State) : Out :=
  onUnit (exuOk u) (inService s (fun s => vecCmp s u d a b pred pz cntFp32 feq))

def execVfcmpLt (u : Exu) (d a b : BitVec 5) (pred : BitVec 3) (pz : Bool) (s : State) : Out :=
  onUnit (exuOk u) (inService s (fun s => vecCmp s u d a b pred pz cntFp32 flt))

def execVfcmpLe (u : Exu) (d a b : BitVec 5) (pred : BitVec 3) (pz : Bool) (s : State) : Out :=
  onUnit (exuOk u) (inService s (fun s => vecCmp s u d a b pred pz cntFp32 fle))

def execVicmpEq (u : Exu) (d a b : BitVec 5) (pred : BitVec 3) (pz : Bool) (s : State) : Out :=
  onUnit (exuOk u) (inService s (fun s => vecCmp s u d a b pred pz cntInt (· == ·)))

def execVicmpLt (u : Exu) (d a b : BitVec 5) (pred : BitVec 3) (pz : Bool) (s : State) : Out :=
  onUnit (exuOk u) (inService s (fun s => vecCmp s u d a b pred pz cntInt BitVec.slt))

def execVsel (u : Exu) (d a b : BitVec 5) (pred : BitVec 3) (pz : Bool) (s : State) : Out :=
  onUnit (exuOk u) (inService s (fun s => 
    issueVec s u (!pz) cntInt (fun _ => 32) (selLanes d a b pred)))

def execVbcast (u : Exu) (d a _b : BitVec 5) (pred : BitVec 3) (pz : Bool) (s : State) : Out :=
  onUnit (exuOk u) (inService s (fun s => 
    issueVec s u true cntInt (laneCount pred) (castLanes d a pred pz)))

def execVextr (u : Exu) (d a b : BitVec 5) (_pred : BitVec 3) (_pz : Bool) (s : State) : Out :=
  onUnit (exuOk u) (inService s (fun s => issueVec s u true cntInt (fun _ => 0) (extractLane d a b)))

def execVredsum (u : Exu) (d a _b : BitVec 5) (pred : BitVec 3) (_pz : Bool) (s : State) : Out :=
  onUnit (exuOk u) (inService s (fun s => vecRed s u d a pred (fsumTree 5)))

def execVredmax (u : Exu) (d a _b : BitVec 5) (pred : BitVec 3) (_pz : Bool) (s : State) : Out :=
  onUnit (exuOk u) (inService s (fun s => vecRed s u d a pred redMax))

def execVperm (u : Exu) (d a b : BitVec 5) (pred : BitVec 3) (pz : Bool) (s : State) : Out :=
  onUnit (exuOk u) (inService s (fun s => 
    issueVec s u true cntInt (laneCount pred) (permLanes d a b pred pz)))

def execVcvt (u : Exu) (d a b : BitVec 5) (pred : BitVec 3) (pz : Bool) (s : State) : Out :=
  onUnit (exuOk u) (inService s (fun s => 
    issueVec s u (cvtOk b pred) cntInt (laneCount pred) (convert d a b.toNat pred pz)))

def execVwadd (u : Exu) (d a b : BitVec 5) (pred : BitVec 3) (_pz : Bool) (s : State) : Out :=
  onUnit (exuOk u) (inService s (fun s => wideAdd s u d a b pred))

def execVwcvt (u : Exu) (d a b : BitVec 5) (pred : BitVec 3) (_pz : Bool) (s : State) : Out :=
  onUnit (exuOk u) (inService s (fun s => issueVec s u (pred == 0) cntInt (fun _ => 32) (wideCvt d a b)))

def execPand (u : Exu) (d a b : BitVec 5) (pred : BitVec 3) (pz : Bool) (s : State) : Out :=
  onUnit (exuOk u) (inService s (fun s => vecPred s u d a b pred pz true (· &&& ·)))

def execPor (u : Exu) (d a b : BitVec 5) (pred : BitVec 3) (pz : Bool) (s : State) : Out :=
  onUnit (exuOk u) (inService s (fun s => vecPred s u d a b pred pz true (· ||| ·)))

def execPxor (u : Exu) (d a b : BitVec 5) (pred : BitVec 3) (pz : Bool) (s : State) : Out :=
  onUnit (exuOk u) (inService s (fun s => vecPred s u d a b pred pz true (· ^^^ ·)))

def execPnot (u : Exu) (d a b : BitVec 5) (pred : BitVec 3) (pz : Bool) (s : State) : Out :=
  onUnit (exuOk u) (inService s (fun s => 
    vecPred s u d a b pred pz (b == 0) (fun x _ => ~~~x)))

end Sys2Proof.Machine
end

