-- ==== Sys2Proof/Machine/LocalStore.lean ====
section
/-! DEFINITION. The meanings of local-store accesses and tile operations (R139, R166, R171, R174). -/

namespace Sys2Proof.Machine

/-- An address with a signed byte offset, modulo 2^64. -/
def lsAddr (r : RegFile) (a : BitVec 5) (off : DWord) : Nat := ((xget r a).data + off).toNat

/-- Issue an access of a core: its fault, or its effect. -/
def issueLs (s : State) (u : Exu) (ok : Bool) (flt : RegFile → Option Exc) (f : State → Nat → State) : State :=
  issueCore s u 4 ok (fun s c =>
    match flt (getRf s (.core c)) with
    | some e => raiseExc s (.core c) e
    | none => pass (f s c) c)

/-! ## Scalar accesses -/

/-- A value of `n` bytes, sign- or zero-extended. -/
def extendTo (signed : Bool) (n v : Nat) : DWord :=
  if signed then BitVec.ofInt 64 ((BitVec.ofNat (8 * n) v).toInt) else BitVec.ofNat 64 v

/-- xD = `n` bytes at an address. -/
def loadX (signed : Bool) (n : Nat) (d a : BitVec 5) (imm : BitVec 15) (s : State) (c : Nat) : State :=
  let r := getRf s (.core c)
  let l := loadLs s c (lsAddr r a (imm.signExtend 64)) n
  let v := numOf l.2
  setRf l.1 (.core c) (xput (getRf l.1 (.core c)) d ⟨extendTo signed n v.1, v.2 || (xget r a).poison⟩)

def scalarLoad (s : State) (u : Exu) (signed : Bool) (n : Nat) (d a : BitVec 5) (imm : BitVec 15) : State :=
  issueLs s u true (fun r => lsFault (lsAddr r a (imm.signExtend 64)) n n) (loadX signed n d a imm)

/-- Store the low `n` bytes of xD. -/
def storeX (n : Nat) (d a : BitVec 5) (imm : BitVec 15) (s : State) (c : Nat) : State :=
  let r := getRf s (.core c)
  let x := xget r d
  storeLs s c (lsAddr r a (imm.signExtend 64)) ((bytesOf n x.data.toNat).map (fun b => (b, x.poison)))

def scalarStore (s : State) (u : Exu) (n : Nat) (d a : BitVec 5) (imm : BitVec 15) : State :=
  issueLs s u true (fun r => lsFault (lsAddr r a (imm.signExtend 64)) n n) (storeX n d a imm)

/-! ## Vector accesses -/

/-- The address of VLD and VST: xA + 16 × sext(IMM15). -/
def vecAddr (r : RegFile) (a : BitVec 5) (imm : BitVec 15) : Nat := lsAddr r a (imm.signExtend 64 * 16)

/-- The bytes of a lane. -/
def laneBytes (v : Word × Bool) : List (Byte × Bool) := (bytesOf 4 v.1.toNat).map (fun b => (b, v.2))

/-- A lane from its bytes. -/
def laneOf (l : List (Byte × Bool)) : Word × Bool := (BitVec.ofNat 32 (numOf l).1, (numOf l).2)

/-- Write every lane from a list of lanes, poisoned also where a source register is. -/
def putLoaded (d : BitVec 5) (vs : List (Word × Bool)) (p : Bool) (r : RegFile) : RegFile :=
  putLanes d false lanes (fun i => let v := vs.getD i (0, false); (v.1, v.2 || p)) r

def loadV (d a : BitVec 5) (imm : BitVec 15) (s : State) (c : Nat) : State :=
  let r := getRf s (.core c)
  let l := loadLs s c (vecAddr r a imm) 128
  setRf l.1 (.core c) (putLoaded d ((blocksOf 4 l.2).map laneOf) (xget r a).poison (getRf l.1 (.core c)))

def storeV (d a : BitVec 5) (imm : BitVec 15) (s : State) (c : Nat) : State :=
  let r := getRf s (.core c)
  storeLs s c (vecAddr r a imm) (lanes.flatMap (fun i => laneBytes (vget r d i)))

/-- Lane addresses xA + i × xB. -/
def stridedAddr (r : RegFile) (a b : BitVec 5) (i : Nat) : Nat :=
  lsAddr r a (BitVec.ofNat 64 i * (xget r b).data)

/-- Lane addresses xA + vB[i]. -/
def indexedAddr (r : RegFile) (a b : BitVec 5) (i : Nat) : Nat := lsAddr r a ((vget r b i).1.setWidth 64)

/-- The fault of an access whose lanes have addresses `f`: alignment of every lane before range. -/
def lanesFault (f : Nat → Nat) : Option Exc :=
  if lanes.any (fun i => f i % 4 != 0) then some .misalign
  else if lanes.any (fun i => decide (lsSize < f i + 4)) then some .lsRange else none

/-- Read the lanes one after another. -/
def loadLanes (s : State) (c : Nat) (f : Nat → Nat) : State × List (Word × Bool) :=
  lanes.foldl (fun (acc : State × List (Word × Bool)) i =>
    let l := loadLs acc.1 c (f i) 4
    (l.1, acc.2 ++ [laneOf l.2])) (s, [])

def loadStrided (d a b : BitVec 5) (s : State) (c : Nat) : State :=
  let r := getRf s (.core c)
  let l := loadLanes s c (stridedAddr r a b)
  setRf l.1 (.core c) (putLoaded d l.2 ((xget r a).poison || (xget r b).poison) (getRf l.1 (.core c)))

def loadIndexed (d a b : BitVec 5) (s : State) (c : Nat) : State :=
  let r := getRf s (.core c)
  let l := loadLanes s c (indexedAddr r a b)
  setRf l.1 (.core c) (putLoaded d l.2 ((xget r a).poison || anyPoison r b) (getRf l.1 (.core c)))

/-- Store the lanes in ascending order: the higher-numbered lane stays where two meet (R166). -/
def storeLanes (d : BitVec 5) (f : Nat → Nat) (s : State) (c : Nat) : State :=
  let r := getRf s (.core c)
  lanes.foldl (fun s i => storeLs s c (f i) (laneBytes (vget r d i))) s

/-! ## Tiles (R171) -/

/-- The address of a TLD or TST. -/
def tileAddr (r : RegFile) (a : BitVec 5) : Nat := (xget r a).data.toNat

def setTile (s : State) (c : Nat) (d : BitVec 5) (v : BitVec 256) : State :=
  let k := getCore s c
  setCore s c { k with t := sput 0 k.t d.toNat v }

def getTile (s : State) (c n : Nat) : BitVec 256 := sget 0 (getCore s c).t n

def loadTile (d a : BitVec 5) (s : State) (c : Nat) : State :=
  let l := loadLs s c (tileAddr (getRf s (.core c)) a) 32
  setTile l.1 c d (BitVec.ofNat 256 (numOf l.2).1)

def storeTile (d a : BitVec 5) (s : State) (c : Nat) : State :=
  storeLs s c (tileAddr (getRf s (.core c)) a)
    ((bytesOf 32 (getTile s c d.toNat).toNat).map (fun b => (b, false)))

/-- tD.BASE = xA[18:0]; every other field unchanged. -/
def baseTile (d a : BitVec 5) (s : State) (c : Nat) : State :=
  let x := (xget (getRf s (.core c)) a).data
  let t := getTile s c d.toNat
  setTile s c d ((t.extractLsb' 19 237) ++ (x.setWidth 19))

/-! ## Meanings -/

def execLdb (u : Exu) (d a : BitVec 5) (imm : BitVec 15) (s : State) : Out :=
  onUnit (exuOk u) (inService s (fun s => scalarLoad s u true 1 d a imm))

def execLdh (u : Exu) (d a : BitVec 5) (imm : BitVec 15) (s : State) : Out :=
  onUnit (exuOk u) (inService s (fun s => scalarLoad s u true 2 d a imm))

def execLdw (u : Exu) (d a : BitVec 5) (imm : BitVec 15) (s : State) : Out :=
  onUnit (exuOk u) (inService s (fun s => scalarLoad s u true 4 d a imm))

def execLdd (u : Exu) (d a : BitVec 5) (imm : BitVec 15) (s : State) : Out :=
  onUnit (exuOk u) (inService s (fun s => scalarLoad s u true 8 d a imm))

def execStb (u : Exu) (d a : BitVec 5) (imm : BitVec 15) (s : State) : Out :=
  onUnit (exuOk u) (inService s (fun s => scalarStore s u 1 d a imm))

def execSth (u : Exu) (d a : BitVec 5) (imm : BitVec 15) (s : State) : Out :=
  onUnit (exuOk u) (inService s (fun s => scalarStore s u 2 d a imm))

def execStw (u : Exu) (d a : BitVec 5) (imm : BitVec 15) (s : State) : Out :=
  onUnit (exuOk u) (inService s (fun s => scalarStore s u 4 d a imm))

def execStd (u : Exu) (d a : BitVec 5) (imm : BitVec 15) (s : State) : Out :=
  onUnit (exuOk u) (inService s (fun s => scalarStore s u 8 d a imm))

def execLdbu (u : Exu) (d a : BitVec 5) (imm : BitVec 15) (s : State) : Out :=
  onUnit (exuOk u) (inService s (fun s => scalarLoad s u false 1 d a imm))

def execLdhu (u : Exu) (d a : BitVec 5) (imm : BitVec 15) (s : State) : Out :=
  onUnit (exuOk u) (inService s (fun s => scalarLoad s u false 2 d a imm))

def execLdwu (u : Exu) (d a : BitVec 5) (imm : BitVec 15) (s : State) : Out :=
  onUnit (exuOk u) (inService s (fun s => scalarLoad s u false 4 d a imm))

def execVld (u : Exu) (d a : BitVec 5) (imm : BitVec 15) (s : State) : Out :=
  onUnit (exuOk u) (inService s (fun s => 
    issueLs s u true (fun r => lsFault (vecAddr r a imm) 128 16) (loadV d a imm)))

def execVst (u : Exu) (d a : BitVec 5) (imm : BitVec 15) (s : State) : Out :=
  onUnit (exuOk u) (inService s (fun s => 
    issueLs s u true (fun r => lsFault (vecAddr r a imm) 128 16) (storeV d a imm)))

def execVlds (u : Exu) (d a b : BitVec 5) (s : State) : Out :=
  onUnit (exuOk u) (inService s (fun s => 
    issueLs s u true (fun r => lanesFault (stridedAddr r a b)) (loadStrided d a b)))

def execVsts (u : Exu) (d a b : BitVec 5) (s : State) : Out :=
  onUnit (exuOk u) (inService s (fun s => 
    issueLs s u true (fun r => lanesFault (stridedAddr r a b))
      (fun s c => storeLanes d (stridedAddr (getRf s (.core c)) a b) s c)))

def execVgather (u : Exu) (d a b : BitVec 5) (s : State) : Out :=
  onUnit (exuOk u) (inService s (fun s => 
    issueLs s u true (fun r => lanesFault (indexedAddr r a b)) (loadIndexed d a b)))

def execVscatter (u : Exu) (d a b : BitVec 5) (s : State) : Out :=
  onUnit (exuOk u) (inService s (fun s => 
    issueLs s u true (fun r => lanesFault (indexedAddr r a b))
      (fun s c => storeLanes d (indexedAddr (getRf s (.core c)) a b) s c)))

def execTld (u : Exu) (d a : BitVec 5) (s : State) : Out :=
  onUnit (exuOk u) (inService s (fun s => 
    issueLs s u (low3 d) (fun r => lsFault (tileAddr r a) 32 32) (loadTile d a)))

def execTst (u : Exu) (d a : BitVec 5) (s : State) : Out :=
  onUnit (exuOk u) (inService s (fun s => 
    issueLs s u (low3 d) (fun r => lsFault (tileAddr r a) 32 32) (storeTile d a)))

def execTbase (u : Exu) (d a : BitVec 5) (s : State) : Out :=
  onUnit (exuOk u) (inService s (fun s => 
    issueLs s u (low3 d) (fun _ => none) (baseTile d a)))

end Sys2Proof.Machine
end

