-- ==== Sys2Proof/Machine/Array.lean ====
section
/-! DEFINITION. The meanings of array instructions and of their end (R141 to R156, R172, R173), and what
a core waits for (R177). -/

namespace Sys2Proof.Machine

/-! ## Waits (R177) -/

/-- An array token, or a DMA token, is held. -/
def arrHeld (k : Core) (t : Nat) : Bool := k.arr.any (fun o => o.tok == t)
def dmaHeld (k : Core) (t : Nat) : Bool := k.dma.any (fun o => o.tok == t)

/-- Every token of a mask is released. -/
def dmaFree (k : Core) (mask : Nat) : Bool := (List.range 16).all (fun t => !(mask.testBit t && dmaHeld k t))
def arrFree (k : Core) (mask : Nat) : Bool := (List.range 4).all (fun t => !(mask.testBit t && arrHeld k t))

/-- A wait for the core's own array and DMA work is met. -/
def ownWaitMet (k : Core) : Bool :=
  match k.wait with
  | some (.waitd m) => dmaFree k m
  | some (.waita m) => arrFree k m
  | some .fence => !inFlight k
  | _ => false

/-- Let the core go on when its wait for its own work is met, unless it is stopped (R339). -/
def releaseOwn (s : State) (c : Nat) : State :=
  let k := getCore s c
  if !k.stopped && ownWaitMet k then setCore s c (passWait k) else s

/-- After array or DMA work ends: waits, then the end of the kernel. -/
def afterWork (s : State) (c : Nat) : State := settleEnd (releaseOwn s c) c

/-! ## Issue (R172, R173) -/

/-- Issue waits while the token is held or 4 array instructions are in flight. -/
def arrWaits (s : State) (u : Exu) (tok : BitVec 2) : Bool :=
  match u with
  | .core c => arrHeld (getCore s c) tok.toNat || decide (4 ≤ (getCore s c).arr.length)
  | .upd _ => false

/-- The instruction with the descriptors copied. -/
def arrOpOf (s : State) (c op : Nat) (mode : BitVec 2) (ts tx ty : BitVec 3) (acc : Bool) (tok : BitVec 2)
    (anchor : BitVec 10) : ArrOp :=
  { op := op, mode := mode.toNat, ts := getTile s c ts.toNat, tx := getTile s c tx.toNat,
    ty := getTile s c ty.toNat, acc := acc, tok := tok.toNat, anchor := anchor,
    seq := (getCore s c).issued, dirty := [], passed := [], kept := [] }

/-- An array instruction is in flight; its terms count (R329). -/
def arrStart (s : State) (c : Nat) (o : ArrOp) : State :=
  let k := getCore s c
  let w := workFor s (.core c)
  let n := arrCount o
  let s := setCore s c { k with arr := k.arr ++ [o], rf := advance 8 k.rf }
  countLc s w.1 w.2 n.1 n.2

/-- Issue an array instruction of 8 bytes. -/
def arrIssue (s : State) (u : Exu) (op : Nat) (mode : BitVec 2) (ts tx ty : BitVec 3) (acc : Bool) (tok : BitVec 2)
    (anchor : BitVec 10) (rsv : BitVec 30) : State :=
  if arrWaits s u tok then s
  else issueCore s u 8 (rsv == 0 && decide (mode.toNat < 3)) (fun s c =>
    let o := arrOpOf s c op mode ts tx ty acc tok anchor
    if arrOk op o.mode o.ts o.tx o.ty then arrStart s c o else raiseExc s u .illegalOperand)

def execMac (u : Exu) (mode : BitVec 2) (ts tx ty : BitVec 3) (acc : Bool) (tok : BitVec 2) (anchor : BitVec 10)
    (rsv : BitVec 30) (s : State) : Out :=
  onUnit (exuOk u) (inService s (fun s => arrIssue s u 0 mode ts tx ty acc tok anchor rsv))

def execL1 (u : Exu) (mode : BitVec 2) (ts tx ty : BitVec 3) (acc : Bool) (tok : BitVec 2) (anchor : BitVec 10)
    (rsv : BitVec 30) (s : State) : Out :=
  onUnit (exuOk u) (inService s (fun s => arrIssue s u 1 mode ts tx ty acc tok anchor rsv))

def execL2sq (u : Exu) (mode : BitVec 2) (ts tx ty : BitVec 3) (acc : Bool) (tok : BitVec 2) (anchor : BitVec 10)
    (rsv : BitVec 30) (s : State) : Out :=
  onUnit (exuOk u) (inService s (fun s => arrIssue s u 2 mode ts tx ty acc tok anchor rsv))

def execMaxplus (u : Exu) (mode : BitVec 2) (ts tx ty : BitVec 3) (acc : Bool) (tok : BitVec 2) (anchor : BitVec 10)
    (rsv : BitVec 30) (s : State) : Out :=
  onUnit (exuOk u) (inService s (fun s => arrIssue s u 3 mode ts tx ty acc tok anchor rsv))

def execMinplus (u : Exu) (mode : BitVec 2) (ts tx ty : BitVec 3) (acc : Bool) (tok : BitVec 2) (anchor : BitVec 10)
    (rsv : BitVec 30) (s : State) : Out :=
  onUnit (exuOk u) (inService s (fun s => arrIssue s u 4 mode ts tx ty acc tok anchor rsv))

def execCmpcnt (u : Exu) (mode : BitVec 2) (ts tx ty : BitVec 3) (acc : Bool) (tok : BitVec 2) (anchor : BitVec 10)
    (rsv : BitVec 30) (s : State) : Out :=
  onUnit (exuOk u) (inService s (fun s => arrIssue s u 5 mode ts tx ty acc tok anchor rsv))

/-! ## Checksums (R152 to R155) -/

/-- The entry to give up for a fifth cell: the lowest count, the oldest on a tie. -/
def lowestCell (l : List CellCount) : Option CellCount :=
  l.foldl (fun acc e => match acc with
    | none => some e
    | some m => if e.count < m.count then some e else some m) none

/-- Count a mismatch of a physical cell; at a count of 3 its substitution is pending. -/
def countCell (k : Core) (cell : Nat × Nat) : Core × Nat :=
  match k.cells.find? (fun e => e.row == cell.1 && e.col == cell.2) with
  | some e =>
    let n := e.count + 1
    let cells := k.cells.map (fun x => if x.row == cell.1 && x.col == cell.2 then { x with count := n } else x)
    ({ k with cells := cells, subPending := if n = 3 then k.subPending ++ [cell] else k.subPending }, n)
  | none =>
    let cells := if k.cells.length < 4 then k.cells
      else (match lowestCell k.cells with | some m => k.cells.erase m | none => k.cells)
    ({ k with cells := cells ++ [{ row := cell.1, col := cell.2, count := 1 }] }, 1)

/-- AUX of an ABFT event: row, column and count of the cell; all ones for no cell. -/
def abftAux (cell : Option (Nat × Nat)) (n : Nat) : Nat :=
  match cell with
  | some x => x.1 % 256 + x.2 % 256 * 2 ^ 8 + min n 65535 * 2 ^ 16
  | none => 0xFFFF

/-- A mismatch: ASTAT.ABFT, the item's status, the cell's count and the event (R153, R154). -/
def abftFail (s : State) (c seq : Nat) (cell : Option (Nat × Nat)) : State :=
  let s := recordExc s c seq (plainResult stAbft)
  let k := getCore s c
  let r := (match cell with | some x => countCell k x | none => (k, 0))
  let s := setCore s c { r.1 with astat := r.1.astat ||| 8#4 }
  raiseEv s 0x5002 sevWarn none 2 (sget 0 s.coreSite c) (abftAux cell r.2) c

/-- The physical row or column of a logical one: the spare where it stands substituted. DESIGN CHOICE (log entry
97): the manual does not say which physical line wear levelling puts where. -/
def physLine (sub : Option Nat) (i : Nat) : Nat := if sub = some (i % 64) then 64 else i % 64

/-- The mismatch that the checks of an instruction find, and its cell: one failing row check and one failing column
check name it (R154). -/
def mismatch (k : Core) (rows cols : List Nat) : Option (Option (Nat × Nat)) :=
  match rows, cols with
  | [], [] => none
  | [i], [j] => some (some (physLine k.rowSub i, physLine k.colSub j))
  | _, _ => some none

/-! ## The end of an array instruction (R173) -/

/-- The rows of the GETs in flight that meet the inputs of an instruction. -/
def getDirty (k : Core) (o : ArrOp) : List (Nat × Nat) :=
  k.dma.flatMap (fun d => if d.put then [] else
    ((dmaRows d).filter (fun a => meetsInputs o a d.n)).map (fun a => (a, d.n)))

/-- The outputs of an instruction reach the local store; ASTAT is updated. -/
def arrLand (s : State) (c : Nat) (o : ArrOp) (fs : List ArrFault) : State :=
  let k := getCore s c
  let o := { o with dirty := o.dirty ++ getDirty k o }
  let r := arrResult s c (storeOf k) fs o
  let s := { s with freeCtr := s.freeCtr + lsSize }
  let s := if r.1.any (·.poison) then recordExc s c o.seq (plainResult stUe) else s
  let s := (arrRuns o r.1).foldl (fun s x => putLs (noteRange s c false x.1 x.2.length) c x.1 x.2) s
  setAstat s (.core c) r.2

/-- The mismatch of an instruction on the present contents of the local store (R152 to R154). -/
def arrCheck (s : State) (c : Nat) (o : ArrOp) (fs : List ArrFault) : Option (Option (Nat × Nat)) :=
  let rd := lsByte s c (getCore s c).ls
  mismatch (getCore s c) (badRows o fs rd) (badCols o fs rd)

/-- The oldest array instruction of a core ends: its outputs are written, its token is released. -/
def arrayDone (s : State) (c : Nat) (fs : List ArrFault) : State :=
  match (getCore s c).arr with
  | [] => s
  | o :: rest =>
    let bad := arrCheck s c o fs
    let s := setCore s c { getCore s c with arr := rest }
    let s := arrLand s c o fs
    let s := (match bad with | some cell => abftFail s c o.seq cell | none => s)
    afterWork s c

def execArrayDone (c : Nat) (faults : List ArrFault) (s : State) : Out :=
  onUnit (coreOk c) (inService s (fun s => arrayDone s c faults))

end Sys2Proof.Machine
end

