-- ==== Sys2Proof/Machine/Crypto.lean ====
section
/-! DEFINITION. The checks of the Idwibo image: CRC-32 (R287), SHA-384 and ECDSA over P-384 (R289).
SHA-384 and ECDSA P-384 are those of FIPS 180-4 and FIPS 186-5, which R289 names without their tables
(log entry 39). -/

namespace Sys2Proof.Machine

/-- One bit of CRC-32: reflected polynomial 0x04C11DB7 (R287). -/
def crc32Bit (c : BitVec 32) : BitVec 32 := if c.getLsbD 0 then (c >>> 1) ^^^ 0xEDB88320#32 else c >>> 1

def crc32Byte (c : BitVec 32) (b : Byte) : BitVec 32 :=
  (List.range 8).foldl (fun c _ => crc32Bit c) (c ^^^ b.setWidth 32)

/-- The IEEE 802.3 CRC-32 of bytes in ascending address (R287). -/
def crc32 (bs : List Byte) : Nat := ((bs.foldl crc32Byte 0xFFFFFFFF#32) ^^^ 0xFFFFFFFF#32).toNat

/-! ## SHA-384

The constants are the leading fractional bits of roots of primes, as FIPS 180-4 says where they come from. -/

def isPrime (n : Nat) : Bool := decide (2 ≤ n) && (List.range n).all (fun d => decide (d < 2) || n % d != 0)

/-- The largest number below `2 ^ k` whose power `e` does not exceed `n`, bit by bit from the top. -/
def bitRoot (e n k : Nat) : Nat :=
  (List.range k).foldr (fun i r => if (r + 2 ^ i) ^ e ≤ n then r + 2 ^ i else r) 0

/-- The first 64 fractional bits of the `e`-th root of a number whose root is below 16. -/
def rootBits (e p : Nat) : BitVec 64 := BitVec.ofNat 64 (bitRoot e (p * 2 ^ (64 * e)) 68)

/-- The 80 lowest primes. -/
def shaPrimes : List Nat := (List.range 410).filter isPrime

/-- The constants of the rounds: cube roots. -/
def shaSteps : List (BitVec 64) := shaPrimes.map (rootBits 3)

/-- The working variables of a block. -/
structure ShaVars where
  top : BitVec 64 × BitVec 64 × BitVec 64 × BitVec 64
  low : BitVec 64 × BitVec 64 × BitVec 64 × BitVec 64
  deriving DecidableEq, Repr

/-- Eight words as working variables; a shorter list is filled with 0. -/
def shaVars (l : List (BitVec 64)) : ShaVars :=
  let x (i : Nat) : BitVec 64 := l.getD i 0
  { top := (x 0, x 1, x 2, x 3), low := (x 4, x 5, x 6, x 7) }

def shaWords (v : ShaVars) : List (BitVec 64) :=
  [v.top.1, v.top.2.1, v.top.2.2.1, v.top.2.2.2, v.low.1, v.low.2.1, v.low.2.2.1, v.low.2.2.2]

/-- The hash value before the first block: square roots of the ninth to the sixteenth prime. -/
def shaStart : ShaVars := shaVars (((shaPrimes.drop 8).take 8).map (rootBits 2))

/-- The number that bytes hold, highest first. -/
def beNat (bs : List Byte) : Nat := bs.foldl (fun a b => 256 * a + b.toNat) 0

/-- Bytes cut into pieces of `n`, at most `k` of them. -/
def cut {α : Type} (n : Nat) : Nat → List α → List (List α)
  | 0, _ => []
  | k + 1, l => if l.isEmpty then [] else l.take n :: cut n k (l.drop n)

/-- The message with its end mark and its length in bits, in whole blocks of 128 bytes. -/
def shaPadded (m : List Byte) : List Byte :=
  let whole := (m.length + 17 + 127) / 128 * 128
  let tail := 0x80#8 :: List.replicate (whole - m.length - 17) 0#8
  m ++ (tail ++ (bytesOf 16 (8 * m.length)).reverse)

/-- A word turned right by three amounts, or shifted by the last, and added without carry. -/
def spin (i j k : Nat) (shifted : Bool) (x : BitVec 64) : BitVec 64 :=
  (if shifted then x >>> k else x.rotateRight k) ^^^ (x.rotateRight j ^^^ x.rotateRight i)

/-- The window of the last 16 words of the message schedule, oldest first, moves on by a word. -/
def shaSlide (w : List (BitVec 64)) : List (BitVec 64) :=
  let x (i : Nat) : BitVec 64 := w.getD i 0
  w.drop 1 ++ [spin 19 61 6 true (x 14) + (x 9 + (spin 1 8 7 true (x 1) + x 0))]

/-- One round takes the oldest word of the window. -/
def shaStep (acc : ShaVars × List (BitVec 64)) (k : BitVec 64) : ShaVars × List (BitVec 64) :=
  let (a, b, c, d) := acc.1.top
  let (e, f, g, h) := acc.1.low
  let either := g ^^^ (e &&& (f ^^^ g))
  let most := (a &&& (b ||| c)) ||| (b &&& c)
  let inc := acc.2.headD 0 + (k + (h + (either + spin 14 18 41 false e)))
  ({ top := (inc + (most + spin 28 34 39 false a), a, b, c), low := (inc + d, e, f, g) }, shaSlide acc.2)

/-- One block of 128 bytes enters the hash value. -/
def shaAbsorb (v : ShaVars) (block : List Byte) : ShaVars :=
  let words := (cut 8 16 block).map (fun b => BitVec.ofNat 64 (beNat b))
  let out := (shaSteps.foldl shaStep (v, words)).1
  shaVars (List.zipWith (fun x y => x + y) (shaWords out) (shaWords v))

/-- The SHA-384 digest, as a number: six of the eight words. -/
def sha384 (m : List Byte) : Nat :=
  let p := shaPadded m
  let v := (cut 128 (p.length / 128) p).foldl shaAbsorb shaStart
  ((shaWords v).take 6).foldl (fun n w => w.toNat + n * 2 ^ 64) 0

/-! ## ECDSA over P-384 -/

/-- The field prime, the coefficient b, the order and the base point. -/
def ecP : Nat := 2 ^ 384 - 2 ^ 128 - 2 ^ 96 + 2 ^ 32 - 1
def ecB : Nat := 0xb3312fa7e23ee7e4988e056be3f82d19181d9c6efe8141120314088f5013875ac656398d8a2ed19d2a85c8edd3ec2aef
def ecN : Nat := 0xffffffffffffffffffffffffffffffffffffffffffffffffc7634d81f4372ddf581a0db248b0a77aecec196accc52973
def ecG : Nat × Nat :=
  (0xaa87ca22be8b05378eb1c71ef320ad746e1d3b628ba79b9859f741e082542a385502f25dbf55296c3a545e3872760ab7,
   0x3617de4a96262c6f5d9e98bf9292dc29f8f41dbd289a147ce9da3113b5f0b8c00a60b1ce1d7e819d7a431d7c90ea0e5f)

/-- A power modulo a number, over `k` bits of the exponent. -/
def powMod (m : Nat) : Nat → Nat → Nat → Nat
  | 0, _, _ => 1 % m
  | k + 1, b, e =>
    let r := powMod m k (b * b % m) (e / 2)
    if e % 2 = 1 then b * r % m else r

/-- The inverse modulo a prime. -/
def invMod (m a : Nat) : Nat := powMod m 384 (a % m) (m - 2)

/-- The sum of two points; none is the point at infinity. -/
def ecAdd (p q : Option (Nat × Nat)) : Option (Nat × Nat) :=
  match p, q with
  | none, q => q
  | p, none => p
  | some (x, y), some (u, v) =>
    if x = u ∧ (y + v) % ecP = 0 then none
    else
      let l := if x = u then (3 * x * x + ecP - 3) * invMod ecP (2 * y) % ecP
        else (v + ecP - y) * invMod ecP (u + ecP - x) % ecP
      let z := (l * l + 2 * ecP - x - u) % ecP
      some (z, (l * (x + ecP - z) + ecP - y) % ecP)

/-- A multiple of a point, over `k` bits of the factor. -/
def ecMul : Nat → Nat → Option (Nat × Nat) → Option (Nat × Nat)
  | 0, _, _ => none
  | k + 1, n, p =>
    let r := ecMul k (n / 2) (ecAdd p p)
    if n % 2 = 1 then ecAdd p r else r

/-- A point of the curve. -/
def onCurve (q : Nat × Nat) : Bool :=
  decide (q.1 < ecP) && decide (q.2 < ecP) && decide (q.2 * q.2 % ecP = (q.1 * q.1 * q.1 + (ecP - 3) * q.1 + ecB) % ecP)

/-- The signature (r, s) of a digest verifies under a public key. -/
def ecdsaOk (q : Nat × Nat) (digest r s : Nat) : Bool :=
  if 1 ≤ r && r < ecN && 1 ≤ s && s < ecN && onCurve q then
    let w := invMod ecN s
    match ecAdd (ecMul 384 (digest * w % ecN) (some ecG)) (ecMul 384 (r * w % ecN) (some q)) with
    | some (x, _) => decide (x % ecN = r)
    | none => false
  else false

/-- R289: a SIG payload — key point, r and s — signs the digest of an area under the key hash. -/
def sigOkFor (keyHash : Nat) (payload : List Byte) (digest : Nat) : Bool :=
  let key := payload.take 97
  let q := (beNat ((key.drop 1).take 48), beNat (key.drop 49))
  payload.length == 193 && key.headD 0 == 0x04#8 && sha384 key == keyHash &&
    ecdsaOk q digest (beNat ((payload.drop 97).take 48)) (beNat (payload.drop 145))

end Sys2Proof.Machine
end

