-- ==== Sys2Proof/Machine/Links.lean ====
section
/-! DEFINITION. The Hiesk link layer, the link switch, route epochs, lost packets and broken collective
groups (R224 to R237, R246, R304, R316, R342). -/

namespace Sys2Proof.Machine

/-! ## Flits (*Table: Flit header (bytes 0–7 of every flit)*) -/

/-- One bit of the CRC-16 with polynomial 0x1021. -/
def crcBit (c : BitVec 16) : BitVec 16 := if c.msb then (c <<< 1) ^^^ 0x1021#16 else c <<< 1

/-- One byte of the CRC-16, its highest bit first. -/
def crcByte (c : BitVec 16) (b : Byte) : BitVec 16 :=
  (List.range 8).foldl (fun c _ => crcBit c) (c ^^^ (b.setWidth 16 <<< 8))

/-- The CRC-16 of bytes, initial value 0xFFFF. -/
def crc16 (bs : List Byte) : BitVec 16 := bs.foldl crcByte 0xFFFF#16

/-- The CRC of a flit: over bytes 0–5 and 8–255. -/
def flitCrc (f : FlitWord) : BitVec 16 :=
  let bs := bytesOf 256 f.toNat
  crc16 (bs.take 6 ++ bs.drop 8)

/-- Bits [hi:lo] of a flit. -/
def flBits (f : FlitWord) (hi lo : Nat) : Nat := bits f.toNat hi lo
def flKind (f : FlitWord) : Nat := flBits f 1 0
def flVc (f : FlitWord) : Nat := flBits f 3 2
def flCrVc (f : FlitWord) : Nat := flBits f 5 4
def flCrCnt (f : FlitWord) : Nat := flBits f 13 8
def flAckValid (f : FlitWord) : Bool := f.getLsbD 14
def flSeq (f : FlitWord) : Nat := flBits f 27 16
def flAck (f : FlitWord) : Nat := flBits f 39 28
def flEpoch (f : FlitWord) : Nat := flBits f 47 40
/-- The CRC of a flit holds. -/
def flitOk (f : FlitWord) : Bool := flBits f 63 48 == (flitCrc f).toNat
/-- The packet of a DATA flit: the tag header in bytes 8–23, the data in bytes 24–255. -/
def flPacket (f : FlitWord) : Packet :=
  { th := BitVec.ofNat 128 (flBits f 191 64), data := bytesOf 232 (flBits f 2047 192) }

/-- Bytes 8–255 of the DATA flit of a packet. -/
def packetBody (p : Packet) : Nat := p.th.toNat + natOf (p.data.take 232) * 2 ^ 128

/-- A flit with its CRC: `ack` is the ACK field when it is valid. -/
def mkFlit (kind vc crVc crCnt : Nat) (ack : Option Nat) (seq epoch body : Nat) : FlitWord :=
  let h := kind + vc * 2 ^ 2 + crVc * 2 ^ 4 + crCnt * 2 ^ 8 + (if ack.isSome then 2 ^ 14 else 0) +
    seq * 2 ^ 16 + ack.getD 0 * 2 ^ 28 + epoch * 2 ^ 40
  let f := BitVec.ofNat 2048 (h + body * 2 ^ 64)
  f ||| BitVec.ofNat 2048 ((flitCrc f).toNat * 2 ^ 48)

/-! ## Link ports -/

def linkState (s : State) (l : Nat) : Nat := getF s (F.LNK_STATUS_STATE l)
def setLinkState (s : State) (l st : Nat) : State := setF s (F.LNK_STATUS_STATE l) st

/-- The contents of LNK_STATUS. -/
def linkStatusWord (s : State) (l : Nat) : Nat :=
  linkState s l + getF s (F.LNK_STATUS_WIDTH l) * 2 ^ 3 + getF s (F.LNK_STATUS_SAVED l) * 2 ^ 5 +
    getF s (F.LNK_STATUS_PEER_LINK l) * 2 ^ 8 + getF s (F.LNK_STATUS_PEER_VALID l) * 2 ^ 14 +
    getF s (F.LNK_STATUS_PEER_DEV l) * 2 ^ 16 + getF s (F.LNK_STATUS_WATCHDOG l) * 2 ^ 28

/-- An EV_LNK event of a link. -/
def raiseLnk (s : State) (code sev l data : Nat) : State := raiseEv s code sev none 0x22 l 0 data

/-- The credits that a link holds for a virtual channel of its peer. -/
def creditFld (l vc : Nat) : Fld :=
  match vc with
  | 0 => F.LNK_CREDIT_VC0 l
  | 1 => F.LNK_CREDIT_VC1 l
  | 2 => F.LNK_CREDIT_VC2 l
  | _ => F.LNK_CREDIT_VC3 l

/-- Buffers of a receiving port, in flits (R225). -/
def vcBuffers (vc : Nat) : Nat :=
  match vc with
  | 0 => 4
  | 1 => 128
  | 2 => 128
  | _ => 1792

/-- Lanes of a width code. -/
def linkLanes (width : Nat) : Nat := if width = 0 then 4 else if width = 1 then 2 else 1

/-- The lanes that a link uses of its good ones, with the width code, no wider than `cap`: 4, 2 (0–1 or
2–3) or 1 (R228). -/
def pickLanes (good : BitVec 4) (cap : Nat) : Option (Nat × Nat) :=
  if good = 0xF ∧ cap = 0 then some (0xF, 0)
  else if good &&& 3 = 3 ∧ cap ≤ 1 then some (3, 1)
  else if good &&& 0xC = 0xC ∧ cap ≤ 1 then some (0xC, 1)
  else ([0, 1, 2, 3].find? (fun i => good.getLsbD i)).map (fun i => (2 ^ i, 2))

/-- A link that carries flits: ACTIVE, neither retraining nor held. -/
def linkCarries (s : State) (l : Nat) : Bool :=
  let k := getLink s l
  linkState s l == 3 && k.retraining.isNone && k.heldSince.isNone

/-- Send a flit on the wire. -/
def sendFlit (s : State) (l : Nat) (f : FlitWord) : State :=
  let k := getLink s l
  setLink s l { k with outbox := k.outbox ++ [f] }

/-- A LINKCTL flit: byte 8 is its code, bytes 9–10 a number. -/
def linkCtl (code n : Nat) : FlitWord := mkFlit 3 0 0 0 none 0 0 (code + n % 2 ^ 16 * 2 ^ 8)

/-- Record a marked packet at a link port (R342). -/
def traceLink (s : State) (type l seq epoch : Nat) (p : Packet) (retry fwd : Bool) : State :=
  if thFlag p 5 then
    traceHap s type (some (thPart p)) (thFlag p 3) retry fwd (0x600 + l)
      (payloadOf [(0, l), (2, seq), (4, thSrc p), (7, thDst p), (10, thQueue p), (12, thTag p), (14, thSeq p),
                  (17, epoch)])
  else s

/-- Bytes of a packet on a link: the tag header and 232 bytes of data. -/
def packetBytes : Nat := 248

/-- A credit field and an ACK to return with the next flit: the lowest channel that is owed credits. -/
def takeOwed (k : Link) : Link × Nat × Nat × Option Nat :=
  match [0, 1, 2, 3].find? (fun v => decide (0 < k.credOwed.getD v 0)) with
  | some v =>
    let n := min 63 (k.credOwed.getD v 0)
    ({ k with credOwed := k.credOwed.set v (k.credOwed.getD v 0 - n), ackOwed := none }, v, n, k.ackOwed)
  | none => ({ k with ackOwed := none }, 0, 0, k.ackOwed)

/-- The channel that sends next: VC0 before all others, each only with a credit (R225, R230). -/
def nextVc (s : State) (l : Nat) : Option Nat :=
  let k := getLink s l
  if linkCarries s l && decide (k.replay.length < 2048) then
    [0, 1, 2, 3].find? (fun v => !(k.queues.getD v []).isEmpty && decide (0 < getF s (creditFld l v)))
  else none

/-- Send the packet at the head of a channel as a DATA flit, and keep it for replay (R226). -/
def sendData (s : State) (l vc : Nat) (t : TxPkt) : State :=
  let o := takeOwed (getLink s l)
  let k := o.1
  let f := mkFlit 0 vc o.2.1 o.2.2.1 o.2.2.2 k.txSeq t.epoch (packetBody t.pkt)
  let s := traceLink s 4 l k.txSeq t.epoch t.pkt false t.fwd
  let s := setLink s l { k with
    txSeq := (k.txSeq + 1) % 4096, replay := k.replay ++ [{ seq := k.txSeq, flit := f, resends := 0, fwd := t.fwd }],
    queues := k.queues.set vc ((k.queues.getD vc []).drop 1), lastData := s.time, sleepSent := false,
    outbox := k.outbox ++ [f], progress := k.progress.set vc s.time }
  let s := setF s (creditFld l vc) (getF s (creditFld l vc) - 1)
  addF (countOp s (thPart t.pkt) 24 packetBytes) (F.DBG_CNT_LINK_TX l) packetBytes

/-- Send what the credits allow, at most `n` flits. -/
def pumpLink (s : State) (l n : Nat) : State :=
  match n with
  | 0 => s
  | n + 1 =>
    match nextVc s l with
    | none => s
    | some vc =>
      (match ((getLink s l).queues.getD vc []).head? with
       | some t => pumpLink (sendData s l vc t) l n
       | none => s)

/-- Return what is owed in IDLE flits when no DATA flit carries it, at most `n` flits. -/
def idleFlits (s : State) (l n : Nat) : State :=
  match n with
  | 0 => s
  | n + 1 =>
    let k := getLink s l
    if linkCarries s l && (k.ackOwed.isSome || k.credOwed.any (fun x => decide (0 < x))) then
      let o := takeOwed k
      idleFlits (sendFlit (setLink s l o.1) l (mkFlit 1 0 o.2.1 o.2.2.1 o.2.2.2 0 0 0)) l n
    else s

/-- Wake a link from STANDBY (R316). -/
def wakeLink (s : State) (l : Nat) : State :=
  if linkState s l = 4 then
    let s := runDrones (traceSleep (setLinkState s l 3) (32 + l) 4 3) (32 + l)
    setLink s l { getLink s l with sleepSent := false, lastData := s.time }
  else s

/-- A flit waits at a link port: a queued packet, an acknowledgement or credits to return. -/
def flitDue (k : Link) : Bool :=
  k.queues.any (fun q => !q.isEmpty) || k.ackOwed.isSome || k.credOwed.any (fun x => decide (0 < x))

/-- Let a link send: queued packets, then acknowledgements and credits (log entry 33). A flit that waits
wakes the link (R316). -/
def flushLink (s : State) (l : Nat) : State :=
  let s := if flitDue (getLink s l) then wakeLink s l else s
  let n := ((getLink s l).queues.map List.length).sum
  idleFlits (pumpLink s l n) l 2048

/-- Queue a packet at a link port, which wakes the link. -/
def enqueueLink (s : State) (l vc : Nat) (t : TxPkt) : State :=
  let k := getLink s l
  let q := k.queues.getD vc []
  let s := setLink s l { k with
    queues := k.queues.set vc (q ++ [t]), progress := if q.isEmpty then k.progress.set vc s.time else k.progress }
  flushLink s l

/-- Credits returned by the peer (R225). -/
def addCredits (s : State) (l vc n : Nat) : State :=
  if n = 0 then s
  else
    let k := getLink s l
    let s := setLink s l { k with progress := k.progress.set vc s.time }
    setF s (creditFld l vc) (min (vcBuffers vc) (getF s (creditFld l vc) + n))

/-- An ACK covers every flit up to and including it (R226). -/
def ackTo (k : Link) (a : Nat) : Link :=
  { k with replay := k.replay.filter (fun r => decide (2048 ≤ (a + 4096 - r.seq) % 4096)) }

/-- What the header of a good flit returns. -/
def takeHeader (s : State) (l : Nat) (f : FlitWord) : State :=
  let s := addCredits s l (flCrVc f) (flCrCnt f)
  if flAckValid f then setLink s l (ackTo (getLink s l) (flAck f)) else s

/-- Resend every flit of the replay buffer, in order (R226). -/
def resendAll (s : State) (l : Nat) : State :=
  let k := getLink s l
  let s := forEach k.replay s (fun s r => traceLink s 4 l r.seq (flEpoch r.flit) (flPacket r.flit) true r.fwd)
  let s := addF s (F.LNK_REPLAY_CNT l) k.replay.length
  setLink s l { k with outbox := k.outbox ++ k.replay.map (·.flit),
                       lastData := if k.replay.isEmpty then k.lastData else s.time,
                       replay := k.replay.map (fun r => { r with resends := r.resends + 1 }) }

/-! ## Receiving (R226) -/

/-- A link that can receive: ACTIVE or STANDBY, not retraining. -/
def linkHears (s : State) (l : Nat) : Bool :=
  let k := getLink s l
  (linkState s l == 3 || linkState s l == 4) && k.retraining.isNone && k.heldSince.isNone

/-- A flit is discarded, and every later one up to the DATA flit expected: one NAK names the last good
flit. -/
def discardFlit (s : State) (l : Nat) : State :=
  let k := getLink s l
  if k.nakSent then s
  else sendFlit (setLink s l { k with nakSent := true }) l (mkFlit 2 0 0 0 (some ((k.rxSeq + 4095) % 4096)) 0 0 0)

/-- A DATA flit is accepted: its packet goes to the link switch. -/
def acceptFlit (s : State) (l : Nat) (f : FlitWord) : State :=
  let p := flPacket f
  let k := getLink s l
  let s := setLink s l { k with nakSent := false, rxSeq := (k.rxSeq + 1) % 4096, ackOwed := some (flSeq f),
                                lastData := s.time, sleepSent := false }
  let s := takeHeader s l f
  let s := traceLink s 5 l (flSeq f) (flEpoch f) p false (dstDev p != ownDev s)
  let s := addF (countOp s (thPart p) 25 packetBytes) (F.DBG_CNT_LINK_RX l) packetBytes
  let s := { s with switch := s.switch ++ [{ pkt := p, vc := flVc f, epoch := flEpoch f, fromLink := some l, fwd := true }] }
  flushLink s l

/-- A flit arrives: it wakes the link, its codewords count, and it is discarded when its CRC fails or its
codeword is uncorrectable (R226, R316). -/
def arriveFlit (s : State) (l : Nat) (f : FlitWord) (corr : Nat) (fecBad : Bool) (good : State → State) : State :=
  if linkHears s l then
    let s := wakeLink s l
    let s := addF (addF s (F.LNK_FEC_CORR l) corr) (F.LNK_FEC_UNCORR l) fecBad.toNat
    if fecBad || !flitOk f then discardFlit s l else good s
  else s

/-- A good flit other than DATA acts unless earlier flits are missing: then it is discarded with them. -/
def inOrder (s : State) (l : Nat) (f : State → State) : State :=
  if (getLink s l).nakSent then s else f s

def dataFlit (s : State) (l : Nat) (f : FlitWord) (corr : Nat) (fecBad : Bool) : State :=
  arriveFlit s l f corr fecBad (fun s =>
    if flKind f == 0 && flSeq f == (getLink s l).rxSeq then acceptFlit s l f else discardFlit s l)

def execDataFlit (l : Nat) (flit : FlitWord) (corr : Nat) (fecBad : Bool) (s : State) : Out :=
  onUnit (linkOk l) (live s (fun s => dataFlit s l flit corr fecBad))

/-- The sender resends every flit after ACK, in order. -/
def resendAfter (s : State) (l : Nat) (f : FlitWord) : State :=
  let s := takeHeader s l f
  flushLink (resendAll (setLink s l (ackTo (getLink s l) (flAck f))) l) l

def nak (s : State) (l : Nat) (f : FlitWord) (corr : Nat) (fecBad : Bool) : State :=
  arriveFlit s l f corr fecBad (fun s =>
    if flKind f = 2 then inOrder s l (fun s => resendAfter s l f) else s)

def execNak (l : Nat) (flit : Coded) (s : State) : Out :=
  onUnit (linkOk l) (live s (fun s => nak s l flit.flit flit.corr flit.fecBad))

/-- An IDLE flit returns credits and an ACK. -/
def idleFlit (s : State) (l : Nat) (f : FlitWord) (corr : Nat) (fecBad : Bool) : State :=
  arriveFlit s l f corr fecBad (fun s =>
    if flKind f = 1 then inOrder s l (fun s => flushLink (takeHeader s l f) l) else s)

def execIdleFlit (l : Nat) (flit : Coded) (s : State) : Out :=
  onUnit (linkOk l) (live s (fun s => idleFlit s l flit.flit flit.corr flit.fecBad))

/-! ## Packets of the device itself -/

/-- An item of a command reports a result, unless it has reported (R36). -/
def reportOnce (s : State) (q tag seq : Nat) (r : Result) : State :=
  match findCmd s q tag with
  | some o => if (o.sent ++ o.got).any (fun x => x.seq == seq) then s else sendReport s q tag seq r
  | none => s

def getGrp (s : State) (g : Nat) : Option ColGroup := slook s.colGroups g

/-- Fields of a COLLECTIVE body (R241). -/
def coGroup (c : CmdWord) : Nat := bits (cmdField c 32 2) 8 0
def coOp (c : CmdWord) : Nat := bits (cmdField c 34 1) 2 0
def coDtype (c : CmdWord) : Nat := bits (cmdField c 35 1) 2 0
def coRop (c : CmdWord) : Nat := bits (cmdField c 35 1) 4 3
def coOutFp32 (c : CmdWord) : Bool := (cmdField c 35 1).testBit 5
def coCount (c : CmdWord) : Nat := cmdField c 36 4
def coSrc (c : CmdWord) : Nat := cmdField c 40 8
def coDst (c : CmdWord) : Nat := cmdField c 48 8
def coCtx (c : CmdWord) : Nat := bits (cmdField c 56 2) 11 0
def coRoot (c : CmdWord) : Nat := bits (cmdField c 58 2) 11 0
def coAnchor (c : CmdWord) : BitVec 10 := BitVec.ofNat 10 (cmdField c 60 2)

/-- Bytes of an element of a DTYPE. -/
def coSize (dtype : Nat) : Nat :=
  match dtype with
  | 0 => 4
  | 3 => 4
  | 4 => 16
  | 5 => 1
  | _ => 2

/-- Bytes of a block of a collective, and of an output block. -/
def coBlock (c : CmdWord) : Nat := coCount c * coSize (coDtype c)
def coOutBlock (c : CmdWord) : Nat := if coOutFp32 c then 4 * coCount c else coBlock c

/-- Bytes of a collective's output on a member of a group of `n`. -/
def coOutBytes (c : CmdWord) (n : Nat) : Nat := if coOp c = 2 || coOp c = 3 then n * coOutBlock c else coOutBlock c

/-- A collective of this member ends without its output: what it may have written is undefined (R38). -/
def failColl (s : State) (c : Coll) (r : Result) : State :=
  let n := (match getGrp s c.group with | some g => g.members.length | none => 0)
  let s := undefRange s (partOf s c.q) (coCtx c.cmd) (coDst c.cmd) (coOutBytes c.cmd n)
  let s := sendReport s c.q c.tag 0 r
  { s with colls := s.colls.filter (fun x => !(x.q == c.q && x.tag == c.tag)) }

/-- Whether collective packets carry THROTTLED: any throttle reason but FIXED_CLOCK, bit 10 (R247). -/
def throttledNow (s : State) : Bool := withBit (getF s F.CAPO_REASON_REASONS) 10 false != 0

/-- TH.FLAGS.THROTTLED of a packet as it is sent. -/
def markThrottled (p : Packet) (on : Bool) : Packet :=
  { p with th := BitVec.ofNat 128 (withBit p.th.toNat 116 on) }

/-- A packet that the soundboard itself sends enters the link switch with the present epoch (R235). -/
def switchPut (s : State) (p : Packet) (vc : Nat) : State :=
  { s with switch := s.switch ++
      [{ pkt := p, vc := vc, epoch := getF s F.LNK_EPOCH_CUR, fromLink := none, fwd := false }] }

/-- A packet of the own units that an I/O reset absorbs: its command reports ST_LINK_RESET (R304). -/
def absorbed (s : State) (p : Packet) : State :=
  if thClass p = 5 then
    (match s.colls.find? (fun c => c.q == thQueue p && c.tag == thTag p) with
     | some c => failColl s c (codeResult stLinkReset 0)
     | none => s)
  else if thClass p = 4 then reportOnce s (thQueue p) (thTag p) (thSeq p) (codeResult stLinkReset 0)
  else s

/-- The link pool holds a trunk channel: traffic between the links and the own units can pass (R13). -/
def trunkOpen (s : State) : Bool := !s.luthier.trunkPool.isEmpty

/-! ## Route tables (R231, R232, R236) -/

/-- The link and valid fields of a candidate: tables 0 NEXT, 1 CUR, 2 PREV. -/
def candLink (tbl d c : Nat) : Fld := { key := (0x720000 + 0x10000 * tbl + 4 * d) * 128 + 8 * c, width := 6, reset := 0 }
def candValid (tbl d c : Nat) : Fld := { key := (0x720000 + 0x10000 * tbl + 4 * d) * 128 + 8 * c + 6, width := 1, reset := 0 }

/-- The links of the valid candidates of an entry, by ascending candidate index. -/
def candidates (s : State) (tbl d : Nat) : List Nat :=
  ([0, 1, 2, 3].filter (fun c => getB s (candValid tbl d c))).map (fun c => getF s (candLink tbl d c))

/-- The usable candidates: ACTIVE links (R231). -/
def usable (s : State) (tbl d : Nat) : List Nat :=
  (candidates s tbl d).filter (fun l => decide (l < 48) && linkState s l == 3)

/-- A device that a packet could be sent to now: a candidate is usable, or sleeps and would be woken. -/
def reachable (s : State) (d : Nat) : Bool :=
  (candidates s 1 d).any (fun l => decide (l < 48) && (linkState s l == 3 || linkState s l == 4))

/-- The table that routes a packet of an epoch; none when the packet is stale (R236). -/
def epochTable (s : State) (e : Nat) : Option Nat :=
  let cur := getF s F.LNK_EPOCH_CUR
  let d := (e + 256 - cur) % 256
  if d = 0 then some 1
  else if getB s F.LNK_EPOCH_PREV_VALID && e == getF s F.LNK_EPOCH_PREV then some 2
  else if d ≤ 127 then some 1 else none

/-- Adaptive weight of a link for a channel: free credits times active lanes (R232). -/
def linkWeight (s : State) (vc l : Nat) : Nat := getF s (creditFld l vc) * linkLanes (getF s (F.LNK_STATUS_WIDTH l))

/-- The link that a packet takes of its usable candidates (R232). -/
def pickLink (s : State) (p : Packet) (vc : Nat) (us : List Nat) : Option Nat :=
  if (getF s F.LNK_ROUTE_MODE_ADAPT).testBit (thClass p) then
    us.foldl (fun b l => match b with
      | none => some l
      | some x => if linkWeight s vc x < linkWeight s vc l then some l else some x) none
  else us[(srcDev p ^^^ dstDev p ^^^ thQueue p) % max 1 us.length]?

/-! ## Lost peers (R246) -/

/-- A PEER_LOST notice of a group: its KEY and the device lost (log entry 34). -/
def lostNotice (s : State) (g : ColGroup) (member dev : Nat) : Packet :=
  markThrottled { th := mkTh g.part 7 0 0 (devUnit (ownDev s) 0x503) (devUnit member 0x503) 0 0,
                  data := bytesOf 4 g.key.toNat ++ bytesOf 2 dev } (throttledNow s)

/-- Send a notice of the own units; nobody waits for one that the way to the links loses (R13, R304). -/
def sendNotice (s : State) (p : Packet) (vc : Nat) : State :=
  if s.luthier.ioRst then s
  else if trunkOpen s then switchPut s p vc
  else incF s F.LNK_UNREACH_CNT

/-- Substatus codes (*Table: Link and collective substatus codes (move engine)*). -/
def subFields : Nat := 0x0110
def subBadGroup : Nat := 0x0111
def subDupKey : Nat := 0x0112
def subMembers : Nat := 0x0113
def subMismatch : Nat := 0x0114
def subUnreachable : Nat := 0x0115
def subBroken : Nat := 0x0116

/-- A peer of a group is lost: notices, the group is broken, its collectives complete ST_PEER_LOST. -/
def losePeer (s : State) (g dev : Nat) : State :=
  match getGrp s g with
  | none => s
  | some k =>
    if k.broken then s
    else
      let told := k.members.filter (fun m => m != ownDev s && m != dev && reachable s m)
      let s := forEach told s (fun s m => sendNotice s (lostNotice s k m dev) 0)
      let s := { s with colGroups := sins s.colGroups g { k with broken := true } }
      let s := forEach (s.colls.filter (fun c => c.group == g)) s (fun s c =>
        failColl s c (codeResult stPeerLost subBroken))
      raiseEv (incF s F.COL_PEER_LOST_CNT) 0x4006 sevError (some k.part) 0x24 g g dev

/-- The groups that hold a device. -/
def groupsOfDev (s : State) (dev : Nat) : List Nat :=
  (s.colGroups.filter (fun p => p.2.members.contains dev)).map (·.1)

/-! ## Unreachable packets (R233) -/

/-- An UNREACHABLE notice: a CONTROL packet with FAIL set, so without queue, tag and item number (R41), that
carries the header of the lost packet (log entry 34). -/
def isNotice (p : Packet) : Bool := thClass p == 7 && thFlag p 1
def noticeOf (s : State) (p : Packet) : Packet :=
  { th := mkTh (thPart p) 7 0 0 (devUnit (ownDev s) 0x503) (thSrc p) 0 2, data := bytesOf 16 p.th.toNat }

/-- Key of a collective packet in `colTags`: queue and tag are those of the sender, or, in a retry response,
of the device that it answers. -/
def colTagOf (s : State) (p : Packet) : Nat :=
  ((if thFlag p 1 then dstDev p else ownDev s) * 1024 + thQueue p) * 65536 + thTag p

/-- A partition and a KEY as one number, and the group that has them. -/
def groupKey (part : Nat) (key : Word) : Nat := part * 2 ^ 32 + key.toNat
def groupOfKey (s : State) (v : Nat) : Option Nat :=
  (s.colGroups.find? (fun x => groupKey x.2.part x.2.key == v)).map (·.1)

/-- The source learns that a packet of its own was lost: its item reports ST_PEER_LOST, and a collective
packet, a retry response among them, loses the peer (R233, R246). -/
def packetLost (s : State) (p : Packet) : State :=
  if thClass p = 4 then
    reportOnce s (thQueue p) (thTag p) (thSeq p) (codeResult stPeerLost subUnreachable)
  else if thClass p = 5 then
    (match (slook s.colTags (colTagOf s p)).bind (groupOfKey s) with
     | some g => losePeer s g (dstDev p)
     | none => s)
  else s

/-- Discard a packet as unreachable: count it and tell its source. -/
def unreachable (s : State) (p : Packet) : State :=
  let s := incF s F.LNK_UNREACH_CNT
  if isNotice p then s
  else if srcDev p = ownDev s then packetLost s p
  else if reachable s (srcDev p) && !s.luthier.ioRst then switchPut s (noticeOf s p) 0
  else s

/-- A packet of the own units enters the link switch, a collective one marked as the throttle reasons are now
(R235, R247). An I/O reset absorbs it, and without a trunk channel it is unreachable (R13, R304). -/
def switchInject (s : State) (p : Packet) (vc : Nat) : State :=
  let p := if thClass p = 5 then markThrottled p (throttledNow s) else p
  if s.luthier.ioRst then absorbed s p
  else if trunkOpen s then switchPut s p vc
  else unreachable s p

def execUnreachableNotice (th : TagHeader) (s : State) : Out :=
  done (inService s (fun s =>
    let p : Packet := { th := th, data := [] }
    if srcDev p = ownDev s then packetLost s p else s))

/-! ## The link switch (R231 to R233, R316) -/

/-- The result that a JOIN packet carries: FAIL with a status in byte 0, its substatus in bytes 2–3 and its
DETAIL in bytes 8–15 of the data (log entry 34). -/
def joinResult (p : Packet) : Result :=
  if thFlag p 1 then
    { status := natOf (p.data.take 1), sub := natOf ((p.data.drop 2).take 2), detail := natOf ((p.data.drop 8).take 8) }
  else okResult

def joinData (r : Result) : List Byte :=
  bytesOf 1 r.status ++ bytesOf 1 0 ++ bytesOf 2 r.sub ++ bytesOf 4 0 ++ bytesOf 8 r.detail

/-- A packet for this device reaches its unit: a JOIN report its command, a refused collective segment its
sender, which waits to send it again (R36, R242). -/
def deliverLocal (s : State) (p : Packet) : State :=
  if thClass p = 6 then reportOnce s (thQueue p) (thTag p) (thSeq p) (joinResult p)
  else if thClass p = 5 && thFlag p 1 then
    let th := mkTh (thPart p) 5 (thQueue p) (thTag p) (thDst p) (thSrc p) (thSeq p) (thField p.th 127 112 - 2)
    { s with retries := s.retries ++ [{ pkt := { th := th, data := p.data }, since := s.time }] }
  else { s with delivered := s.delivered ++ [p] }

/-- Route a packet of the switch: to the own units while a trunk channel is left (R13), or to a usable
candidate of its epoch's table. -/
def routeSwitch (s : State) (x : SwPkt) : State :=
  if dstDev x.pkt = ownDev s then (if trunkOpen s then deliverLocal s x.pkt else unreachable s x.pkt)
  else
    match epochTable s x.epoch with
    | none => unreachable (incF s F.LNK_STALE_CNT) x.pkt
    | some tbl =>
      let s := forEach ((candidates s tbl (dstDev x.pkt)).filter (fun l => decide (l < 48))) s wakeLink
      match pickLink s x.pkt x.vc (usable s tbl (dstDev x.pkt)) with
      | some l => enqueueLink s l x.vc { pkt := x.pkt, epoch := x.epoch, fwd := x.fwd }
      | none => unreachable s x.pkt

/-- The buffer of the port that received a packet is free again: its credit goes back. -/
def returnCredit (s : State) (x : SwPkt) : State :=
  match x.fromLink with
  | some l =>
    let k := getLink s l
    flushLink (setLink s l { k with credOwed := k.credOwed.set x.vc (k.credOwed.getD x.vc 0 + 1) }) l
  | none => s

def switchPacket (s : State) (n : Nat) : State :=
  match s.switch[n]? with
  | some x => returnCredit (routeSwitch { s with switch := s.switch.eraseIdx n } x) x
  | none => s

def execLinkSwitchPacket (n : Nat) (s : State) : Out := done (live s (fun s => switchPacket s n))

/-! ## Retraining and loss of a link (R227 to R229) -/

/-- A link starts: its buffers are free, and sequence numbers begin at 0 (log entry 33). -/
def freshLink (s : State) (l : Nat) : State :=
  let k := getLink s l
  let s := setLink s l { Link.zero with outbox := k.outbox, probe := k.probe, lastProbe := k.lastProbe, lastData := s.time,
                                        progress := [s.time, s.time, s.time, s.time] }
  forEach [0, 1, 2, 3] s (fun s v => setF s (creditFld l v) (vcBuffers v))

/-- The packets of a VC's queues, for the switch. -/
def queuedOf (k : Link) : List SwPkt :=
  k.queues.zipIdx.flatMap (fun q => q.1.map (fun t =>
    { pkt := t.pkt, vc := q.2, epoch := t.epoch, fromLink := none, fwd := t.fwd }))

/-- A link becomes FAILED, OFF or RESET: queued packets take other candidates, unacknowledged flits are
discarded as unreachable (R229). -/
def linkDown (s : State) (l st : Nat) : State :=
  let k := getLink s l
  let s := setLinkState s l st
  let s := setLink s l { Link.zero with outbox := k.outbox, probe := k.probe, lastProbe := k.lastProbe }
  let s := forEach [0, 1, 2, 3] s (fun s v => setF s (creditFld l v) 0)
  let s := raiseLnk s 0x4002 sevError l (linkStatusWord s l)
  let s := forEach (queuedOf k) s routeSwitch
  forEach k.replay s (fun s r => unreachable s (flPacket r.flit))

/-- A retrain begins, over some lanes at most and no wider than a width code. -/
def beginRetrain (s : State) (l : Nat) (lanes : BitVec 4) (cap : Nat) : State :=
  setLink s l { getLink s l with retraining := some s.time, lanes := lanes, cap := cap }

/-- Nothing retrains a link that is not in use. -/
def inUse (s : State) (l : Nat) : Bool :=
  (linkState s l == 3 || linkState s l == 4) && (getLink s l).retraining.isNone

/-- The lanes in use. -/
def usedLanes (s : State) (l : Nat) : BitVec 4 := BitVec.ofNat 4 (getF s (F.LNK_TRAIN_LANE_USED l))

/-- R227: a flit resent 8 times without an ACK makes the link retrain at its present width. -/
def replayLimit (s : State) (l : Nat) : State :=
  if inUse s l && (getLink s l).replay.any (fun r => decide (8 ≤ r.resends)) then 
    beginRetrain s l (usedLanes s l) (getF s (F.LNK_STATUS_WIDTH l))
  else s

def execReplayLimit (l : Nat) (s : State) : Out := onUnit (linkOk l) (live s (fun s => replayLimit s l))

/-- R228: only `lanes` are good. A link that loses one in use retrains at the widest width that they allow,
no wider than it was (log entry 107): a link widens only when host software or a reset asks for it. -/
def linkDegrade (s : State) (l : Nat) (lanes : BitVec 4) : State :=
  if inUse s l && usedLanes s l &&& ~~~lanes != 0 then beginRetrain s l lanes (getF s (F.LNK_STATUS_WIDTH l))
  else s

def execLinkDegrade (l : Nat) (lanes : BitVec 4) (s : State) : Out :=
  onUnit (linkOk l) (live s (fun s => linkDegrade s l lanes))

/-- Fill the training registers after a training that used some lanes. -/
def trainRegs (s : State) (l : Nat) (ok used result since : Nat) : State :=
  let s := setF (setF s (F.LNK_TRAIN_LANE_OK l) ok) (F.LNK_TRAIN_LANE_USED l) used
  let s := setF (addF s (F.LNK_TRAIN_ATTEMPTS l) 1) (F.LNK_TRAIN_RESULT l) result
  setF s (F.LNK_TRAIN_DURATION l) (min 65535 ((s.time - since) / 100000))

/-- Stage 7 ends once no link trains or qualifies any more (R293). -/
def stage7Settle (s : State) : State :=
  if devState s = 0 ∧ getF s F.LUT_STATE_STAGE = 7 ∧ (List.range 48).all (fun l => linkState s l != 1 && linkState s l != 2) then
    stageEnd s 7 ((List.range 48).any (fun l => linkState s l == 6 || getF s (F.LNK_STATUS_WIDTH l) != 0))
  else s

/-- A soundboard I/O reset ends, and BUSY clears, once no port is in reset or qualifies (R304). -/
def ioSettle (s : State) : State :=
  if s.luthier.ioRst && (List.range 48).all (fun l => linkState s l != 5 && linkState s l != 2) then
    setB { s with luthier := { s.luthier with ioRst := false } } F.LUT_RESET_STATUS_BUSY false
  else s

/-- What waits for the links to have trained and qualified. -/
def linksSettle (s : State) : State := ioSettle (stage7Settle s)

/-- RESULT of a training at a width: OK at 4 lanes, else OK_DEGRADED. -/
def trainResult (width : Nat) : Nat := if width = 0 then 1 else 2

/-- Lanes of a link that the fuses or the map name: none is put in use (R296). -/
def namedLanes (s : State) (l : Nat) : BitVec 4 :=
  ((s.fuses.bad ++ s.luthier.defects).filter (fun u => u.kind == 12 && u.index == l)).foldl
    (fun m u => m ||| BitVec.ofNat 4 (2 ^ u.sub)) 0

/-- A unit as a defect entry (*Table: Defect entry (8 bytes), also used by LUT_NEWDEF*). -/
def unitEntry (u : UnitRef) : Nat :=
  if u.kind = 4 then 4 + u.index * 2 ^ 32 else u.kind + u.index * 2 ^ 8 + u.sub * 2 ^ 38

/-- A fuse-good unit that the map does not name and that fails a stage is reported (R296). -/
def reported (s : State) (u : UnitRef) : Bool := !s.fuses.bad.contains u && !s.luthier.defects.contains u

/-- Enter a defect into LUT_NEWDEF. -/
def addDefect (s : State) (e : Nat) : State :=
  let n := getF s F.LUT_NEWDEF_CNT
  let s := if n < 256 then setF s (F.LUT_NEWDEF n) e else s
  incF s F.LUT_NEWDEF_CNT

def reportUnits (s : State) (l : List UnitRef) : State :=
  forEach (l.filter (reported s)) s (fun s u => addDefect s (unitEntry u))

/-- The lanes of a link that did not train. -/
def deadLanes (l : Nat) (lanes : BitVec 4) : List UnitRef :=
  ((List.range 4).filter (fun i => !lanes.getLsbD i)).map (fun i => { kind := 12, index := l, sub := i })

/-- The lanes that failed a link's training at stage 7 are reported; a later training is no stage. -/
def reportLanes (s : State) (l : Nat) (lanes : BitVec 4) : State :=
  if devState s == 0 && linkState s l == 1 then reportUnits s (deadLanes l lanes) else s

/-- A training fails: RESULT says why, and the link becomes FAILED. -/
def trainFailed (s : State) (l : Nat) (lanes : BitVec 4) (result since : Nat) : State :=
  linksSettle (linkDown (trainRegs s l lanes.toNat 0 result since) l 6)

/-- A retrain ends over the lanes that trained: held flits replay, or the link becomes FAILED. A peer that
offers only an unsupported option fails it (R224). -/
def retrainEnd (s : State) (l : Nat) (lanes : BitVec 4) (supported : Bool) (since : Nat) : State :=
  let k := getLink s l
  let ok := lanes &&& ~~~(namedLanes s l)
  if !supported then trainFailed s l ok 6 since
  else
    let s := reportLanes s l lanes
    match pickLanes (ok &&& k.lanes) k.cap with
    | none => trainFailed s l ok 3 since
    | some (used, width) =>
      let s := if getF s (F.LNK_STATUS_WIDTH l) < width then incF s (F.LNK_DEGRADE_CNT l) else s
      let s := trainRegs (setF s (F.LNK_STATUS_WIDTH l) width) l ok.toNat used (trainResult width) since
      if linkState s l = 1 then
        setLinkState (setLink s l { getLink s l with retraining := none }) l 2
      else
        let s := raiseLnk (wakeLink s l) 0x4001 sevWarn l width
        let s := setLink s l { k with retraining := none, heldSince := none, lastData := s.time,
                                      replay := k.replay.map (fun r => { r with resends := 0 }) }
        flushLink (resendAll s l) l

/-- A retrain ends, or a link whose peer held it returns (R228, R304). -/
def linkRetrainDone (s : State) (l : Nat) (lanes : BitVec 4) (supported : Bool) : State :=
  let k := getLink s l
  match k.retraining, k.heldSince with
  | some t, _ => retrainEnd s l lanes supported t
  | none, some t => retrainEnd (setLink s l { k with lanes := 0xF, cap := 0 }) l lanes supported t
  | none, none => s

def execLinkRetrainDone (l : Nat) (lanes : Trained) (s : State) : Out :=
  onUnit (linkOk l) (live s (fun s => linkRetrainDone s l lanes.lanes lanes.supported))

/-- R234: a VC has held a flit without credit progress for 10 ms. -/
def linkWatchdog (s : State) (l vc : Nat) : State :=
  let k := getLink s l
  if !(k.queues.getD vc []).isEmpty && linkState s l == 3 && decide (k.progress.getD vc 0 + 10000000 ≤ s.time) then
    let s := setLink s l { k with progress := k.progress.set vc s.time }
    raiseLnk (setB s (F.LNK_STATUS_WATCHDOG l) true) 0x4003 sevError l vc
  else s

def execLinkWatchdog (l vc : Nat) (s : State) : Out :=
  onUnit (linkOk l && vcOk vc) (live s (fun s => linkWatchdog s l vc))

/-! ## Epochs (R235, R237) -/

/-- Replace a route table by a copy of another. -/
def copyTable (s : State) (src dst : Nat) : State :=
  let lo (t : Nat) : Nat := (0x720000 + 0x10000 * t) * 128
  let mine (t k : Nat) : Bool := decide (lo t ≤ k) && decide (k < lo t + 0x4000 * 128)
  let moved := (s.fields.filter (fun p => mine src p.1)).map (fun p => (p.1 - lo src + lo dst, p.2))
  { s with fields := moved.foldr (fun p m => sins m p.1 p.2) (s.fields.filter (fun p => !mine dst p.1)) }

/-- No packet of epoch PREV remains in this device's buffers. -/
def prevGone (s : State) : Bool :=
  let e := getF s F.LNK_EPOCH_PREV
  s.switch.all (fun x => x.epoch != e) &&
    s.links.all (fun p => p.2.queues.all (fun q => q.all (fun t => t.epoch != e)) &&
      p.2.replay.all (fun r => flEpoch r.flit != e))

/-- PREV_DRAINED: the PREV table is in use and no packet of it remains. -/
def prevDrained (s : State) : Bool := getB s F.LNK_EPOCH_PREV_VALID && prevGone s

/-- CUR goes to PREV and NEXT to CUR, and the current epoch becomes `new`. -/
def turnEpoch (s : State) (new : Nat) : State :=
  let old := getF s F.LNK_EPOCH_CUR
  let s := copyTable (copyTable s 1 2) 0 1
  setB (setF (setF s F.LNK_EPOCH_PREV old) F.LNK_EPOCH_CUR new) F.LNK_EPOCH_PREV_VALID true

/-- ACTIVATE. -/
def activate (s : State) : State :=
  if getB s F.LNK_EPOCH_PREV_VALID then setB s F.LNK_EPOCH_CTRL_REFUSED true
  else
    let old := getF s F.LNK_EPOCH_CUR
    let new := getF s F.LNK_EPOCH_CTRL_NEXT
    raiseEv (turnEpoch s new) 0x4004 sevInfo none 0 0 0 (new + old * 2 ^ 8)

/-- A write of LNK_EPOCH_CTRL. -/
def epochCtrlWrite (s : State) (v : Nat) : State :=
  let s := setF s F.LNK_EPOCH_CTRL_NEXT (bits v 7 0)
  let s := if v.testBit 10 then setB s F.LNK_EPOCH_CTRL_REFUSED false else s
  let s := if v.testBit 8 then activate s else s
  if v.testBit 9 && getB s F.LNK_EPOCH_PREV_VALID then setB s F.LNK_EPOCH_CTRL_RETIRE true else s

def execActivate (v : BitVec 32) (s : State) : Out := done (inService s (fun s => epochCtrlWrite s v.toNat))

def execRetire (v : BitVec 32) (s : State) : Out := done (inService s (fun s => epochCtrlWrite s v.toNat))

/-- R237: PREV_VALID clears once no packet of epoch PREV remains. -/
def prevRetired (s : State) : State :=
  if getB s F.LNK_EPOCH_CTRL_RETIRE && prevDrained s then
    setB (setB s F.LNK_EPOCH_PREV_VALID false) F.LNK_EPOCH_CTRL_RETIRE false
  else s

def execPrevRetired (s : State) : Out := done (live s prevRetired)

/-! ## Peers and control (R228, R293, R304, R316) -/

/-- The link becomes ACTIVE, with its sequence numbers where they outlast a reset of it or of its peer. -/
def linkUp (s : State) (l : Nat) : State :=
  let k := getLink s l
  let s := if k.kept || k.heldSince.isSome then setLink s l { k with kept := false } else freshLink s l
  setLinkState s l 3

/-- The contents of LNK_STATUS's peer fields. -/
def setPeer (s : State) (l dev peerLink : Nat) : State :=
  setB (setF (setF s (F.LNK_STATUS_PEER_DEV l) dev) (F.LNK_STATUS_PEER_LINK l) peerLink) (F.LNK_STATUS_PEER_VALID l) true

/-- A link takes part in the trainings of a new partner. -/
def mayJoin (s : State) (l : Nat) : Bool :=
  (linkState s l == 0 || linkState s l == 1 || linkState s l == 2 || linkState s l == 6) &&
    getB s (F.LNK_CTRL_PLUG_EN l) && !getB s (F.LNK_CTRL_DISABLE l) && !s.luthier.ioRst

/-- A partner appears on a link with PLUG_EN = 1: it trains, qualifies and becomes ACTIVE; a partner that
offers only an unsupported option, or lanes that do not train, leave the link FAILED (R224). -/
def peerJoin (s : State) (l dev peerLink : Nat) (lanes : BitVec 4) (supported : Bool) : State :=
  let ok := lanes &&& ~~~(namedLanes s l)
  if mayJoin s l then
    if !supported then trainFailed (setPeer s l dev peerLink) l ok 6 s.time
    else
      match pickLanes ok 0 with
      | none => trainFailed (setPeer s l dev peerLink) l ok 3 s.time
      | some (used, width) =>
        let s := setPeer (setF s (F.LNK_STATUS_WIDTH l) width) l dev peerLink
        let s := trainRegs s l ok.toNat used (trainResult width) s.time
        let s := setB (setB s (F.LNK_QUAL_DONE l) true) (F.LNK_QUAL_PASS l) true
        raiseLnk (linkUp s l) 0x4005 sevInfo l (dev + peerLink * 2 ^ 16)
  else s

def execPeerJoin (l dev peerLink : Nat) (lanes : Trained) (s : State) : Out :=
  onUnit (linkOk l && deviceOk dev && linkOk peerLink)
    (inService s (fun s => peerJoin s l dev peerLink lanes.lanes lanes.supported))

/-- RETRAIN: at the widest width that the lanes allow; a FAILED link trains again. -/
def ctrlRetrain (s : State) (l : Nat) : State :=
  if inUse s l then beginRetrain s l 0xF 0
  else if linkState s l = 6 && !s.luthier.ioRst then beginRetrain (setLinkState s l 1) l 0xF 0
  else s

/-- A link qualifies over some lanes. -/
def narrowLink (s : State) (l used width : Nat) : State :=
  setF (setF s (F.LNK_TRAIN_LANE_USED l) used) (F.LNK_STATUS_WIDTH l) width

/-- A link comes back from its saved settings: it qualifies at the widest width that its lanes allow, or
trains where none of them had trained (R228, R293, R304). -/
def trainSaved (s : State) (l : Nat) : State :=
  match pickLanes (BitVec.ofNat 4 (getF s (F.LNK_TRAIN_LANE_OK l)) &&& ~~~(namedLanes s l)) 0 with
  | none => beginRetrain (setLinkState s l 1) l 0xF 0
  | some (used, width) =>
    let s := { s with luthier := { s.luthier with qualStep := sdel s.luthier.qualStep l } }
    let s := setB (narrowLink (setLinkState s l 2) l used width) (F.LNK_STATUS_SAVED l) true
    setB (setB s (F.LNK_QUAL_DONE l) false) (F.LNK_QUAL_PASS l) false

/-- DISABLE: set, the link is held OFF (R229); cleared, it trains from saved settings and qualifies. -/
def ctrlDisable (s : State) (l : Nat) (on : Bool) : State :=
  let was := getB s (F.LNK_CTRL_DISABLE l)
  let s := setB s (F.LNK_CTRL_DISABLE l) on
  if on && !was then linkDown s l 0
  else if was && !on then
    if getB s (F.LNK_STATUS_PEER_VALID l) then trainSaved s l else beginRetrain (setLinkState s l 1) l 0xF 0
  else s

/-- A write of LNK_CTRL. -/
def linkCtrlWrite (s : State) (l v : Nat) : State :=
  let s := setB s (F.LNK_CTRL_PLUG_EN l) (v.testBit 2)
  let s := ctrlDisable s l (v.testBit 1)
  if v.testBit 0 && !v.testBit 1 then ctrlRetrain s l else s

def execLinkCtrlRetrain (l : Nat) (v : BitVec 32) (s : State) : Out :=
  onUnit (linkOk l) (inService s (fun s => linkCtrlWrite s l v.toNat))

def execLinkDisable (l : Nat) (v : BitVec 32) (s : State) : Out :=
  onUnit (linkOk l) (inService s (fun s => linkCtrlWrite s l v.toNat))

/-- A HOLD flit: the port keeps its queued and unacknowledged flits until the link returns (R304). -/
def holdLink (s : State) (l : Nat) : State :=
  if linkHears s l then
    inOrder (wakeLink s l) l (fun s => setLink s l { getLink s l with heldSince := some s.time })
  else s

def execHold (l : Nat) (s : State) : Out := onUnit (linkOk l) (live s (fun s => holdLink s l))

/-- A link that has not returned within 100 ms is treated as FAILED. -/
def holdTimeout (s : State) (l : Nat) : State :=
  match (getLink s l).heldSince with
  | some t => if t + 100000000 ≤ s.time then linkDown s l 6 else s
  | none => s

def execHoldTimeout (l : Nat) (s : State) : Out := onUnit (linkOk l) (live s (fun s => holdTimeout s l))

end Sys2Proof.Machine
end

