-- ==== Sys2Proof/Machine/Stack.lean ====
section
/-! DEFINITION. The meanings of the stack and the module: through slices, couplers, coolant direction
and the bus converter (R10, R12, R13, R15, R17). -/

namespace Sys2Proof.Machine

/-- R12: a supply below 950 mV in service is fatal. -/
def thruSlice (s : State) (p mv : Nat) : State :=
  let s := setB (setF s (F.PDM_THRU_MV p) (min mv 4095)) (F.PDM_THRU_OK p) (decide (950 ≤ mv))
  if mv < 950 && ready s then raiseFatal s 0x1001 4 0 p else s

def execThruSlice (player mv : Nat) (s : State) : Out :=
  onUnit (layerOk player) (live s (fun s => thruSlice s player mv))

/-- Key of a crossing in the table of spare coils in use. -/
def crossing (chan boundary : Nat) (down : Bool) : Nat := (chan * 16 + boundary) * 2 + down.toNat

/-- A trunk channel fails in service: one of the pool leaves it (R13). DESIGN CHOICE (log entry 83): the manual
says nothing of a service channel, and its failure only marks the site. Packets cross a trunk channel within
one command, so none is on the failed channel for a moved flow to wait for (log entry 9). -/
def trunkLeave (s : State) (t : Nat) : State :=
  let pool := s.luthier.trunkPool.filter (· != t)
  let s := { s with luthier := { s.luthier with trunkPool := pool, trunkBad := s.luthier.trunkBad ++ [t] } }
  setF s F.LNK_TRUNK_CHANNELS pool.length

/-- The channel of a crossing that needs a fifth spare fails (R10). -/
def channelFailed (s : State) (chan : Nat) : State :=
  if chan < 1224 then
    let s := { s with luthier := { s.luthier with colBad := s.luthier.colBad ++ [chan] } }
    match colOfPcol s chan with
    | some col => setB (fence s 2 col 10) (F.MEM_COLMAP_VALID col) false
    | none => s
  else trunkLeave s (chan - 1224)

/-- Map spare coils of a crossing to coils that need one; whether the crossing needs a fifth (R10). -/
def mapCoils (s : State) (chan boundary : Nat) (down : Bool) (coils : Nat) : State × Bool :=
  let key := crossing chan boundary down
  let used := sget 0 s.spareCoils key + coils
  ({ s with spareCoils := sput 0 s.spareCoils key (min 4 used) }, decide (4 < used))

def couplerFail (s : State) (chan boundary : Nat) (down : Bool) : State :=
  channelFailed { s with spareCoils := sput 0 s.spareCoils (crossing chan boundary down) 4 } chan

def execCouplerFail (chan boundary : Nat) (down : Bool) (s : State) : Out :=
  onUnit (channelOk chan && boundaryOk chan boundary) (inService s (fun s => couplerFail s chan boundary down))

/-- A number of 0.125 °C units as 32 bits. -/
def tempBits (t : Int) : Nat := (t % 2 ^ 32).toNat

/-- R15: temperatures in 0.125 °C units, flow in 0.001 L/min units. -/
def coolantReversed (s : State) (inlet outlet : Int) (flow durMs : Nat) : State :=
  let cond := decide (outlet + 16 < inlet) && decide (1000 < durMs) &&
    decide (20 * s.therm.flowNom < flow) && !getB s F.THM_STATUS_OUTLET_LOST
  let t := { s with therm := { s.therm with reversed := cond } }
  if cond && !s.therm.reversed then
    raiseEv t 0x2001 sevWarn none 0 0 0 (tempBits inlet + tempBits outlet * 2 ^ 32)
  else t

def execCoolantReversed (inlet outlet : Int) (flow durMs : Nat) (s : State) : Out :=
  done (live s (fun s => coolantReversed s inlet outlet flow durMs))

/-- A threshold of the converter, in 0.1 V, within its bounds (R17). -/
def inputThreshold (n : Nat) : Nat :=
  match n with
  | 0 => max 2500 (min 2600 (Config.inputThreshold 0))
  | 1 => max 2350 (min 2450 (Config.inputThreshold 1))
  | 2 => max 4150 (min 4300 (Config.inputThreshold 2))
  | _ => max 4000 (min 4100 (Config.inputThreshold 3))

/-- The input `vin`, in 0.1 V, lies outside what the converter runs at. -/
def vinStops (vin : Nat) : Bool := vin < inputThreshold 1 || inputThreshold 2 < vin

/-- R17: an under-voltage or over-voltage stop acts as power removal (R356). -/
def voltageStop (s : State) (vin : Nat) : State :=
  if s.pins.vinOk && vinStops vin then
    let t := if s.power == .on || s.power == .rising then removePower s .off else s
    { t with pins := { t.pins with vinOk := false, vinHigh := decide (inputThreshold 2 < vin) } }
  else s

def execInputVoltageStop (vin : Nat) (s : State) : Out := done (voltageStop s vin)

/-- The input has reached the threshold at which a stopped converter starts: the start threshold, and after an
over-voltage the restart threshold from above (R17). -/
def vinStarts (s : State) (vin : Nat) : Bool :=
  inputThreshold 0 ≤ vin && vin ≤ inputThreshold (if s.pins.vinHigh then 3 else 2)

/-- The converter starts when it may: PWR_EN asserted, input in range, not held off (R355). -/
def startConverter (s : State) : State :=
  if s.pins.pwrEn && s.pins.vinOk && s.power == .off then { s with power := .rising } else s

def voltageRestart (s : State) (vin : Nat) : State :=
  if !s.pins.vinOk && vinStarts s vin then
    startConverter { s with pins := { s.pins with vinOk := true, vinHigh := false } }
  else s

def execInputVoltageRestart (vin : Nat) (s : State) : Out := done (voltageRestart s vin)

end Sys2Proof.Machine
end

