-- ==== Sys2Proof/Machine/Thermal.lean ====
section
/-! DEFINITION. Temperature sensors, governing temperatures, the thermal loop, the allowance, the coolant
and the hardware trip (R271 to R286, R353). Temperatures are in units of 0.125 °C. Dies are numbered as
THM_THETA numbers them: 0 the compute die, 1 to 9 M0 to M8, 10 the soundboard. -/

namespace Sys2Proof.Machine

/-! ## Sensors (R271, R272) -/

/-- A plausible reading of a die sensor: −20 to 150 °C. -/
def diePlausible (t : Int) : Bool := decide (-160 ≤ t) && decide (t ≤ 1200)

/-- A plausible reading of a tray sensor, in 1/256 °C: 0 to 80 °C. -/
def trayPlausible (r : Int) : Bool := decide (0 ≤ r) && decide (r ≤ 20480)

/-- A temperature as a 12-bit field holds it (log entry 38: it saturates). -/
def temp12 (t : Int) : Nat := signedBits 12 (max (-2048) (min 2047 t))

/-- A site that is not a heat source: its cell is DARK, or its region is power-gated (R272). -/
def siteCold (s : State) (site : Nat) : Bool :=
  getF s (F.PDM_CELL_STATE site) == 2 || scopeState s (regionOf site) == 4

/-- A sensor whose site is not a heat source. -/
def sensorIgnored (s : State) (i : Nat) : Bool := decide (i < 144) && siteCold s (i / 2)

/-- A sample of a die sensor (R271). -/
def sampleSensor (s : State) (r : Reading) : State :=
  let i := r.index
  let s := setF s (F.THM_SENSOR_TEMP i) (temp12 r.temp)
  if sensorIgnored s i then s
  else if diePlausible r.temp then
    if (slook s.therm.excluded i).isSome then s else setB s (F.THM_SENSOR_VALID i) true
  else
    let new := (slook s.therm.excluded i).isNone
    let s := setB { s with therm := { s.therm with excluded := sins s.therm.excluded i s.time } } (F.THM_SENSOR_VALID i) false
    if new then raiseEv s 0x2002 sevWarn none 0x21 i 0 (tempBits r.temp) else s

/-- An excluded sensor has read plausibly for 100 ms. -/
def sensorReadmit (s : State) (i : Nat) (temp : Int) : State :=
  match slook s.therm.excluded i with
  | some t =>
    if diePlausible temp && decide (t + 100000000 ≤ s.time) then
      setB (setF { s with therm := { s.therm with excluded := sdel s.therm.excluded i } }
        (F.THM_SENSOR_TEMP i) (temp12 temp)) (F.THM_SENSOR_VALID i) true
    else s
  | none => s

def execSensorReadmit (i : Nat) (temp : Int) (s : State) : Out :=
  onUnit (sensorOk i) (live s (fun s => sensorReadmit s i temp))

/-- The valid reading of a sensor. -/
def reading (s : State) (i : Nat) : Option Int :=
  if getB s (F.THM_SENSOR_VALID i) && !sensorIgnored s i then some (getI s (F.THM_SENSOR_TEMP i)) else none

/-- The highest of the valid readings. -/
def hottest (s : State) (l : List Nat) : Option Int := (l.filterMap (reading s)).max?

/-- The hot spot of a site by its own sensors. -/
def ownSpot (s : State) (site : Nat) : Option Int := hottest s [2 * site, 2 * site + 1]

/-- The hottest hot spot of a region by sensors. -/
def regionSpot (s : State) (k : Nat) : Option Int := ((regionSites k).filterMap (ownSpot s)).max?

/-- Both readings of a site that is a heat source are excluded. -/
def spotLost (s : State) (site : Nat) : Bool :=
  !siteCold s site && (slook s.therm.excluded (2 * site)).isSome && (slook s.therm.excluded (2 * site + 1)).isSome

/-- R272: the temperature of a hot spot. -/
def hotSpot (s : State) (site : Nat) : Option Int :=
  if spotLost s site then (regionSpot s (regionOf site)).map (· + 40) else ownSpot s site

/-- The hottest hot spot of a region. -/
def regionTemp (s : State) (k : Nat) : Option Int := ((regionSites k).filterMap (hotSpot s)).max?

/-- The NoC sensors of a half (*Table: Temperature sensors of the stack*). -/
def nocSensors (half : Nat) : List Nat := (List.range 12).map (fun j => 144 + 12 * half + j)

def sensorDisagree (s : State) (site durMs : Nat) : State :=
  match reading s (2 * site), reading s (2 * site + 1) with
  | some a, some b =>
    if decide (100 < durMs) && decide (40 < (a - b).natAbs) && !s.therm.disagree.contains site then
      let s := incF { s with therm := { s.therm with disagree := s.therm.disagree ++ [site] } } F.THM_DISAGREE_CNT
      raiseEv s 0x2003 sevWarn none 1 site 0 (tempBits a + tempBits b * 2 ^ 32)
    else s
  | _, _ => s

def execSensorDisagree (site durMs : Nat) (s : State) : Out :=
  onUnit (siteOk site) (live s (fun s => sensorDisagree s site durMs))

/-- A site whose readings agree again may disagree anew. -/
def stillDiffer (s : State) (site : Nat) : Bool :=
  match reading s (2 * site), reading s (2 * site + 1) with
  | some a, some b => decide (40 < (a - b).natAbs)
  | _, _ => false

/-! ## Coolant and the tray (R275, R276, R353) -/

/-- The inlet temperature, 45 °C when it is lost. -/
def inletTemp (s : State) : Int := if getB s F.THM_STATUS_INLET_LOST then 360 else getI s F.THM_COOLANT_INLET

/-- SENSOR_SUSPECT (R272, R275, R278). -/
def suspectReason (s : State) : State :=
  fretFixed (setReason s 8 (getF s F.THM_SUSPECT_LAYERS != 0 || s.therm.borrowed || getB s F.THM_STATUS_INLET_LOST))

/-- A tray sensor has given no plausible reading for 100 ms. -/
def traySensor (s : State) (outlet : Bool) (durMs : Nat) : State :=
  let f := if outlet then F.THM_STATUS_OUTLET_LOST else F.THM_STATUS_INLET_LOST
  if durMs < 100 || getB s f then s
  else
    let s := { s with therm := { s.therm with trayBack := sins s.therm.trayBack outlet.toNat none } }
    raiseEv (suspectReason (setB s f true)) 0x2004 sevWarn none 0 0 0 outlet.toNat

def execTraySensor (outlet : Bool) (durMs : Nat) (s : State) : Out :=
  done (live s (fun s => traySensor s outlet durMs))

/-- The last inlet reading that counted, in 1/256 °C. -/
def inletRaw (s : State) : Int := 32 * getI s F.THM_COOLANT_INLET + (s.therm.inletFrac : Int)

/-- The inlet reads above 45 °C or below 15 °C. -/
def inletOut (s : State) : Bool :=
  !getB s F.THM_STATUS_INLET_LOST && (decide (11520 < inletRaw s) || decide (inletRaw s < 3840))

def inletOutOfRange (s : State) (durMs : Nat) : State :=
  if inletOut s && decide (1000 ≤ durMs) && !s.therm.inletOut then
    raiseEv { s with therm := { s.therm with inletOut := true } } 0x2004 sevWarn none 0 0 0 2
  else s

def execInletOutOfRange (durMs : Nat) (s : State) : Out := done (live s (fun s => inletOutOfRange s durMs))

/-- What a tray sensor's two bytes say, in 1/256 °C (MGT_TRAY_CFG.FMT). -/
def trayRaw (fmt : Nat) (v : BitVec 16) : Int := if fmt = 0 then v.toInt else 16 * (v.extractLsb' 3 13).toInt

/-- THM_COOLANT takes a reading that counts. -/
def trayStore (s : State) (outlet : Bool) (raw : Int) : State :=
  if outlet then setF s F.THM_COOLANT_OUTLET (temp12 (raw / 32))
  else
    setF { s with therm := { s.therm with inletFrac := (raw % 32).toNat } } F.THM_COOLANT_INLET (temp12 (raw / 32))

/-- A reading of a tray sensor, none where it gave no answer (R271): an implausible one excludes the sensor,
with an event, and a sensor excluded or lost is taken back after 100 ms of plausible readings. While it is
excluded its readings go to no decision: THM_COOLANT keeps the last that counted (log entry 101). -/
def trayRead (s : State) (outlet : Bool) (v : Option (BitVec 16)) : State :=
  let lost := if outlet then F.THM_STATUS_OUTLET_LOST else F.THM_STATUS_INLET_LOST
  let i := outlet.toNat
  let mark (s : State) (m : Sparse (Option Nat)) : State := { s with therm := { s.therm with trayBack := m } }
  let out := slook s.therm.trayBack i
  match v with
  | none => incF (if out.isSome then mark s (sins s.therm.trayBack i none) else s) F.MGT_TRAY_STATUS_NACKS
  | some v =>
    let raw := trayRaw (getF s F.MGT_TRAY_CFG_FMT) v
    if !trayPlausible raw then
      let s' := mark s (sins s.therm.trayBack i none)
      if s.therm.trayOut.contains i then s'
      else
        raiseEv { s' with therm := { s'.therm with trayOut := i :: s.therm.trayOut } } 0x2002 sevWarn none 0 0 0
          (tempBits (raw / 32))
    else
      match out with
      | none => trayStore s outlet raw
      | some none => mark s (sins s.therm.trayBack i (some s.time))
      | some (some t0) =>
        if t0 + 100000000 ≤ s.time then
          let s := setB (mark s (sdel s.therm.trayBack i)) lost false
          trayStore { s with therm := { s.therm with trayOut := s.therm.trayOut.filter (· != i) } } outlet raw
        else s

/-- Both tray sensors are read. -/
def traySensorRead (s : State) (inlet outlet : Option (BitVec 16)) : State :=
  let s := suspectReason (trayRead (trayRead s false inlet) true outlet)
  if inletOut s then s else { s with therm := { s.therm with inletOut := false } }

def execTraySensorRead (inlet outlet : Option (BitVec 16)) (s : State) : Out :=
  done (live s (fun s => traySensorRead s inlet outlet))

/-- FLOW_INVALID: no meter, or pulses above 5 kHz. -/
def setInvalid (s : State) : State :=
  setB s F.THM_STATUS_FLOW_INVALID (s.therm.flowK == 0 || getB s F.EVT_INPUT_FLOW_FAST)

/-- R276: an accepted pulse; the rate follows from the last two. -/
def flowPulse (s : State) : State :=
  let last := s.therm.flowLast
  let s := { s with therm := { s.therm with flowLast := some s.time } }
  match last with
  | none => s
  | some t =>
    let p := max 1 (s.time - t)
    let k := s.therm.flowK
    let s := { s with therm := { s.therm with period := p } }
    let s := setF s F.THM_FLOW_PULSE_HZ (min 65535 (1000000000 / p))
    let s := setF s F.THM_FLOW_FLOW (if k = 0 then 0 else min 65535 (60000000000000 / (k * p)))
    let fast := decide (p < 200000)
    let enter := fast && !getB s F.EVT_INPUT_FLOW_FAST
    let s := setInvalid (setB s F.EVT_INPUT_FLOW_FAST fast)
    if enter then raiseEv s 0x2008 sevWarn none 0 0 0 (1000000000 / p) else s

def execFlowPulse (s : State) : Out := done (live s flowPulse)

/-- No pulse has come for twice the last period. -/
def flowZero (s : State) : State :=
  match s.therm.flowLast with
  | none => s
  | some t =>
    if t + 2 * s.therm.period ≤ s.time then
      setInvalid (setB (setF (setF s F.THM_FLOW_FLOW 0) F.THM_FLOW_PULSE_HZ 0) F.EVT_INPUT_FLOW_FAST false)
    else s

def execFlowZero (s : State) : Out := done (live s flowZero)

/-! ## Governing temperatures (R277, R278) -/

/-- The sensors of a physical layer. -/
def layerSensors (p : Nat) : List Nat := (List.range 16).map (fun j => 168 + 16 * p + j)

/-- The hottest valid sensor of a die. -/
def dieSensor (s : State) (d : Nat) : Option Int :=
  if d = 0 then hottest s (List.range 168)
  else if d ≤ 9 then hottest s (layerSensors (d - 1))
  else hottest s ((List.range 12).map (fun j => 312 + j))

/-- The dies below and above a physical layer. -/
def dieBelow (p : Nat) : Nat := if p = 0 then 10 else p
def dieAbove (p : Nat) : Nat := if p = 8 then 0 else p + 2

/-- M_p (R277); a neighbour without a valid sensor is taken as the other, or as the inlet (log entry 38). -/
def layerModel (s : State) (p : Nat) : Int :=
  let b := dieSensor s (dieBelow p)
  let a := dieSensor s (dieAbove p)
  let nb := (b.orElse (fun _ => a)).getD (inletTemp s)
  let na := (a.orElse (fun _ => b)).getD (inletTemp s)
  ((nb + na) * 625 + (s.therm.modelRl : Int) * (getF s (F.FRET_LAYER_PWR_PWR p) : Int)) / 1250

/-- The governing temperature of a physical layer. -/
def layerGovern (s : State) (p : Nat) : Int :=
  let m := layerModel s p
  match dieSensor s (p + 1) with
  | none => m + 24
  | some t => if getB s (F.THM_LAYER_SUSPECT p) then m + 24 else max t m

/-- The governing temperature of a die. -/
def dieGovern (s : State) (d : Nat) : Option Int :=
  if d = 0 then
    (((List.range 8).filterMap (regionTemp s)) ++ ((nocSensors 0 ++ nocSensors 1).filterMap (reading s))).max?
  else if d ≤ 9 then some (layerGovern s (d - 1))
  else dieSensor s 10

/-- The temperature limit of a die (*Table: Temperature limits and actions*). -/
def dieLimit (d : Nat) : Int := if d = 10 then 840 else 760

/-- The share of a layer before its limits (R264, R278). -/
def baseShare (s : State) (p : Nat) : Nat :=
  let w := getF s F.FRET_BUDGET_LAYER_W
  if getB s (F.THM_LAYER_SUSPECT p) then w / 2 else w

/-- The share that the temperature limits leave a layer (R279). -/
def limitShare (s : State) (p : Nat) : Nat :=
  match slook s.capo.shareCap p with | some c => min c (baseShare s p) | none => baseShare s p

/-- The share in force: what the limits leave, less what the forecast took (R283). -/
def layerShare (s : State) (p : Nat) : Nat := limitShare s p - sget 0 s.capo.foreShare p

/-- THM_LAYER of a physical layer. -/
def setLayer (s : State) (p : Nat) : State :=
  let g := layerGovern s p
  let s := match dieSensor s (p + 1) with
    | some t => setB (setF s (F.THM_LAYER_SENSE p) (temp12 t)) (F.THM_LAYER_NO_SENSOR p) false
    | none => setB s (F.THM_LAYER_NO_SENSOR p) true
  let s := setF (setF s (F.THM_LAYER_MODEL p) (temp12 (layerModel s p))) (F.THM_LAYER_GOVERN p) (temp12 g)
  let s := setB s (F.THM_LAYER_HOT p) (decide (8 * (getF s F.THM_HOT_SET_C : Int) ≤ g))
  if 680 ≤ g then setB s (F.THM_LAYER_REFRESH_2X p) true
  else if g < 656 then setB s (F.THM_LAYER_REFRESH_2X p) false else s

def setShare (s : State) (p : Nat) : State := setF s (F.THM_LAYER_SHARE_W p) (layerShare s p)

def layerSuspect (s : State) (p durMs : Nat) : State :=
  match dieSensor s (p + 1) with
  | none => s
  | some t =>
    let m := layerModel s p
    if decide (10 ≤ durMs) && decide (t + 48 < m) && !getB s (F.THM_LAYER_SUSPECT p) then
      let s := setBit (setB s (F.THM_LAYER_SUSPECT p) true) F.THM_SUSPECT_LAYERS p true
      raiseEv (suspectReason (setShare s p)) 0x2005 sevWarn none 4 0 0 (tempBits t + tempBits m * 2 ^ 32)
    else s

def execLayerSuspect (p durMs : Nat) (s : State) : Out := onUnit (layerOk p) (live s (fun s => layerSuspect s p durMs))

/-- The suspect marks of a set of layers clear. -/
def clearSuspect (s : State) (l : List Nat) : State :=
  suspectReason (forEach l s (fun s p =>
    setShare (setBit (setB s (F.THM_LAYER_SUSPECT p) false) F.THM_SUSPECT_LAYERS p false) p))

def suspectClear (s : State) (p durMs : Nat) : State :=
  match dieSensor s (p + 1) with
  | none => s
  | some t =>
    if decide (10000 ≤ durMs) && decide ((t - layerModel s p).natAbs ≤ 16) && getB s (F.THM_LAYER_SUSPECT p) then
      clearSuspect s [p]
    else s

def execSuspectClear (p durMs : Nat) (s : State) : Out := onUnit (layerOk p) (live s (fun s => suspectClear s p durMs))

/-- A write of THM_SUSPECT: the marks clear at the next loop period (R278, R286). -/
def thmSuspectWrite (s : State) (v : Nat) : State :=
  let l := (List.range 9).filter (fun p => v.testBit p || s.therm.unsuspect.contains p)
  { s with therm := { s.therm with unsuspect := l } }

/-- A loop period takes what was written since the last (R286). -/
def takeThm (s : State) : State :=
  let s := clearSuspect s s.therm.unsuspect
  { s with therm := { s.therm with margin := getF s F.THM_CFG_MARGIN_W, reducedW := getF s F.THM_FLOW_CFG_REDUCED_W,
                                   flowK := getF s F.THM_FLOW_CFG_K, flowNom := getF s F.THM_FLOW_CFG_NOM,
                                   modelRl := getF s F.THM_MODEL_CFG_RL, unsuspect := [] } }

def execThmSuspectWrite (v : BitVec 32) (s : State) : Out := done (inService s (fun s => thmSuspectWrite s v.toNat))

/-! ## The allowance (R281, R282) -/

/-- (T_lim − T_in) ÷ θ of a die, W. -/
def dieAllow (s : State) (d : Nat) : Option Nat :=
  let th := getF s (F.THM_THETA_THETA d)
  if th = 0 then none else some (((dieLimit d - inletTemp s) * 125000 / (th : Int)).toNat)

/-- The die that allows least, and what it allows. -/
def leastAllow (s : State) : Option (Nat × Nat) :=
  (List.range 11).foldl (fun b d =>
    match dieAllow s d, b with
    | none, b => b
    | some w, none => some (d, w)
    | some w, some x => if w < x.2 then some (d, w) else some x) none

/-- P_th (R282). -/
def allowance (s : State) : State :=
  match leastAllow s with
  | none => s
  | some (d, w) =>
    let w := w - s.therm.margin - s.capo.thermalCut
    let w := if flowState s = 1 then min w s.therm.reducedW else w
    let w := min 8191 (max 900 w)
    applyLimit { setF (setF s F.THM_ALLOW_ALLOW_W w) F.THM_ALLOW_DIE d with
                   therm := { s.therm with pth := w } }

/-- R281: one estimate at the end of a steady interval of mean input power `mean`. -/
def learnTheta (s : State) (mean d : Nat) : State :=
  match dieGovern s d with
  | none => s
  | some t =>
    let old := (getF s (F.THM_THETA_THETA d) : Int)
    let img := sget 0 s.therm.thetaImg d
    let raw := old + ((t - inletTemp s) * 125000 / (mean : Int) - old) / 8
    let new := (max ((img + 1) / 2 : Int) (min (4 * img : Int) raw)).toNat
    let clamp := decide ((new : Int) ≠ raw)
    let s := setF s (F.THM_THETA_THETA d) (min new (2 ^ 20 - 1))
    let s := setB (setB s (F.THM_THETA_LEARNT d) true) (F.THM_THETA_CLAMPED d) clamp
    if clamp then raiseEv s 0x2006 sevWarn none 0 0 0 new else s

/-- R281: every 1 ms average lies within ±3 % of the mean of all 50, and the inlet moves less than 0.2 °C. -/
def steady (l : List PowerMs) : Bool :=
  let sum := (l.map (·.pwr)).sum
  let near (x : PowerMs) : Bool := decide (97 * sum ≤ 5000 * x.pwr) && decide (5000 * x.pwr ≤ 103 * sum)
  let still (x y : PowerMs) : Bool := decide ((x.inlet - y.inlet).natAbs < 2)
  l.length == 50 && l.all (fun x => near x && l.all (still x))

/-- The end of a 50 ms interval: an estimate of every die if the interval was steady and no action of R279
nor the flow-loss state was in force during it. -/
def thetaUpdate (s : State) (l : List PowerMs) (mean : Nat) : State :=
  let t :=
    if steady l && decide (0 < mean) && mean == (l.map (·.pwr)).sum / 50 && !s.therm.disturbed
        && !getB s F.THM_STATUS_AT_LIMIT && flowState s != 2 then
      forEach (List.range 11) s (fun s d => learnTheta s mean d)
    else s
  { t with therm := { t.therm with disturbed := getB t F.THM_STATUS_AT_LIMIT || flowState t == 2 } }

def execThetaUpdate (l : List PowerMs) (mean : Nat) (s : State) : Out :=
  done (inService s (fun s => thetaUpdate s l mean))

/-! ## The thermal loop (R279, R280, R283) -/

/-- A die is at or above its limit. -/
def atLimit (s : State) (d : Nat) : Bool :=
  match dieGovern s d with | some t => decide (dieLimit d ≤ t) | none => false

/-- A die has fallen 2 °C below its limit. -/
def coolAgain (s : State) (d : Nat) : Bool :=
  match dieGovern s d with | some t => decide (t ≤ dieLimit d - 16) | none => true

/-- A region is at the limit by its hot spots, or by a NoC sensor of its half. -/
def regionHot (s : State) (k : Nat) : Bool :=
  let past (t : Option Int) : Bool := match t with | some t => decide (760 ≤ t) | none => false
  past (regionTemp s k) || past (hottest s (nocSensors (halfOf k)))

/-- The cut of the allowance one period later: it grows while the allowance is above 900 W. -/
def nextCut (s : State) : Nat :=
  let w := match leastAllow s with | some x => x.2 | none => 0
  min (s.capo.thermalCut + 100) (max s.capo.thermalCut (w - s.therm.margin - 900))

/-- A layer at its limit keeps 10 W of its share, or what the forecast has left it. -/
def capShare (s : State) (p : Nat) : State :=
  let c := 10 + sget 0 s.capo.foreShare p
  { s with capo := { s.capo with shareCap := sins s.capo.shareCap p (min c ((slook s.capo.shareCap p).getD c)) } }

/-- The actions of R279. -/
def limitActions (s : State) : State :=
  let hot := (List.range 11).filter (atLimit s)
  let cuts := (List.range 8).filter (regionHot s)
  let s := forEach cuts s (fun s k => cutRegion s k 4)
  let s := forEach ((List.range 9).filter (fun p => hot.contains (p + 1))) s capShare
  let s := setReason { s with capo := { s.capo with stepCut := !cuts.isEmpty, hotDies := (s.capo.hotDies ++ hot).eraseDups } }
    2 (!hot.isEmpty)
  if hot.isEmpty then s else { s with capo := { s.capo with thermalCut := nextCut s } }

/-- A region gets a step back: of the limit's actions, else of the forecast where that has stopped acting. -/
def giveStep (s : State) (fore : Bool) (k : Nat) : State :=
  let cut := sget 0 s.capo.regionCut k
  let n := sget 0 s.capo.foreCut k
  if cut = 0 ∧ (n = 0 ∨ fore = true) then s
  else
    let s := if cut = 0 then { s with capo := { s.capo with foreCut := sput 0 s.capo.foreCut k (n - 1) } }
      else { s with capo := { s.capo with regionCut := sput 0 s.capo.regionCut k (cut - 1) } }
    if getB s F.CLK_FIXED_ACTIVE || s.capo.powerLow.contains k then s else requestStep s k (targetStep s k + 1)

/-- A layer gets 5 W of share back, in the same order. -/
def giveShare (s : State) (fore : Bool) (p : Nat) : State :=
  match slook s.capo.shareCap p with
  | some c =>
    let m := if baseShare s p ≤ c + 5 then sdel s.capo.shareCap p else sins s.capo.shareCap p (c + 5)
    { s with capo := { s.capo with shareCap := m } }
  | none =>
    if fore then s
    else { s with capo := { s.capo with foreShare := sput 0 s.capo.foreShare p (sget 0 s.capo.foreShare p - 5) } }

/-- What the actions took is restored each ms once the die has fallen 2 °C below its limit, the allowance once every
die that was at its limit has; `fore` are the dies that the forecast acts on now. -/
def restore (s : State) (fore : List Nat) : State :=
  let s := { s with capo := { s.capo with hotDies := s.capo.hotDies.filter (fun d => !coolAgain s d) } }
  let cooled (d : Nat) : Bool := !s.capo.hotDies.contains d
  let s := if cooled 0 then forEach (List.range 8) s (fun s k => giveStep s (fore.contains 0) k) else s
  let s := forEach ((List.range 9).filter (fun p => cooled (p + 1))) s (fun s p => giveShare s (fore.contains (p + 1)) p)
  if s.capo.hotDies.isEmpty then { s with capo := { s.capo with thermalCut := s.capo.thermalCut - 100 } } else s

/-- The declared power above the measured one (R283). -/
def foreseen (s : State) : Nat := getF s F.CAPO_STATE_PLAN_W + s.capo.pIdle - getF s F.CAPO_INPUT_PWR_W

/-- A die below its limit is projected to reach it. -/
def foreReach (s : State) (d : Nat) : Bool :=
  match dieGovern s d with
  | some t => !atLimit s d && decide (dieLimit d * 12500000 ≤
      t * 12500000 + ((getF s (F.THM_THETA_THETA d) * foreseen s * getF s F.THM_CFG_FRAC_PCT : Nat) : Int))
  | none => false

/-- The hottest region. -/
def hottestRegion (s : State) : Option Nat :=
  ((List.range 8).foldl (fun (b : Option (Nat × Int)) k =>
    match regionTemp s k, b with
    | none, b => b
    | some t, none => some (k, t)
    | some t, some x => if x.2 < t then some (k, t) else some x) none).map (·.1)

/-- The forecast acts on a die: the soundboard has no action, and fixed clocks keep their steps (R269). -/
def foreActs (s : State) (d : Nat) : Bool := foreReach s d && (if d = 0 then !getB s F.CLK_FIXED_ACTIVE else d != 10)

/-- The action of the forecast on a die. -/
def foreAct (s : State) (d : Nat) : State :=
  if d = 0 then
    match hottestRegion s with
    | none => s
    | some k => match deferStep s k true with
      | some t => t
      | none => foreRegion s k
  else
    let p := d - 1
    { s with capo := { s.capo with foreShare := sput 0 s.capo.foreShare p (min (sget 0 s.capo.foreShare p + 5) (limitShare s p)) } }

/-- MMU_LAYER_HOT (R280). -/
def hotBits (s : State) : State :=
  let map := [F.MEM_LAYER_MAP_L0, F.MEM_LAYER_MAP_L1, F.MEM_LAYER_MAP_L2, F.MEM_LAYER_MAP_L3,
    F.MEM_LAYER_MAP_L4, F.MEM_LAYER_MAP_L5, F.MEM_LAYER_MAP_L6, F.MEM_LAYER_MAP_L7]
  forEach map.zipIdx s (fun s m =>
    let g := layerGovern s (getF s m.1)
    if 8 * (getF s F.THM_HOT_SET_C : Int) ≤ g then setBit s F.MMU_LAYER_HOT m.2 true
    else if g < 8 * (getF s F.THM_HOT_CLR_C : Int) then setBit s F.MMU_LAYER_HOT m.2 false else s)

/-- An action of R279 is in force. -/
def inForce (s : State) : Bool :=
  reason s 2 || s.capo.thermalCut != 0 || !s.capo.regionCut.isEmpty || !s.capo.shareCap.isEmpty

/-- The samples of one period and what follows from them alone. -/
def takeSamples (s : State) (l : List Reading) : State :=
  let s := forEach l s sampleSensor
  let s := forEach (List.range 144) s (fun s i => setB s (F.THM_SENSOR_IGNORED i) (sensorIgnored s i))
  let d := s.therm.disagree.filter (stillDiffer s)
  let b := (List.range 72).any (spotLost s)
  suspectReason (setInvalid { s with therm := { s.therm with disagree := d, borrowed := b } })

/-- One period of the thermal loop. -/
def thermalLoop (s : State) (l : List Reading) : State :=
  let s := forEach (List.range 9) (takeSamples (takeThm s) l) setLayer
  let s := limitActions s
  let fore := (List.range 11).filter (foreActs s)
  let s := setReason (forEach fore s foreAct) 3 (!fore.isEmpty)
  let s := fretFixed (forEach (List.range 9) (restore s fore) setShare)
  let busy := inForce s
  let s := { s with therm := { s.therm with disturbed := s.therm.disturbed || busy || flowState s == 2 } }
  allowance (hotBits (setB s F.THM_STATUS_AT_LIMIT busy))

def execThermalLoop (readings : List Reading) (s : State) : Out :=
  onUnit (readings.all (fun r => sensorOk r.index)) (inService s (fun s => thermalLoop s readings))

/-! ## Flow states (R284, *Table: Flow states*) -/

/-- The flow state changes: its event, and P_th and P_lim. -/
def setFlow (s : State) (n : Nat) : State :=
  let old := flowState s
  let s := setF s F.THM_STATUS_FLOW_STATE n
  let s := raiseEv s 0x2007 (if n = 2 then sevError else sevWarn) none 0 0 0 (old + n * 2 ^ 32)
  applyLimit (allowance { s with therm := { s.therm with disturbed := s.therm.disturbed || n == 2 } })

def flowInvalid (s : State) : Bool := getB s F.THM_STATUS_FLOW_INVALID || s.therm.flowK == 0

/-- Flow in units of 0.001 L/min. -/
def flowNow (s : State) : Nat := getF s F.THM_FLOW_FLOW

def flowReducedEntry (s : State) (durMs : Nat) : State :=
  if flowState s = 0 && (flowInvalid s || (decide (flowNow s < 3000) && decide (1000 ≤ durMs))) then setFlow s 1 else s

def execFlowReducedEntry (durMs : Nat) (s : State) : Out := done (inService s (fun s => flowReducedEntry s durMs))

def flowReducedExit (s : State) (durMs : Nat) : State :=
  if flowState s = 1 && !flowInvalid s && decide (3200 ≤ flowNow s) && decide (1000 ≤ durMs) then setFlow s 0 else s

def execFlowReducedExit (durMs : Nat) (s : State) : Out := done (inService s (fun s => flowReducedExit s durMs))

/-- Flow loss: `rise` is the rate of the outlet over 250 ms, in units of 0.125 °C per second. -/
def flowLossEntry (s : State) (rise : Int) : State :=
  let low := s.therm.flowK != 0 && decide (flowNow s < 20 * s.therm.flowNom)
  let hot := !getB s F.THM_STATUS_OUTLET_LOST && decide (16 < rise)
  if flowState s != 2 && (low || hot) then setFlow s 2 else s

def execFlowLossEntry (rise : Int) (s : State) : Out := done (inService s (fun s => flowLossEntry s rise))

def flowLossExit (s : State) (rise : Int) (durMs : Nat) : State :=
  let back := s.therm.flowK == 0 || decide (30 * s.therm.flowNom ≤ flowNow s)
  let slow := getB s F.THM_STATUS_OUTLET_LOST || decide (rise < 4)
  if flowState s = 2 && back && slow && decide (1000 ≤ durMs) then setFlow s 1 else s

def execFlowLossExit (rise : Int) (durMs : Nat) (s : State) : Out :=
  done (inService s (fun s => flowLossExit s rise durMs))

/-! ## Hardware trip (R285) -/

/-- Every command in flight is lost, and VSTK and VMEM are off: what the stack holds is lost. -/
def loseStack (s : State) : State :=
  { s with open_ := [], queues := [], attends := [], upds := [], colls := [], loads := [], bells := [],
           cores := [], clusters := [], units := [], seqs := [], nodes := [], pages := [], tlb := [],
           mem := [], memEpoch := s.memEpoch + 1, noc := [], nocHeld := [], recvs := [] }

/-- The hardware trip of a die, 110 °C or more for 10 µs. -/
def thermtrip (s : State) (sensor : Nat) (temp : Int) (durNs : Nat) : State :=
  if decide (880 ≤ temp) && decide (10000 ≤ durNs) && !s.pins.thermtrip then
    let s := loseStack { s with pins := { s.pins with thermtrip := true } }
    let s := setF (setF s (F.PDM_RAIL_MV 0) 0) (F.PDM_RAIL_MV 1) 0
    let s := setF (setF s (F.PDM_RAIL_AMPS 0) 0) (F.PDM_RAIL_AMPS 1) 0
    alert (enterHalted s 4 sensor) 3
  else s

def execThermtrip (die sensor : Nat) (temp : Int) (durNs : Nat) (s : State) : Out :=
  onUnit (dieSensorOk die sensor) (powered s (fun s => thermtrip s sensor temp durNs))

end Sys2Proof.Machine
end

