-- ==== Sys2Proof/Machine/RegRules.lean ====
section
/-! DEFINITION. What the rules of a register's own block add to a write: values outside a stated range
(R113, R136, R259, R270, R286, R321, R344), and registers whose write acts. -/

namespace Sys2Proof.Machine

/-- A field, its least and its greatest value. -/
abbrev RangeRule := Fld × Nat × (State → Nat)

/-- The ranges of the fields of a register, by its offset and instance; a value outside one is treated
as the field's reset value. -/
def rangesOf (off delta : Nat) : List RangeRule :=
  let upTo (n : Nat) : State → Nat := fun _ => n
  match off with
  | 0x210080 => [((F.MMU_PART_KV_PAGE_LOG2 0).shift delta, 14, upTo 22)]
  | 0x21001C => [(F.MMU_TREE_CFG_LOG2, 10, upTo 22)]
  | 0x50060 => [(F.CLK_SLEEP_CTRL_REGION_MAX, 0, upTo 4), (F.CLK_SLEEP_CTRL_MEM_MAX, 0, upTo 2)]
  | 0x900008 => [(F.DBG_TRACE_CFG_LOG2SZ, 22, upTo 30), (F.DBG_TRACE_CFG_MODE, 0, upTo 2),
      (F.DBG_TRACE_CFG_PRE_16, 0, upTo 16)]
  | 0x900028 => [(F.DBG_TRIG_CFG_REASON, 0, upTo 10)]
  | 0x400000 => [(F.FRET_BUDGET_TOTAL_W, 100, upTo 900), (F.FRET_BUDGET_LAYER_W, 10, upTo 120)]
  | 0x400004 => [(F.FRET_MODE_FIXED_TBPS, 8, upTo 200)]
  | 0x20000 => [(F.CAPO_LIMIT_LIMIT_W, 900, upTo 3300), (F.CAPO_LIMIT_EXT_W, 900, upTo 3300)]
  | 0x20004 => [(F.CAPO_CTRL_MEM_PCT, 5, upTo 40), (F.CAPO_CTRL_DEFER_MAX_US, 1, upTo 50)]
  | 0x20014 => [(F.CAPO_EXPRESS_RSV_W, 0, upTo 1000)]
  | 0x40A00 => [(F.PDM_DROOP_CFG_TRIP_MV, 20, upTo 100),
      (F.PDM_DROOP_CFG_REL_MV, 5, fun s => getF s F.PDM_DROOP_CFG_TRIP_MV - 5)]
  | 0x30000 => [(F.THM_CFG_MARGIN_W, 0, upTo 500), (F.THM_CFG_FRAC_PCT, 5, upTo 100)]
  | 0x30014 => [(F.THM_FLOW_CFG_REDUCED_W, 900, upTo 3300)]
  | 0x30018 => [(F.THM_HOT_SET_C, 60, upTo 95), (F.THM_HOT_CLR_C, 55, fun s => getF s F.THM_HOT_SET_C - 2)]
  | _ => []

/-- Apply one range; whether the value lay outside it. -/
def applyRange (acc : State × Bool) (r : RangeRule) : State × Bool :=
  let v := getF acc.1 r.1
  if v < r.2.1 || r.2.2 acc.1 < v then (setF acc.1 r.1 r.1.reset, true) else acc

/-- Apply the ranges of a register after a write; a value outside one raises RANGE, which names the
register. -/
def applyRanges (s : State) (off delta raw : Nat) : State :=
  let r := (rangesOf off delta).foldl applyRange (s, false)
  if r.2 then raiseCfg r.1 0x6002 (off + delta) raw else r.1

/-- A write of a whole register by its access codes and the rule of its block. -/
def blockWrite (s : State) (d : RegDesc) (delta raw : Nat) (locked : Bool) : State :=
  match d.off with
  | 0x700008 => epochCtrlWrite s raw
  | 0x50030 => clkFixedWrite s raw
  | 0x3001C => thmSuspectWrite s raw
  | 0x40A04 => vminClrWrite s raw
  | 0x50000 => capSteps (writeFlds s d delta raw locked)
  | off => applyRanges (writeFlds s d delta raw locked) off delta raw

end Sys2Proof.Machine
end

