-- ==== Sys2Proof/Machine/Image.lean ====
section
/-! DEFINITION. The Idwibo image in the flash: the header, areas, segments and their checks (R287 to
R291), write lists and defect entries, and what applying a segment does. -/

namespace Sys2Proof.Machine

/-- A byte of the flash; a byte that nothing has written reads as erased (log entry 4). -/
def flashByte (s : State) (a : Nat) : Byte := (slook s.flash a).getD 0xFF#8

def flashBytes (s : State) (a n : Nat) : List Byte := (List.range n).map (fun i => flashByte s (a + i))

/-- A number of `n` bytes in the flash. -/
def flashNat (s : State) (a n : Nat) : Nat := natOf (flashBytes s a n)

/-! ## Header and segments -/

/-- The image header passes: MAGIC, FORMAT and HDR_CRC. -/
def headerOk (s : State) : Bool :=
  flashNat s 0 4 == 0x4F574449 && flashNat s 4 2 == 1 &&
    flashNat s 8 4 == crc32 (flashBytes s 0 8 ++ flashBytes s 12 52)

/-- The preferred slot: 0 when the header fails (R290). -/
def preferredSlot (s : State) : Nat := if headerOk s then flashNat s 6 1 % 2 else 0

/-- A segment: its type, partition and generation, the flash address of its payload, and its length. -/
structure Seg where
  ty : Nat
  part : Nat
  gen : Nat
  base : Nat
  len : Nat
  deriving DecidableEq, Repr

/-- The areas of the flash (*Table: Flash layout*): base and size. -/
def slotArea (slot : Nat) : Nat × Nat := if slot = 0 then (0x100000, 0x1000000) else (0x1100000, 0x1000000)
def trainArea : Nat × Nat := (0x2100000, 0x1000000)
def defectArea : Nat × Nat := (0x3100000, 0x100000)

/-- The segment at a position of an area, when it passes its checks (R288). -/
def segAt (s : State) (area : Nat × Nat) (pos : Nat) : Option Seg :=
  let a := area.1 + pos
  let ty := flashNat s (a + 4) 2
  let len := flashNat s (a + 8) 4
  let part := flashNat s (a + 12) 1
  if area.2 < pos + 32 + len then none
  else if flashNat s a 4 == 0x53474553 && flashNat s (a + 6) 2 == 1 &&
      flashNat s (a + 28) 4 == crc32 (flashBytes s a 28) &&
      flashNat s (a + 20) 4 == crc32 (flashBytes s (a + 32) len) &&
      (if ty = 3 then decide (part < 16) else part == 0) && flashNat s (a + 13) 3 == 0 && flashNat s (a + 24) 4 == 0 then
    some { ty := ty, part := part, gen := flashNat s (a + 16) 4, base := a + 32, len := len }
  else none

/-- The chain of segments from a position up to END; none when a segment fails or none is END. -/
def chainFrom (s : State) (area : Nat × Nat) : Nat → Nat → Option (List Seg)
  | 0, _ => none
  | n + 1, pos =>
    match segAt s area pos with
    | none => none
    | some g =>
      if g.ty = 0 then (if g.len = 0 then some [g] else none)
      else (chainFrom s area n (roundUp (pos + 32 + g.len) 64)).map (g :: ·)

/-- The segments of an area. -/
def chain (s : State) (area : Nat × Nat) : Option (List Seg) := chainFrom s area (area.2 / 64) 0

/-! ## Write lists and defect entries -/

/-- The entries of a write list: offset and value. -/
def writeList (s : State) (g : Seg) : List (Nat × Nat) :=
  (List.range (g.len / 8)).map (fun i => (flashNat s (g.base + 8 * i) 4, flashNat s (g.base + 8 * i + 4) 4))

/-- The offsets that a segment type allows; the identity registers of GLB are GLB_ID and GLB_SERIAL (*Table:
Segment types*, log entry 40). -/
def offsetOk (ty part off : Nat) : Bool :=
  let within (lo hi : Nat) : Bool := decide (lo ≤ off) && decide (off < hi)
  off % 4 == 0 &&
    match ty with
    | 1 => off == 0x700000 || off < 0x4 || within 0x8 0x10
    | 2 => off == 0x10008 || off == 0x300004 || within 0x50000 0x50020 || within 0x210010 0x210020 ||
        within 0x500000 0x500008 || within 0x800000 0x800008 || off == 0x30014 || off == 0x30020
    | 3 => within 0x100000 0x101000 || off == 0x210080 + 4 * part || off == 0x80000 + 4 * part
    | 4 => within 0x20000 0x30000 || off == 0x400000 || off == 0x400004
    | 5 => within 0x30000 0x40000
    | 6 => off == 0xA00010
    | 7 => within 0x720000 0x724000 || off == 0x70000C || off == 0x700008
    | _ => false

/-- A segment whose payload is a write list. -/
def isWriteList (ty : Nat) : Bool := 1 ≤ ty && ty ≤ 7

/-- The write list of a segment is one that its type allows. -/
def listOk (s : State) (g : Seg) : Bool :=
  !isWriteList g.ty || (g.len % 8 == 0 && (writeList s g).all (fun e => offsetOk g.ty g.part e.1))

/-- The defect entries of a segment, as 64-bit numbers. -/
def defectEntries (s : State) (g : Seg) : List Nat :=
  (List.range (g.len / 8)).map (fun i => flashNat s (g.base + 8 * i) 8)

/-- Every defect entry has a defined KIND. -/
def defectsOk (s : State) (g : Seg) : Bool :=
  g.ty != 0x11 || (g.len % 8 == 0 && (defectEntries s g).all (fun e => 1 ≤ bits e 7 0 && bits e 7 0 ≤ 16))

/-- The unit that a defect entry names; a memory layer by its number. -/
def entryUnit (e : Nat) : UnitRef :=
  { kind := bits e 7 0, index := if bits e 7 0 = 4 then bits e 35 32 else bits e 31 8, sub := bits e 53 38 }

/-- The bank line that a defect entry names. -/
def entryLine (e : Nat) : Option LineRef :=
  if bits e 7 0 = 5 then
    some { player := bits e 35 32, pcol := bits e 31 8, bank := bits e 37 36, line := bits e 53 38 }
  else none

def lineEntry (r : LineRef) : Nat := 5 + r.pcol * 2 ^ 8 + r.player * 2 ^ 32 + r.bank * 2 ^ 36 + r.line * 2 ^ 38

/-! ## Areas (R288 to R291) -/

/-- SIG_REQ holds: a SIG segment stands directly before END and verifies (R289). -/
def signed (s : State) (area : Nat × Nat) (l : List Seg) : Bool :=
  match l.reverse with
  | _ :: g :: _ => g.ty == 0xF0 && sigOkFor s.fuses.keyHash.toNat (flashBytes s g.base g.len)
      (sha384 (flashBytes s area.1 (g.base - 32 - area.1)))
  | _ => false

/-- How many segments have a type. -/
def countTy (l : List Seg) (ty : Nat) : Nat := (l.filter (fun g => g.ty == ty)).length

/-- What holds of the segments of a slot. -/
def slotShape (l : List Seg) : Bool :=
  l.all (fun g => g.ty ≤ 7 || g.ty == 0xF0) && countTy l 1 == 1 && countTy l 2 == 1 &&
    [4, 5, 6, 7].all (fun t => countTy l t ≤ 1) &&
    (List.range 16).all (fun p => (l.filter (fun g => g.ty == 3 && g.part == p)).length ≤ 1)

/-- The segments of an area that passes its check. -/
def areaSegs (s : State) (area : Nat × Nat) (shape : List Seg → Bool) : Option (List Seg) :=
  match chain s area with
  | none => none
  | some l =>
    if shape l && l.all (listOk s) && l.all (defectsOk s) && (!s.fuses.signReq || signed s area l) then some l
    else none

def slotSegs (s : State) (slot : Nat) : Option (List Seg) := areaSegs s (slotArea slot) slotShape
def trainSegs (s : State) : Option (List Seg) :=
  areaSegs s trainArea (fun l => l.all (fun g => g.ty == 0 || g.ty == 0x10 || g.ty == 0xF0))
def defectSegs (s : State) : Option (List Seg) :=
  areaSegs s defectArea (fun l => l.all (fun g => g.ty == 0 || g.ty == 0x11 || g.ty == 0xF0))

/-- The segments of a type. -/
def segsOf (l : List Seg) (ty : Nat) : List Seg := l.filter (fun g => g.ty == ty)

/-- A training payload of this part: its serial number, then its snapshot revision (R291, log entry 40). -/
def trainFits (s : State) (g : Seg) : Bool :=
  12 ≤ g.len && flashNat s g.base 8 == s.fuses.serial.toNat &&
    flashNat s (g.base + 8) 4 == Config.snapshotRevision.toNat

/-- The saved settings in use: the training segment, when its area passes and fits the part. -/
def trainSeg (s : State) : Option Seg :=
  match trainSegs s with
  | some l => (segsOf l 0x10).head?.bind (fun g => if trainFits s g then some g else none)
  | none => none

/-- The saved settings of a unit are usable: its record passes its own check (R291). -/
def recordOk (s : State) (kind i : Nat) : Bool :=
  match trainSeg s with
  | some g => Config.trainRecordOk (natOf (flashBytes s g.base g.len)) kind i
  | none => true

/-- Units whose record fails its check, or whose saved settings then fail qualification, take full training
(R291). -/
def trainFallback (s : State) (fail : Bool) : State :=
  if s.luthier.trainOk && fail then setB s F.LUT_STATE_TRAIN_FALLBACK true else s

/-! ## Applying a segment -/

/-- One entry of a write list: RW-L fields and image values are writable (*The Idwibo image*). -/
def imageEntry (s : State) (e : Nat × Nat) : State :=
  match findReg e.1 with
  | none => s
  | some (d, delta) =>
    let base := d.off + delta
    let r := bring s base (regRaw s d delta) d.width (e.1 - base) 4 e.2
    match r.2 with
    | .staged => r.1
    | .whole raw =>
      match d.off with
      | 0x300004 => setF r.1 F.MEM_SPARE_PREF (bits raw 16 13)
      | 0x10008 => setF (setF r.1 F.LUT_CFG_MIN_LC (bits raw 6 0)) F.LUT_CFG_TEST_FULL (bits raw 7 7)
      | 0x700008 => setF r.1 F.LNK_EPOCH_CTRL_NEXT (bits raw 7 0)
      | 0x30040 =>
        let i := delta / 4
        let s := setF r.1 (F.THM_THETA_THETA i) (bits raw 19 0)
        let s := setB (setB s (F.THM_THETA_LEARNT i) false) (F.THM_THETA_CLAMPED i) false
        { s with therm := { s.therm with thetaImg := sput 0 s.therm.thetaImg i (bits raw 19 0) } }
      | _ => blockWrite r.1 d delta raw false

/-- GLB_IMAGE_GEN of a segment: by type, a PARTITION segment at 0x20 plus its partition. -/
def genIndex (g : Seg) : Nat := if g.ty = 3 then 0x20 + g.part else g.ty % 256

/-- Apply the entries of a segment that a predicate selects, in order. -/
def applySome (s : State) (g : Seg) (f : Nat → Bool) : State :=
  let s := forEach ((writeList s g).filter (fun e => f e.1)) s imageEntry
  setF s (F.GLB_IMAGE_GEN (genIndex g)) g.gen

def applySeg (s : State) (g : Seg) : State := applySome s g (fun _ => true)

/-- Apply every segment of a type in the chain's order. -/
def applyTy (s : State) (l : List Seg) (ty : Nat) : State := forEach (segsOf l ty) s applySeg

/-- Take the defect area: the units and lines that it names; none when it fails. -/
def takeDefects (s : State) (l : List Seg) : State :=
  let es := (segsOf l 0x11).flatMap (defectEntries s)
  { s with luthier := { s.luthier with defects := (es.filter (fun e => bits e 7 0 != 5)).map entryUnit,
                                       badLines := es.filterMap entryLine } }

end Sys2Proof.Machine
end

