-- ==== Sys2Proof/Machine/BringUp.lean ====
section
/-! DEFINITION. The luthier's stages from power-on to READY (R13, R72, R76, R92, R210, R211, R287 to R299,
R305), and the logical numbering. -/

namespace Sys2Proof.Machine

/-! ## Stages 0 to 2 -/

/-- Power application: power comes up after a start of the converter (R355), or goes away and comes back. -/
def powerOnReset (s : State) (slot : BitVec 4) : State :=
  match s.power with
  | .rising => powerUp s slot
  | .on => powerUp s slot
  | _ => s

def execPowerOnReset (slotId : BitVec 4) (s : State) : Out := done (powerOnReset s slotId)

/-- Stage 0: the fuses. -/
def fuseRead (s : State) (ok : Bool) : State :=
  let s := setF s (F.LUT_STAGE_TESTED 0) 1
  if !ok then stageHalt (setF s (F.LUT_STAGE_FAILED 0) 1) 0 (some (16, 0))
  else
    let f := s.fuses
    let s := setF (setF s F.GLB_ID f.id.toNat) F.GLB_SERIAL f.serial.toNat
    let s := setF (setF s F.GLB_STEP f.step.toNat) F.GLB_FUSE_SIGN (f.signReq.toNat + (f.keyHash != 0).toNat * 2)
    stageEnd { s with fuses := { f with read := true } } 0 false

def execFuseRead (ok : Bool) (s : State) : Out := done (atStage s 0 (fun s => fuseRead s ok))

/-- The slot that R290 chooses, and whether it is not the preferred one. -/
def chooseSlot (s : State) : Option (Nat × Bool) :=
  let p := preferredSlot s
  if (slotSegs s p).isSome then some (p, false)
  else if (slotSegs s (1 - p)).isSome then some (1 - p, true)
  else none

/-- The segments of the slot in use. -/
def imageSegs (s : State) : List Seg := (slotSegs s (getF s F.LUT_STATE_SLOT)).getD []

/-- The training and defect areas (R290, R291). -/
def readAreas (s : State) : State :=
  let use := (trainSeg s).isSome && !getB s F.LUT_CFG_FULL_TRAIN
  let s := setB (setB s F.LUT_STATE_TRAIN_USED use) F.LUT_STATE_TRAIN_NONE (!use)
  let s := { s with luthier := { s.luthier with trainOk := use } }
  match defectSegs s with
  | some l => takeDefects s l
  | none => setB s F.LUT_STATE_DEFMAP_BAD true

/-- Apply the BOARD entries that a stage takes: LUT_CFG at 1, MEM_SPARE at 4, the rest at 8
(*Table: Segment types*). -/
def applyBoard (s : State) (f : Nat → Bool) : State :=
  forEach (segsOf (imageSegs s) 2) s (fun s g => applySome s g f)

/-- Stage 1: header, areas, IDENTITY and LUT_CFG. -/
def imageCheck (s : State) : State :=
  let s := setF (setB s F.LUT_STATE_HDR_BAD (!headerOk s)) (F.LUT_STAGE_TESTED 1) 2
  match chooseSlot s with
  | none => stageHalt (setF s (F.LUT_STAGE_FAILED 1) 2) 1 (some (14, preferredSlot s))
  | some (slot, other) =>
    let s := setB (setF s F.LUT_STATE_SLOT slot) F.LUT_STATE_SLOT_FALLBACK other
    let s := readAreas (setB s F.LUT_STATE_SIGNED s.fuses.signReq)
    let s := applyBoard (applyTy s (imageSegs s) 1) (fun off => off == 0x10008)
    stageEnd s 1 (other || getB s F.LUT_STATE_HDR_BAD || getB s F.LUT_STATE_DEFMAP_BAD)

def execImageCheck (s : State) : Out := done (atStage s 1 imageCheck)

/-- Least and greatest voltage of a rail, mV (*Table: Rails*). -/
def railBand (r : Nat) : Nat × Nat :=
  match r with
  | 0 => (1746, 1854)
  | 1 => (1019, 1081)
  | 2 => (825, 875)
  | 3 => (1164, 1236)
  | 4 => (776, 824)
  | _ => (0, 65535)

/-- The first rail outside its band. -/
def badRail (rails : List Nat) : Option Nat :=
  (rails.zipIdx.find? (fun r => r.1 < (railBand r.2).1 || (railBand r.2).2 < r.1)).map (·.2)

/-- The first failing unit of a stage's report. -/
def firstUnit (l : List UnitRef) : Option (Nat × Nat) := l.head?.map (fun u => (u.kind, u.index))

/-- A unit of a kind. -/
def plainUnit (kind i : Nat) : UnitRef := { kind := kind, index := i, sub := 0 }

/-- The units of a kind that the fuses or the map name. -/
def namedOf (s : State) (kind : Nat) : List Nat :=
  ((s.fuses.bad ++ s.luthier.defects).filter (fun u => u.kind == kind)).map (·.index)

/-- The cells of a self-test that fail. -/
def failedCells (cells : List (Nat × Nat)) : List UnitRef :=
  ((List.range 76).filter (fun c => cells.any (fun p => p.1 == c))).map (plainUnit 13)

/-- The cluster cells whose self-test finds two phases or more failed: they are DARK (R256). -/
def darkCells (cells : List (Nat × Nat)) : List UnitRef :=
  ((List.range 72).filter (fun c => 2 ≤ (((cells.filter (fun p => p.1 == c)).map (·.2)).eraseDups).length)).map (plainUnit 13)

/-- Stage 2: the voltages of the rails in mV, in PDM_RAIL order, and the phases that fail, by cell. A NoC cell
that the fuses or the map name stays unused (R296). With the rails up the switches of the through slices close
(R11) and both half PLLs lock (R223). DESIGN CHOICE (log entry 84): the manual does not say at which stage. -/
def railRaise (s : State) (rails : List Nat) (cells : List (Nat × Nat)) : State :=
  let s := forEach (rails.zipIdx.filter (fun r => r.2 < 6)) s (fun s r => setF s (F.PDM_RAIL_MV r.2) (min 65535 r.1))
  let bad := failedCells cells
  let noc := bad.filter (fun u => decide (72 ≤ u.index))
  let s := stageReport (reportUnits s (darkCells cells ++ noc)) 2 76 bad.length 0 (firstUnit bad)
  let named := ((namedOf s 13).filter (fun c => 72 ≤ c && c < 76)).map (plainUnit 13)
  let gone := (noc ++ named).eraseDups
  match badRail rails, gone with
  | some r, _ => stageHalt s 2 (some (15, r))
  | none, _ :: _ :: _ => stageHalt s 2 (firstUnit gone)
  | none, _ =>
    let s := forEach (List.range 72) s (fun s c => setF s (F.PDM_CELL_SET_MV c) (vfPoint s (getF s (F.CLK_REGION_CUR_STEP (regionOf c)))))
    let s := forEach (cells.filter (fun p => p.1 < 72)) s (fun s p => phaseFail s p.1 p.2)
    let s := forEach gone s (fun s u => nocCellFail s (u.index - 72))
    let s := setB (setB { s with thruOpen := false } F.CLK_PLL_STATUS_EAST_LOCK true) F.CLK_PLL_STATUS_WEST_LOCK true
    stageEnd s 2 (!bad.isEmpty)

def execRailRaise (rails : List Nat) (cells : List (Nat × Nat)) (s : State) : Out :=
  onUnit (cells.all (fun c => cellOk c.1 && phaseOk c.2)) (atStage s 2 (fun s => railRaise s rails cells))

/-! ## Stage 3 (R13) -/

/-- Give each wanted channel its own site, or the next spare: the channels in use, and the spares left. -/
def assignTrunks (good : Nat → Bool) (want : List Nat) (spares : List Nat) : List Nat × List Nat :=
  want.foldl (fun acc t =>
    if good t then (acc.1 ++ [t], acc.2)
    else match acc.2 with
      | x :: l => (acc.1 ++ [x], l)
      | [] => acc) ([], spares)

/-- Map the spares of every crossing (R10); the channels with a crossing that needs a fifth. -/
def mapFaults (s : State) (faults : List CoilFault) : State × List Nat :=
  faults.foldl (fun (acc : State × List Nat) f =>
    let r := mapCoils acc.1 f.chan f.boundary f.down f.coils
    (r.1, if r.2 then acc.2 ++ [f.chan] else acc.2)) (s, [])

/-- A coupler whose saved settings have a record that fails its check (R291). -/
def couplerRecordBad (s : State) : Bool :=
  (List.range 1224).any (fun c => !recordOk s 3 c) || (List.range 84).any (fun t => !recordOk s 11 t)

/-- Stage 3: what training found at the crossings, and the channels whose saved settings fail qualification.
Sites 0–7 carry PCIe, management, flash and event traffic, 8–79 the pool, and 80–83 are spare. DESIGN CHOICE
(log entry 41): the manual does not say which of the eight are PCIe channels; bring-up halts when any of them
is missing. -/
def couplerTraining (s : State) (faults : List CoilFault) (retrained : List Nat) : State :=
  let r := mapFaults s faults
  let s := trainFallback r.1 (!retrained.isEmpty || (r.1.luthier.trainOk && couplerRecordBad r.1))
  let cols := (r.2.filter (· < 1224)).eraseDups
  let trunks := ((r.2.filter (1224 ≤ ·)).map (· - 1224)).eraseDups
  let bad := cols.map (plainUnit 3) ++ trunks.map (plainUnit 11)
  let s := reportUnits s bad
  let gone := trunks ++ namedOf s 11
  let good (t : Nat) : Bool := !gone.contains t
  let a := assignTrunks good (List.range 8) ((List.range 4).map (· + 80) |>.filter good)
  let b := assignTrunks good ((List.range 72).map (· + 8)) a.2
  let spared := ((a.1 ++ b.1).filter (fun t => decide (80 ≤ t))).length
  let s := { s with luthier := { s.luthier with colBad := cols, trunkPool := b.1, trunkBad := gone } }
  let s := stageReport (setF s F.LNK_TRUNK_CHANNELS b.1.length) 3 (1308 - (namedOf s 3).length - (namedOf s 11).length)
    bad.length spared (firstUnit bad)
  if a.1.length < 8 then stageHalt s 3 (((List.range 8).find? (fun t => !good t)).map (fun t => (11, t)))
  else stageEnd { s with pcie := { s.pcie with up := !s.pins.perst } } 3 (!bad.isEmpty)

def execCouplerTraining (faults : List CoilFault) (retrained : List Nat) (s : State) : Out :=
  onUnit (faults.all coilOk && retrained.all channelOk) (atStage s 3 (fun s => couplerTraining s faults retrained))

/-! ## Stage 4 (R72, R76) -/

/-- PREF as it acts. -/
def spareLayer (s : State) : Nat := if 8 < getF s F.MEM_SPARE_PREF then 4 else getF s F.MEM_SPARE_PREF

/-- Map the logical layers onto the physical ones in ascending order, skipping the spare. -/
def mapLayers (s : State) (spare : Nat) (avail : Bool) : State :=
  let s := setB (setF s F.MEM_SPARE_PHYS spare) F.MEM_SPARE_AVAIL avail
  let s := forEach (List.range 9) s (fun s p => setB s (F.FRET_LAYER_PWR_SPARE p) (p == spare))
  forEach ((List.range 9).filter (· != spare)).zipIdx s (fun s p => setF s (layerFld p.2) p.1)

/-- Install a saddle entry for a line at bring-up: nothing of the line is to be kept. Whether one was free. -/
def bringUpSaddle (s : State) (r : LineRef) : State × Bool :=
  let bi := bankIndex r.player r.pcol r.bank
  if (saddleFor s bi r.line).isSome then (s, true)
  else match freeEntry s bi with
    | some e => ({ s with saddles := sins s.saddles (bi * 8 + e) { line := r.line, origin := false, poisoned := false } }, true)
    | none => (s, false)

/-- The saddles of lines; the lines that find none are kept for their frames (R73). -/
def installSaddles (s : State) (l : List LineRef) : State :=
  let r := l.foldl (fun (acc : State × List LineRef) x =>
    let t := bringUpSaddle acc.1 x
    (t.1, if t.2 then acc.2 else acc.2 ++ [x])) (s, [])
  { r.1 with luthier := { r.1.luthier with badLines := r.2 } }

/-- Stage 4: the physical layers that fail, the lines that the test finds hard-faulty, and the memory channels
whose saved settings fail qualification. -/
def dramTraining (s : State) (layers : List Nat) (lines : List LineRef) (retrained : List Nat) : State :=
  let s := applyBoard s (fun off => off == 0x300004)
  let s := trainFallback s (!retrained.isEmpty || (s.luthier.trainOk && (List.range 1224).any (fun c => !recordOk s 5 c)))
  let bad := layers.map (plainUnit 4)
  let fresh := lines.filter (fun r => !s.luthier.badLines.contains r)
  let s := reportUnits s bad
  let s := forEach fresh s (fun s r => addDefect s (lineEntry r))
  let s := setB s F.LUT_STATE_SHORT_TEST (!getB s F.LUT_CFG_TEST_FULL && s.luthier.trainOk)
  let gone := (List.range 9).filter (fun p => layers.contains p || (namedOf s 4).contains p)
  let s := stageReport s 4 (9 - (namedOf s 4).length) (bad.length + fresh.length) gone.length
    (match bad with | [] => fresh.head?.map (fun r => (5, r.pcol)) | u :: _ => some (u.kind, u.index))
  match gone with
  | a :: _ :: _ => stageHalt s 4 (some (4, a))
  | [a] => stageEnd (installSaddles (mapLayers s a false) (lines ++ s.luthier.badLines)) 4 true
  | [] => stageEnd (installSaddles (mapLayers s (spareLayer s) true) (lines ++ s.luthier.badLines)) 4 (!fresh.isEmpty)

def execDramTraining (layers : List Nat) (lines : DramFaults) (s : State) : Out :=
  onUnit (layers.all layerOk && lines.lines.all lineOk && lines.retrained.all pcolOk)
    (atStage s 4 (fun s => dramTraining s layers lines.lines lines.retrained))

/-! ## Numbering (R296 to R298) -/

/-- A unit becomes unusable. -/
def markBad (s : State) (u : UnitRef) : State :=
  let l := s.luthier
  let l := match u.kind with
    | 1 => { l with siteBad := l.siteBad ++ [u.index] }
    | 2 => { l with coreBad := l.coreBad ++ [u.index] }
    | 3 => { l with colBad := l.colBad ++ [u.index] }
    | 7 => { l with laneBad := l.laneBad ++ [u] }
    | 8 => { l with laneBad := l.laneBad ++ [u] }
    | 9 => { l with laneBad := l.laneBad ++ [u] }
    | 10 => { l with unitBad := l.unitBad ++ [u.index] }
    | 13 => { l with siteBad := l.siteBad ++ [u.index] }
    | _ => l
  { s with luthier := l }

/-- The defect map names a unit of one of some kinds: it governs which units count as usable (R296, R307). -/
def mapBad (s : State) (kinds : List Nat) (n : Nat) : Bool :=
  s.luthier.defects.any (fun u => kinds.contains u.kind && u.index == n)

/-- The failed lanes, rows or columns of a core site. -/
def failedLanes (s : State) (kind c : Nat) : List Nat :=
  (((s.luthier.laneBad ++ s.luthier.defects).filter (fun u => u.kind == kind && u.index == c)).map (·.sub)).eraseDups

/-- A usable core site: good, with no second failure of one kind (R296). -/
def coreSiteOk (s : State) (c : Nat) : Bool :=
  !s.luthier.coreBad.contains c && !mapBad s [2] c && [7, 8, 9].all (fun k => (failedLanes s k c).length ≤ 1)

/-- The usable core sites and the usable physical columns of a cluster site, ascending. -/
def goodCores (s : State) (site : Nat) : List Nat :=
  ((List.range 17).map (17 * site + ·)).filter (coreSiteOk s)
def goodCols (s : State) (site : Nat) : List Nat :=
  ((List.range 17).map (17 * site + ·)).filter (fun c => !s.luthier.colBad.contains c && !mapBad s [3] c)

/-- A usable cluster site but for the reach of its routes (R297). -/
def siteGood (s : State) (n : Nat) : Bool :=
  !s.luthier.siteBad.contains n && getF s (F.PDM_CELL_STATE n) != 2 && !bypassed s n && !mapBad s [1, 6, 13] n &&
    16 ≤ (goodCores s n).length && 16 ≤ (goodCols s n).length

def unitGood (s : State) (n : Nat) : Bool := !s.luthier.unitBad.contains n && !mapBad s [10] n

/-- Give each used site an update unit: its own, or the next spare. -/
def assignUnits (s : State) (used : List Nat) : List (Nat × Option Nat) :=
  let spares := (List.range 72).filter (fun n => !used.contains n && unitGood s n)
  (used.foldl (fun (acc : List (Nat × Option Nat) × List Nat) n =>
    if unitGood s n then (acc.1 ++ [(n, some n)], acc.2)
    else match acc.2 with
      | u :: l => (acc.1 ++ [(n, some u)], l)
      | [] => (acc.1 ++ [(n, none)], [])) ([], spares)).1

/-- The used sites with their update units, ascending; sites left with no unit count as unusable. -/
def formSites (s : State) : Nat → List Nat → List (Nat × Nat)
  | 0, _ => []
  | n + 1, out =>
    let used := ((List.range 72).filter (fun t => siteGood s t && !out.contains t)).take 64
    let a := assignUnits s used
    let lack := (a.filter (fun p => p.2.isNone)).map (·.1)
    if lack.isEmpty then a.filterMap (fun p => p.2.map (fun u => (p.1, u))) else formSites s n (out ++ lack)

/-- A core comes to stand on a core site: the site's failed row and column are replaced (R137). -/
def placeCore (s : State) (c site : Nat) : State :=
  let s := { s with coreSite := sins s.coreSite c site }
  setCore s c { Core.zero with rowSub := (failedLanes s 8 site).head?, colSub := (failedLanes s 9 site).head? }

/-- A logical column comes to stand on a physical one. -/
def placeCol (s : State) (col pcol : Nat) : State :=
  setB (setF s (F.MEM_COLMAP_PCOL col) pcol) (F.MEM_COLMAP_VALID col) true

/-- An update unit comes to serve a cluster. -/
def placeUnit (s : State) (lc u : Nat) : State :=
  let s := { s with updOf := sins s.updOf lc u }
  setB (setF (setF s (F.UPD_UNIT_STATUS_STATE u) 1) (F.UPD_UNIT_STATUS_LC u) lc) (F.UPD_UNIT_STATUS_LC_VALID u) true

/-- A cluster comes to stand on a site. -/
def placeSite (s : State) (lc site : Nat) : State :=
  let s := setB (setF s (F.NOC_LC_SITE_SITE lc) site) (F.NOC_LC_SITE_VALID lc) true
  setF (setB s (F.NOC_ROUTER_USED site) true) (F.NOC_ROUTER_LC site) lc

/-- Form a logical cluster on a site: its cores and columns are the lowest-numbered usable ones. -/
def formCluster (s : State) (lc site u : Nat) : State :=
  let s := placeUnit (placeSite s lc site) lc u
  let s := forEach ((goodCores s site).take 16).zipIdx s (fun s p => placeCore s (16 * lc + p.2) p.1)
  forEach ((goodCols s site).take 16).zipIdx s (fun s p => placeCol s (16 * lc + p.2) p.1)

/-- A logical cluster reads absent. -/
def absentCluster (s : State) (lc : Nat) : State :=
  let s := setBit (setBit s F.EVT_FENCED_LC lc true) F.EVT_FENCED_UPD lc true
  forEach (coresOf lc) s (fun s c => markCore s c true)

/-- Forget an earlier numbering of this bring-up. -/
def clearNumbering (s : State) : State :=
  let s := forEach (List.range 72) s (fun s n =>
    setF (setB (setF (setB s (F.NOC_ROUTER_USED n) false) (F.NOC_ROUTER_LC n) 0) (F.UPD_UNIT_STATUS_LC_VALID n) false)
      (F.UPD_UNIT_STATUS_STATE n) 0)
  let s := forEach (List.range 64) s (fun s l => setB s (F.NOC_LC_SITE_VALID l) false)
  let s := forEach (List.range 1024) s (fun s c => setB s (F.MEM_COLMAP_VALID c) false)
  let s := forEach (List.range 32) s (fun s i => setF s (F.EVT_FENCED_CORE i) 0)
  let s := setF (setF s F.EVT_FENCED_LC 0) F.EVT_FENCED_UPD 0
  { s with coreSite := [], updOf := [], cores := [] }

/-- Number the units (R297). -/
def numberOnce (s : State) : State :=
  let l := formSites s 73 []
  let s := forEach l.zipIdx (clearNumbering s) (fun s p => formCluster s p.2 p.1.1 p.1.2)
  let s := setF s F.GLB_STATUS_NLC l.length
  forEach ((List.range 64).filter (fun n => l.length ≤ n)) s absentCluster

/-- Fill the routes and number the units, again and again without the sites that R211 leaves unreachable. -/
def numberUp : Nat → State → State
  | 0, s => s
  | n + 1, s =>
    let t := fillRoutes (numberOnce s)
    let far := unreachableSites t 72 (usedSites t)
    if far.isEmpty then t else numberUp n (forEach far s (fun s x => markBad s (plainUnit 1 x)))

/-- Bypassed routers that the fuses or the map name, or that fail a test (R210). -/
def bypassBad (s : State) (tested : List Nat) : State :=
  let s := forEach (namedOf s 6) s (fun s r => if r < 72 then setF s (F.NOC_ROUTER_STATE r) 1 else s)
  let s := forEach tested s (fun s r => if bypassed s r then s else setF s (F.NOC_ROUTER_STATE r) 2)
  setF s F.NOC_STATUS_BYPASSED ((List.range 72).filter (bypassed s)).length

/-- Frames of the lines that found no saddle (R73). -/
def retireLines (s : State) : State :=
  forEach s.luthier.badLines s (fun s r =>
    match colOfPcol s r.pcol, (List.range 8).find? (fun l => getF s (layerFld l) == r.player) with
    | some col, some l => retireFrame s r.pcol (col * 2 ^ 27 + l * 2 ^ 24 + r.bank * 2 ^ 22 + r.line * 64)
    | _, _ => s)

/-- Stage 5: the units that fail their test. -/
def logicalNumbering (s : State) (bad : List UnitRef) : State :=
  let s := reportUnits s bad
  let s := forEach (s.fuses.bad ++ bad) s markBad
  let s := bypassBad s ((bad.filter (fun u => u.kind == 6)).map (·.index))
  let s := retireLines (numberUp 73 s)
  let n := getF s F.GLB_STATUS_NLC
  let spared := (s.luthier.laneBad.filter (fun u => coreSiteOk s u.index)).length
  let s := stageReport s 5 (72 + 1224 + 1224 + 72 + 72 - s.fuses.bad.length) bad.length spared (firstUnit bad)
  if n < max 1 (min 64 (getF s F.LUT_CFG_MIN_LC)) then stageHalt s 5 (firstUnit bad)
  else stageEnd s 5 (n < 64 || !bad.isEmpty)

def execLogicalNumbering (bad : List UnitRef) (s : State) : Out :=
  onUnit (bad.all unitRefOk) (atStage s 5 (fun s => logicalNumbering s bad))

/-! ## Stages 6 and 7 (R210, R211, R213, R293) -/

/-- A mesh link that does not run at full width: a seam link runs at half width, another has the router at
its higher-numbered end bypassed (R210, R214). -/
def narrowMesh (s : State) (m : Nat) : State :=
  let r := m / 4
  let d := m % 4
  if isSeam r d then setF s (F.NOC_SEAM_WIDTH (r / 8)) 1
  else
    let x := max r ((neighbour r d).getD r)
    if bypassed s x then s
    else setF (markBad (reportUnits s [plainUnit 6 x]) (plainUnit 6 x)) (F.NOC_ROUTER_STATE x) 2

/-- Stage 6: the mesh links, as 4 × router + direction, that cannot run at full width. -/
def routeTableFill (s : State) (bad : List Nat) : State :=
  let n := getF s F.GLB_STATUS_NLC
  let s := forEach bad s narrowMesh
  let s := setF s F.NOC_STATUS_BYPASSED ((List.range 72).filter (bypassed s)).length
  let s := if bad.isEmpty then fillRoutes s else numberUp 73 s
  let s := fallback (writeDist s)
  let s := stageReport s 6 123 bad.length 0 none
  stageEnd s 6 (!bad.isEmpty || getF s F.GLB_STATUS_NLC < n)

def execRouteTableFill (bad : List Nat) (s : State) : Out :=
  onUnit (bad.all (fun m => routerOk (m / 4) && meshOk (m / 4) (m % 4))) (atStage s 6 (fun s => routeTableFill s bad))

/-- A link starts its training, from saved settings where they are in use and its record passes (R291). -/
def startTraining (s : State) (l : Nat) : State :=
  let use := s.luthier.trainOk && recordOk s 12 l
  let s := trainFallback (setB s (F.LNK_STATUS_SAVED l) use) (!use)
  beginRetrain (setLinkState s l 1) l 0xF 0

/-- One link trains (R224, R293). -/
def trainLink (s : State) (t : LinkTrain) : State :=
  let l := t.link
  let ok := t.lanes &&& ~~~(namedLanes s l)
  match t.peer with
  | none => trainRegs (setLinkState s l 0) l 0 0 5 s.luthier.tStage
  | some (dev, pl) =>
    let s := setPeer s l dev pl
    if !t.supported then trainRegs (setLinkState s l 6) l ok.toNat 0 6 s.luthier.tStage
    else
      let s := reportUnits s (deadLanes l t.lanes)
      match pickLanes ok 0 with
      | none => trainRegs (setLinkState s l 6) l 0 0 3 s.luthier.tStage
      | some (used, width) =>
        setLinkState (trainRegs (setF s (F.LNK_STATUS_WIDTH l) width) l ok.toNat used (trainResult width) s.luthier.tStage) l 2

/-- Stage 7: ROUTE is applied and the links train; those that the list does not hold train on. -/
def linkTraining (s : State) (l : List LinkTrain) : State :=
  let s := applyTy s (imageSegs s) 7
  let s := forEach (List.range 48) s (fun s i => if getB s (F.LNK_CTRL_DISABLE i) then s else startTraining s i)
  let s := forEach l s (fun s t => if getB s (F.LNK_CTRL_DISABLE t.link) then s else
    trainLink (setLink s t.link { getLink s t.link with retraining := none }) t)
  let bad := (List.range 48).filter (fun i => linkState s i == 6)
  stage7Settle (stageReport s 7 48 bad.length 0 (bad.head?.map (fun i => (12, i))))

def execLinkTraining (links : List LinkTrain) (s : State) : Out :=
  onUnit (links.all (fun t => linkOk t.link && peerOk t.peer)) (atStage s 7 (fun s => linkTraining s links))

/-- The lane pair with fewer errors, lanes 0–1 on a tie. -/
def betterPair (errs : List Nat) : Nat :=
  if errs.getD 0 0 + errs.getD 1 0 ≤ errs.getD 2 0 + errs.getD 3 0 then 3 else 12

/-- The lane in use with fewest errors, the lowest on a tie. -/
def betterLane (used : BitVec 4) (errs : List Nat) : Nat :=
  match ((List.range 4).filter (fun i => used.getLsbD i)) with
  | [] => 0
  | i :: t => 2 ^ (t.foldl (fun b j => if errs.getD j 0 < errs.getD b 0 then j else b) i)

/-- The next step for a link whose window failed (R293). -/
def qualFail (s : State) (l : Nat) (errs : List Nat) : State :=
  let width := getF s (F.LNK_STATUS_WIDTH l)
  let first := sget 0 s.luthier.qualStep l = 0
  let s := if s.luthier.trainOk && getB s (F.LNK_STATUS_SAVED l) && devState s == 0 then setB s F.LUT_STATE_TRAIN_FALLBACK true else s
  let s := { s with luthier := { s.luthier with qualStep := sins s.luthier.qualStep l 1 } }
  if first then beginRetrain (setLinkState (setB s (F.LNK_STATUS_SAVED l) false) l 1) l 0xF 0
  else if width = 0 then narrowLink s l (betterPair errs) 1
  else if width = 1 then narrowLink s l (betterLane (usedLanes s l) errs) 2
  else linksSettle (linkDown (setF s (F.LNK_TRAIN_RESULT l) 4) l 6)

/-- The end of a 20 ms window: bits checked, errors by lane, and uncorrectable codewords. -/
def linkQualification (s : State) (l bits : Nat) (errs : List Nat) (uncorr : Nat) : State :=
  if linkState s l = 2 then
    let sum := (errs.take 4).sum
    let pass := decide (sum * 100000 < bits) && uncorr == 0
    let s := setF (setF s (F.LNK_QUAL_BITS l) (min (2 ^ 64 - 1) bits)) (F.LNK_QUAL_ERRS l) (min (2 ^ 64 - 1) sum)
    let s := setF (setB (setB s (F.LNK_QUAL_DONE l) true) (F.LNK_QUAL_PASS l) pass) (F.LNK_QUAL_UNCORR l) (min 65535 uncorr)
    if pass then
      let s := { s with luthier := { s.luthier with qualStep := sdel s.luthier.qualStep l } }
      let s := setF s (F.LNK_TRAIN_RESULT l) (trainResult (getF s (F.LNK_STATUS_WIDTH l)))
      let s := raiseLnk (linkUp s l) 0x4005 sevInfo l (getF s (F.LNK_STATUS_PEER_DEV l) + getF s (F.LNK_STATUS_PEER_LINK l) * 2 ^ 16)
      linksSettle s
    else qualFail s l errs
  else s

def execLinkQualification (l bits : Nat) (errs : List Nat) (uncorr : Nat) (s : State) : Out :=
  onUnit (linkOk l) (live s (fun s => linkQualification s l bits errs uncorr))

/-- At 2.0 s stage 7 ends; links still training go on. -/
def stage7Timeout (s : State) : State :=
  if s.luthier.tStage + 2000000000 ≤ s.time then stageEnd s 7 true else s

def execStage7Timeout (s : State) : Out := done (atStage s 7 stage7Timeout)

/-! ## Stage 8 (R49, R92, R187, R235, R237) -/

/-- The image's segments of stage 8. -/
def applyConfig (s : State) : State :=
  let l := imageSegs s
  let s := applyBoard s (fun off => off != 0x10008 && off != 0x300004)
  applyTy (applyTy (applyTy (applyTy s l 3) l 4) l 5) l 6

/-- Express flags beyond the 8 lowest valid queues are cleared (R49). -/
def expressLimit (s : State) : State :=
  forEach (((List.range 1024).filter (expressQ s)).drop 8) s (fun s q =>
    raiseEv (setB s (F.QCTL_QOWN_EXPRESS q) false) 0x6003 sevWarn none 0x20 q 0 q)

/-- Base and length of the page-engine, update and COL regions; the page-engine region only where its
base is aligned (R92). -/
def regions (s : State) : List (Nat × Nat) :=
  let pe := getF s F.MMU_PE_BASE_DPA
  (if pe % 2 ^ 24 = 0 then [(pe, getF s F.MMU_PE_SIZE_MIB * 2 ^ 20)] else []) ++
    [(getF s F.UPD_REGION_BASE_BASE * 2 ^ 20, 17 * 2 ^ 19), (getF s F.COL_REGION_BASE_BASE * 2 ^ 20, 5 * 2 ^ 20)]

/-- Two of the regions overlap. -/
def regionsMeet : List (Nat × Nat) → Bool
  | [] => false
  | r :: l => l.any (fun x => decide (0 < r.2) && decide (r.1 < x.1 + x.2) && decide (x.1 < r.1 + r.2)) || regionsMeet l

/-- Zero-fill a region of device memory. -/
def zeroRegion (s : State) (r : Nat × Nat) : State :=
  forEach (List.range (r.2 / 8)) s (fun s i =>
    let a := r.1 + 8 * i
    if dpaValid a then (writeWord s (toLocal a) 0 0xFF#8 false).1 else s)

/-- R92: the page engine is off when its region is too small or misaligned. -/
def pageEngineOff (s : State) : State :=
  let need := 21 * 2 ^ 20 + 64 * 2 ^ getF s F.MMU_TREE_CFG_LOG2
  if getF s F.MMU_PE_SIZE_MIB * 2 ^ 20 < need ∨ getF s F.MMU_PE_BASE_DPA % 2 ^ 24 ≠ 0 then
    raiseEv (setB s F.MMU_POOL_STATUS_PE_OFF true) 0x6004 sevError none 0x23 0x210018 0 (getF s F.MMU_PE_SIZE_MIB)
  else s

/-- The first epoch takes effect, and the empty one before it is retired. DEDUCED (log entry 44): only a
write of ACTIVATE raises EPOCH; R324 names the events of stage 8, and it is not among them. -/
def firstEpoch (s : State) : State :=
  setB (turnEpoch s (getF s F.LNK_EPOCH_CTRL_NEXT)) F.LNK_EPOCH_PREV_VALID false

/-- The capo is armed: its limits, the grant and the allowance are in force. -/
def armCapo (s : State) : State := setGrant (applyLimit (allowance (setInvalid (takeThm s))))

/-- Bring-up is complete, unless a FATAL event still to be recorded halts the device (R323). -/
def reachReady (s : State) : State :=
  let s := takeAll s
  if halted s then s else
  let s := stageEnd s 8 false
  let s := setF s F.LUT_TIME_TOTAL (tenths s s.luthier.t0)
  let s := setF (setF s F.GLB_HALT_CAUSE_CAUSE 0) F.GLB_HALT_CAUSE_UNIT 0
  let s := setB s F.LUT_CFG_FULL_TRAIN false
  alert (setF s F.GLB_STATUS_STATE (if getF s F.GLB_STATUS_NLC < 64 then 2 else 1)) 0

/-- Stage 8. -/
def readyStage (s : State) : State :=
  let s := pageEngineOff (expressLimit (applyConfig s))
  if regionsMeet (regions s) then stageHalt s 8 none
  else reachReady (armCapo (firstEpoch (forEach (regions s) s zeroRegion)))

def execReady (s : State) : Out := done (atStage s 8 readyStage)

end Sys2Proof.Machine
end

