-- ==== Sys2Proof/Machine/Collect.lean ====
section
/-! DEFINITION. LINK_SEND, collective groups and collectives (R238 to R247). -/

namespace Sys2Proof.Machine

/-! ## Reads and writes with poison per byte -/

/-- Bytes with their poison. -/
abbrev PBytes := List (Byte × Bool)

/-- Read bytes by virtual address with the poison of the words that hold them. -/
def vreadP (s : State) (ctx va n : Nat) : State × PBytes × Option Result :=
  let r := vreadWords s ctx va .read (wordAddrs va n)
  let all := r.2.1.flatMap (fun w => (bytesOf 8 w.data.toNat).map (fun b => (b, w.poison)))
  (r.1, (all.drop (va % 8)).take n, r.2.2)

/-- Write bytes by virtual address: a word that takes a poisoned byte is written poisoned. -/
def vwriteP (s : State) (ctx va : Nat) (bs : PBytes) : State × Option Result :=
  (wordAddrs va bs.length).foldl (fun acc w =>
    let dm := wordOfBytes va (bs.map (·.1)) w
    let mine := (bs.drop (w - va)).take (if va ≤ w then 8 else w + 8 - va)
    let r := vwrite acc.1 ctx (firstByte va w) dm.1 dm.2 (mine.any (·.2))
    (r.1, match acc.2 with | none => wroteResult r.2 | some x => some x)) (s, none)

/-- Read and write for a partition: an access through another one's context touches nothing (R42). -/
def vreadOwned (s : State) (part ctx va n : Nat) : State × PBytes × Option Result :=
  if ctxForeign s part ctx then (s, [], some permResult) else vreadP s ctx va n

def vwriteOwned (s : State) (part ctx va : Nat) (bs : PBytes) : State × Option Result :=
  if ctxForeign s part ctx then (s, some permResult) else vwriteP s ctx va bs

/-! ## LINK_SEND (R238, R239) -/

def lsLen (c : CmdWord) : Nat := cmdField c 48 4
def lsDev (c : CmdWord) : Nat := bits (cmdField c 52 2) 11 0
def lsSrcCtx (c : CmdWord) : Nat := bits (cmdField c 54 2) 11 0
def lsDstCtx (c : CmdWord) : Nat := bits (cmdField c 56 2) 11 0
def lsMark (c : CmdWord) : Bool := (cmdField c 60 1).testBit 1

/-- The body keeps its table. -/
def lsFields (s : State) (c : CmdWord) : Bool :=
  decide (1 ≤ lsLen c) && decide (lsLen c ≤ 3623878656) && bits (cmdField c 52 2) 15 12 == 0 &&
    bits (cmdField c 54 2) 15 12 == 0 && bits (cmdField c 56 2) 15 12 == 0 && bits (cmdField c 58 2) 15 12 == 0 &&
    bits (cmdField c 60 1) 7 2 == 0 && cmdField c 61 3 == 0 && lsDev c != ownDev s

/-- Segments of a LINK_SEND. -/
def lsSegs (c : CmdWord) : Nat := ceilDiv (lsLen c) 216

/-- The packet of segment `k`: its descriptor and its data. -/
def lsPacket (s : State) (o : OpenCmd) (k : Nat) (bs : PBytes) : Packet :=
  let c := o.cmd
  let flags := flagBits (k + 1 == lsSegs c) false (bs.any (·.2)) o.express false (lsMark c)
  { th := mkTh (partOf s o.q) 4 o.q o.tag (devUnit (ownDev s) 0x503) (devUnit (lsDev c) 0x503) k flags,
    data := bytesOf 8 (cmdField c 40 8 + 216 * k) ++ bytesOf 2 (lsDstCtx c) ++ bytesOf 2 bs.length ++
      bytesOf 4 0 ++ bs.map (·.1) }

/-- Read and send segment `k`; a segment whose source cannot be read reports at once. -/
def lsSegment (s : State) (o : OpenCmd) (k : Nat) : State :=
  let c := o.cmd
  let va := cmdField c 32 8 + 216 * k
  let n := min 216 (lsLen c - 216 * k)
  let r := vreadOwned s (partOf s o.q) (lsSrcCtx c) va n
  match r.2.2 with
  | some f => sendReport r.1 o.q o.tag k f
  | none =>
    switchInject r.1 (lsPacket s o k r.2.1) 1

def linkSend (s : State) (q tag : Nat) : State :=
  match toBegin s q tag 0x32 with
  | none => s
  | some o =>
    if !lsFields s o.cmd then answer s q tag (codeResult stInvalid subFields) 0
    else if foreignCtx s q (lsSrcCtx o.cmd) then deny s q tag
    else if !s.luthier.ioRst && !reachable s (lsDev o.cmd) then
      answer s q tag (codeResult stPeerLost subUnreachable) 0
    else
      let s := updCmd s q tag (fun o => { o with begun := true, items := some (lsSegs o.cmd), okDetail := 0 })
      forEach (List.range (lsSegs o.cmd)) s (fun s k => lsSegment s o k)

def execLinkSend (q tag : Nat) (s : State) : Out :=
  onUnit (queueOk q) (inService s (memGate (.linkSend q tag) (fun s => linkSend s q tag)))

/-- The JOIN report of a segment goes back to its source. -/
def joinPacket (s : State) (p : Packet) (r : Result) : Packet :=
  let ok := r.status == stOk
  { th := mkTh (thPart p) 6 (thQueue p) (thTag p) (devUnit (ownDev s) 0x503) (thSrc p) (thSeq p)
      (flagBits (thFlag p 0) (!ok) false (thFlag p 3) false false),
    data := if ok then [] else joinData r }

def isRecv (p : Packet) (x : Recv) : Bool :=
  x.part == thPart p && x.src == srcDev p && x.q == thQueue p && x.tag == thTag p

/-- Note a segment written. -/
def recvAdd (s : State) (p : Packet) : Recv :=
  let k := thSeq p
  match s.recvs.find? (isRecv p) with
  | some x =>
    { x with got := (if x.got.contains k then [k] else x.got ++ [k]), last := if thFlag p 0 then some k else x.last }
  | none =>
    { part := thPart p, src := srcDev p, q := thQueue p, tag := thTag p, got := [k],
      last := if thFlag p 0 then some k else none }

/-- Every segment of the transfer is visible. -/
def recvDone (x : Recv) : Bool :=
  match x.last with
  | some n => (List.range (n + 1)).all (x.got.contains ·)
  | none => false

/-- Once every byte is visible, the remote signal word gains 1. -/
def recvSegment (s : State) (p : Packet) (rsig : Option Nat) : State :=
  let x := recvAdd s p
  let rest := s.recvs.filter (fun y => !isRecv p y)
  if recvDone x then
    let s := { s with recvs := rest }
    match rsig with
    | some w => sigAdd s (thPart p) (w % 4096) 1
    | none => s
  else { s with recvs := rest ++ [x] }

/-- Translate and write a received segment. -/
def segmentWrite (s : State) (p : Packet) : State × Option Result :=
  let va := natOf (p.data.take 8)
  let ctx := bits (natOf ((p.data.drop 8).take 2)) 11 0
  let n := min 216 (natOf ((p.data.drop 10).take 2))
  if ctxForeign s (thPart p) ctx then (s, some permResult)
  else
    let bs := (p.data.drop 16).take n
    vwriteBytes s ctx va bs (thFlag p 2)

/-- A LINK_SEND segment reaches the move front end: `rsig` is the remote signal word that its command names
with RSIG_EN = 1 (log entry 35). -/
def linkSendSegment (s : State) (p : Packet) (rsig : Option Nat) : State :=
  let s := { s with delivered := s.delivered.erase p }
  let r := segmentWrite s p
  match r.2 with
  | some f => switchInject r.1 (joinPacket s p f) 2
  | none => switchInject (recvSegment r.1 p rsig) (joinPacket s p okResult) 2

def execLinkSendSegment (pkt : Packet) (rsig : Option Nat) (s : State) : Out :=
  done (inService s (memGate (.linkSendSegment pkt rsig) (fun s => linkSendSegment s pkt rsig)))

/-! ## Groups (R240) -/

def gcKey (c : CmdWord) : Word := BitVec.ofNat 32 (cmdField c 32 4)
def gcNmem (c : CmdWord) : Nat := bits (cmdField c 36 2) 12 0
def gcRank (c : CmdWord) : Nat := bits (cmdField c 38 2) 11 0
def gcCtx (c : CmdWord) : Nat := bits (cmdField c 48 2) 11 0

def gcFields (c : CmdWord) : Bool :=
  bits (cmdField c 36 2) 15 13 == 0 && bits (cmdField c 38 2) 15 12 == 0 && bits (cmdField c 48 2) 15 12 == 0 &&
    cmdField c 50 14 == 0

/-- The lowest free entry of the group table. -/
def freeGroup (s : State) : Option Nat := (List.range 512).find? (fun g => (getGrp s g).isNone)

/-- The device IDs of a member list. -/
def memberIds (bs : List Byte) : List Nat :=
  (List.range (bs.length / 2)).map (fun i => bits (natOf ((bs.drop (2 * i)).take 2)) 11 0)

/-- Create a group whose list has been read. -/
def groupMake (s : State) (o : OpenCmd) (ids : List Nat) : State :=
  let c := o.cmd
  let part := partOf s o.q
  let bad (st sub : Nat) : State := answer s o.q o.tag (codeResult st sub) 0
  if ids[gcRank c]? ≠ some (ownDev s) ∨ !decide ids.Nodup then bad stInvalid subMembers
  else if s.colGroups.any (fun p => p.2.part == part && p.2.key == gcKey c) then bad stInvalid subDupKey
  else
    match freeGroup s with
    | none => answer (incF s F.COL_FULL_CNT) o.q o.tag (codeResult stTableFull 0) 0
    | some g =>
      let k : ColGroup := { part := part, key := gcKey c, rank := gcRank c, members := ids, broken := false, nextSeq := 0 }
      answer { s with colGroups := sins s.colGroups g k } o.q o.tag okResult g

def groupCreate (s : State) (q tag : Nat) : State :=
  match toBegin s q tag 0x34 with
  | none => s
  | some o =>
    let c := o.cmd
    if !gcFields c then answer s q tag (codeResult stInvalid subFields) 0
    else if gcNmem c = 0 ∨ 4096 < gcNmem c then answer s q tag (codeResult stInvalid subMembers) 0
    else if foreignCtx s q (gcCtx c) then deny s q tag
    else
      let r := vreadBytes s (gcCtx c) (cmdField c 40 8) (2 * gcNmem c) .read
      match r.2.fail with
      | some f => answer r.1 q tag f 0
      | none => if r.2.poison then answer r.1 q tag (codeResult stUe 0) 0 else groupMake r.1 o (memberIds r.2.bytes)

def execGroupCreate (q tag : Nat) (s : State) : Out :=
  onUnit (queueOk q) (inService s (memGate (.groupCreate q tag) (fun s => groupCreate s q tag)))

/-- The group that a command names, or the answer when it may not name it. -/
def groupNamed (s : State) (o : OpenCmd) : Except State ColGroup :=
  match getGrp s (coGroup o.cmd) with
  | none => .error (answer s o.q o.tag (codeResult stInvalid subBadGroup) 0)
  | some k => if k.part = partOf s o.q then .ok k else .error (deny s o.q o.tag)

/-- A collective of a group is dispatched and has not completed. -/
def groupInUse (s : State) (k : ColGroup) (g : Nat) : Bool :=
  s.colls.any (fun c => c.group == g) ||
    s.open_.any (fun o => engineOf s o.q == 3 && cOpcode o.cmd == 0x33 && coGroup o.cmd == g && partOf s o.q == k.part)

/-- GROUP_DESTROY waits until every collective of the group has completed. -/
def groupDestroy (s : State) (q tag : Nat) : State :=
  match toBegin s q tag 0x35 with
  | none => s
  | some o =>
    if bits (cmdField o.cmd 32 2) 15 9 != 0 || cmdField o.cmd 34 30 != 0 then
      answer s q tag (codeResult stInvalid subFields) 0
    else
      match groupNamed s o with
      | .error t => t
      | .ok k =>
        if groupInUse s k (coGroup o.cmd) then s
        else answer { s with colGroups := sdel s.colGroups (coGroup o.cmd) } q tag okResult 0

def execGroupDestroy (q tag : Nat) (s : State) : Out :=
  onUnit (queueOk q) (inService s (memGate (.groupDestroy q tag) (fun s => groupDestroy s q tag)))

/-! ## Collectives: what is sent and what is expected (R241) -/

/-- The reserved fields of a COLLECTIVE body are 0. -/
def coReserved (c : CmdWord) : Bool :=
  bits (cmdField c 32 2) 15 9 == 0 && bits (cmdField c 34 1) 7 3 == 0 && bits (cmdField c 35 1) 7 6 == 0 &&
    bits (cmdField c 56 2) 15 12 == 0 && bits (cmdField c 58 2) 15 12 == 0 && bits (cmdField c 60 2) 15 10 == 0 &&
    cmdField c 62 2 == 0

/-- A reduction: ALL_REDUCE or REDUCE_SCATTER. -/
def coReduces (c : CmdWord) : Bool := coOp c ≤ 1

/-- The cases of R241 that need no group. -/
def coFields (c : CmdWord) : Bool :=
  let sz := coSize (coDtype c)
  coReserved c && decide (coOp c ≤ 5) && decide (coDtype c ≤ 5) && coRop c != 3 &&
    !(coReduces c && coDtype c == 5) && !(coDtype c == 4 && coRop c != 0) && !(coOutFp32 c && coDtype c != 4) &&
    ((coCount c == 0) == (coOp c == 5)) && decide (coBlock c ≤ 3758096384) &&
    coSrc c % sz == 0 && coDst c % sz == 0

/-- Segments of a block. -/
def coSegs (c : CmdWord) : Nat := if coOp c = 5 then 1 else ceilDiv (coBlock c) 224

/-- Source blocks that a member reads. -/
def coReads (c : CmdWord) (n r : Nat) : Nat :=
  match coOp c with
  | 0 => 1
  | 1 => n
  | 2 => 1
  | 3 => n
  | 4 => if r = coRoot c then 1 else 0
  | _ => 0

/-- The source block that goes to rank `k`. -/
def coBlockFor (c : CmdWord) (k : Nat) : Nat := if coOp c = 1 || coOp c = 3 then k else 0

/-- The ranks that a member sends to, and those it expects a block from. -/
def coSendsTo (c : CmdWord) (n r : Nat) : List Nat :=
  if coOp c = 4 && r != coRoot c then [] else (List.range n).filter (· != r)
def coExpects (c : CmdWord) (n r : Nat) : List Nat :=
  if coOp c = 4 then (if r = coRoot c then [] else [coRoot c]) else (List.range n).filter (· != r)

/-- A part of the source as read. -/
def coSlice (c : CmdWord) (src : PBytes) (blk : Nat) : PBytes := (src.drop (blk * coBlock c)).take (coBlock c)

/-- A segment for a rank: its descriptor and its data; the switch marks it THROTTLED (R247). DESIGN CHOICE (log entry
34): no segment carries LAST, since R241 numbers TH.SEQ in each block and several share the highest number. -/
def coPacket (s : State) (o : OpenCmd) (g : ColGroup) (seq k seg : Nat) (bs : PBytes) : Packet :=
  let part := (bs.drop (224 * seg)).take 224
  { th := mkTh g.part 5 o.q o.tag (devUnit (ownDev s) 0x503) (devUnit (g.members.getD k 0) 0x503) seg
      (flagBits false false (part.any (·.2)) o.express false false),
    data := bytesOf 4 g.key.toNat ++ bytesOf 2 seq ++ bytesOf 2 (g.rank + coOp o.cmd * 2 ^ 12) ++ part.map (·.1) }

/-- Send the member's contributions. -/
def coSend (s : State) (o : OpenCmd) (g : ColGroup) (seq : Nat) (src : PBytes) : State :=
  let vc := if coOp o.cmd = 5 then 0 else 3
  forEach (coSendsTo o.cmd g.members.length g.rank) s (fun s k =>
    forEach (List.range (coSegs o.cmd)) s (fun s seg =>
      switchInject s (coPacket s o g seq k seg (coSlice o.cmd src (coBlockFor o.cmd k))) vc))

/-! ## Reduction (R244, R245) -/

/-- The smallest K with 2^K ≥ n. -/
def rankDepth (n : Nat) : Nat := if n ≤ 1 then 0 else Nat.log2 (n - 1) + 1

/-- The floating-point format of a DTYPE. -/
def coFmt (dtype : Nat) : Fmt := if dtype = 1 then fmtBF16 else if dtype = 2 then fmtF16 else fmtF32

/-- SUM of floating-point contributions in the rank tree. -/
def sumFloat (dtype : Nat) (vs : List Nat) : Nat :=
  let k := rankDepth vs.length
  let leaves := vs.map (fun v => enc32 (fdec (coFmt dtype) v))
  let root := fsumTree k (leaves ++ List.replicate (2 ^ k - vs.length) 0)
  fround (coFmt dtype) (dec32 root)

/-- MAX or MIN of floating-point contributions. -/
def extremeFloat (dtype : Nat) (max : Bool) (vs : List Nat) : Nat :=
  let l := vs.map (fdec (coFmt dtype))
  fround (coFmt dtype) (l.tail.foldl (exMinMax max) (l.headD .nan))

/-- A reduction of INT32 contributions. -/
def reduceInt32 (rop : Nat) (vs : List Nat) : Nat :=
  let l := vs.map (fun v => (BitVec.ofNat 32 v).toInt)
  let r := if rop = 0 then l.foldl (· + ·) 0
    else if rop = 1 then l.tail.foldl max (l.headD 0) else l.tail.foldl min (l.headD 0)
  (BitVec.ofInt 32 r).toNat

/-- The combination of WIDE contributions (R149). -/
def sumWide (vs : List Nat) : Accum :=
  (treeFold accAdd (rankDepth vs.length) (vs.map wideDec)).headD (wideDec 0)

/-- An output element from its contributions, and whether it is saturated. -/
def coElement (c : CmdWord) (vs : List Nat) : Nat × Bool :=
  let d := coDtype c
  if d = 4 then
    let a := sumWide vs
    let v := if coOutFp32 c then fround fmtF32 (accVal (coAnchor c).toInt a)
      else if coReduces c then wideEnc a else vs.headD 0
    (v, a.sat)
  else if !coReduces c then (vs.headD 0, false)
  else if d = 3 then (reduceInt32 (coRop c) vs, false)
  else if coRop c = 0 then (sumFloat d vs, false)
  else (extremeFloat d (coRop c == 1) vs, false)

/-- Element `i` of a block. -/
def coElem (sz : Nat) (b : PBytes) (i : Nat) : Nat × Bool :=
  let l := (b.drop (sz * i)).take sz
  (natOf (l.map (·.1)), l.any (·.2))

/-- Bytes of an output element. -/
def coOutSize (c : CmdWord) : Nat := if coOutFp32 c then 4 else coSize (coDtype c)

/-- Output block of the elements of some blocks, and which elements are saturated. -/
def coOutput (c : CmdWord) (blocks : List PBytes) : PBytes × List Bool :=
  let sz := coSize (coDtype c)
  let out := coOutSize c
  (List.range (coCount c)).foldl (fun acc i =>
    let es := blocks.map (fun b => coElem sz b i)
    let r := coElement c (es.map (·.1))
    let p := es.any (·.2)
    (acc.1 ++ (bytesOf out r.1).map (fun b => (b, p)), acc.2 ++ [r.2])) ([], [])

/-- The block of a rank: the member's own, or the segments received, in order. -/
def coOf (c : Coll) (rank k : Nat) : PBytes :=
  if k = rank then c.own
  else ((List.range (coSegs c.cmd)).flatMap (fun seg =>
    match c.got.find? (fun x => x.rank == k && x.seg == seg) with
    | some x => x.data
    | none => [])).take (coBlock c.cmd)

/-- An output of one block per rank. -/
def coConcat (c : Coll) (g : ColGroup) : PBytes × List Bool :=
  (List.range g.members.length).foldl (fun acc k =>
    let r := coOutput c.cmd [coOf c g.rank k]
    (acc.1 ++ r.1, acc.2 ++ r.2)) ([], [])

/-- The output of a collective on a member, and which of its elements are saturated. -/
def coResult (c : Coll) (g : ColGroup) : PBytes × List Bool :=
  match coOp c.cmd with
  | 2 => coConcat c g
  | 3 => coConcat c g
  | 4 => coOutput c.cmd [coOf c g.rank (coRoot c.cmd)]
  | 5 => ([], [])
  | _ => coOutput c.cmd ((List.range g.members.length).map (coOf c g.rank))

/-- Every contribution that a member expects is here. -/
def coComplete (c : Coll) (g : ColGroup) : Bool :=
  (coExpects c.cmd g.members.length g.rank).all (fun k =>
    (List.range (coSegs c.cmd)).all (fun seg => c.got.any (fun x => x.rank == k && x.seg == seg)))

/-- Write the output of a collective; what it wrote is undefined when it fails (R38). -/
def coWrite (s : State) (c : Coll) (g : ColGroup) (out : PBytes) : State × Option Result :=
  let r := vwriteOwned s g.part (coCtx c.cmd) (coDst c.cmd) out
  if r.2.isSome || out.any (·.2) then (undefRange r.1 g.part (coCtx c.cmd) (coDst c.cmd) out.length, r.2) else r

/-- A partition's write of some bytes reaches memory: each of its words translates and its column is in use. -/
def reachesMem (s : State) (part ctx va n : Nat) : Bool :=
  !ctxForeign s part ctx && (wordAddrs va n).all (fun w =>
    match (translate s ctx (firstByte va w) .write).2 with
    | .ok dpa => !colGone s (dpaCol dpa)
    | .error _ => false)

/-- How many saturated elements of an output the member writes (R245). -/
def satWritten (s : State) (c : Coll) (g : ColGroup) (sats : List Bool) : Nat :=
  let sz := coOutSize c.cmd
  (sats.zipIdx.filter (fun x => x.1 && reachesMem s g.part (coCtx c.cmd) (coDst c.cmd + sz * x.2) sz)).length

/-- The output is written and the member's COLLECTIVE completes (R243, R245, R326). -/
def coFinish (s : State) (c : Coll) (g : ColGroup) : State :=
  let out := coResult c g
  let r := coWrite s c g out.1
  let n := satWritten s c g out.2
  let s := addF r.1 F.COL_SAT_CNT n
  let sat := if n = 0 then 0 else 1
  let res : Result := match r.2 with
    | some f => f
    | none => if out.1.any (·.2) then { status := stUe, sub := 0, detail := sat } else okResult
  let s := updCmd s c.q c.tag (fun o => { o with okDetail := sat })
  let s := sendReport s c.q c.tag 0 res
  { s with colls := s.colls.filter (fun x => !(x.q == c.q && x.tag == c.tag)) }

/-- Complete a collective once its contributions are here. -/
def coSettle (s : State) (q tag : Nat) : State :=
  match s.colls.find? (fun c => c.q == q && c.tag == tag) with
  | some c =>
    (match getGrp s c.group with
     | some g => if coComplete c g then coFinish s c g else s
     | none => s)
  | none => s

/-- A collective starts: it takes the next sequence number of its group, reads the member's contributions
and sends them. -/
def coStart (s : State) (o : OpenCmd) (g : ColGroup) : State :=
  let c := o.cmd
  let n := g.members.length
  let seq := g.nextSeq
  let s := { s with colGroups := sins s.colGroups (coGroup c) { g with nextSeq := (seq + 1) % 65536 },
                    colTags := sins s.colTags ((ownDev s * 1024 + o.q) * 65536 + o.tag) (groupKey g.part g.key) }
  let s := updCmd s o.q o.tag (fun o => { o with begun := true, items := some 1 })
  let bytes := coReads c n g.rank * coBlock c
  let r := vreadP s (coCtx c) (coSrc c) bytes
  match r.2.2 with
  | some f => sendReport (undefRange r.1 g.part (coCtx c) (coDst c) (coOutBytes c n)) o.q o.tag 0 f
  | none =>
    let s := r.1
    let own := if coOp c = 4 && g.rank != coRoot c then [] else coSlice c r.2.1 (coBlockFor c g.rank)
    let k : Coll :=
      { q := o.q, tag := o.tag, group := coGroup c, seq := seq, cmd := c, own := own, got := [], lastRx := s.time,
        paused := 0 }
    coSettle (coSend { s with colls := s.colls ++ [k] } o g seq r.2.1) o.q o.tag

def collective (s : State) (q tag : Nat) : State :=
  match toBegin s q tag 0x33 with
  | none => s
  | some o =>
    let c := o.cmd
    if !coFields c then answer s q tag (codeResult stInvalid subFields) 0
    else
      match groupNamed s o with
      | .error t => t
      | .ok g =>
        if foreignCtx s q (coCtx c) then deny s q tag
        else if g.members.length ≤ coRoot c then answer s q tag (codeResult stInvalid subFields) 0
        else if g.broken then answer s q tag (codeResult stPeerLost subBroken) 0
        else if coOp c == 5 && ctxDead s (coCtx c) then ctxFault s q tag
        else coStart s o g

def execCollective (q tag : Nat) (s : State) : Out :=
  onUnit (queueOk q) (inService s (memGate (.collective q tag) (fun s => collective s q tag)))

/-! ## Collective segments (R241, R242, R247) -/

/-- Fields of a segment's descriptor. -/
def segKey (p : Packet) : Word := BitVec.ofNat 32 (natOf (p.data.take 4))
def segNo (p : Packet) : Nat := natOf ((p.data.drop 4).take 2)
def segRank (p : Packet) : Nat := bits (natOf ((p.data.drop 6).take 2)) 11 0
def segOp (p : Packet) : Nat := bits (natOf ((p.data.drop 6).take 2)) 15 12

/-- Refuse a segment: the retry response is the segment sent back with FAIL set (log entry 34). Its loss
would lose the sender as a peer of the group that the segment names (R246). -/
def refuseSegment (s : State) (p : Packet) : State :=
  let th := mkTh (thPart p) 5 (thQueue p) (thTag p) (thDst p) (thSrc p) (thSeq p) (thField p.th 127 112 ||| 2)
  let r : Packet := { th := th, data := p.data }
  switchInject { s with colTags := sins s.colTags (colTagOf s r) (groupKey (thPart p) (segKey p)) } r 2

/-- The group that a segment names. -/
def segGroup (s : State) (p : Packet) : Option (Nat × ColGroup) :=
  s.colGroups.find? (fun x => x.2.part == thPart p && x.2.key == segKey p)

/-- A segment that its collective expects. -/
def segExpected (c : Coll) (g : ColGroup) (p : Packet) : Bool :=
  segOp p == coOp c.cmd && (coExpects c.cmd g.members.length g.rank).contains (segRank p) &&
    decide (thSeq p < coSegs c.cmd)

/-- Time waited for a contribution (R247). -/
def countWait (s : State) (c : Coll) (p : Packet) : State :=
  addF s (if thFlag p 4 then F.COL_WAIT_THR_NS else F.COL_WAIT_NS) (s.time - c.lastRx)

/-- A contribution is taken. -/
def takeSegment (s : State) (c : Coll) (p : Packet) : State :=
  let x : Contribution := { rank := segRank p, seg := thSeq p, data := (p.data.drop 8).take 224 |>.map (fun b => (b, thFlag p 2)) }
  let seen := c.got.any (fun y => y.rank == x.rank && y.seg == x.seg)
  let s := countWait s c p
  let s := { s with colls := s.colls.map (fun y =>
    if y.q == c.q && y.tag == c.tag then
      { y with got := if seen then y.got else y.got ++ [x], lastRx := s.time, paused := 0 } else y) }
  coSettle s c.q c.tag

/-- A collective segment arrives; a global stop of the move engine refuses it (R339). -/
def collectiveSegment (s : State) (p : Packet) (room : Bool) : State :=
  let s := { s with delivered := s.delivered.erase p }
  match segGroup s p with
  | none => refuseSegment s p
  | some (gi, g) =>
    if feStopped s 3 then refuseSegment s p
    else if g.broken || g.members.length ≤ segRank p then s
    else
      match s.colls.find? (fun c => c.group == gi && c.seq == segNo p) with
      | none => if (segNo p + 65536 - g.nextSeq) % 65536 < 32768 then refuseSegment s p else s
      | some c =>
        if !room then refuseSegment s p
        else if segExpected c g p then takeSegment s c p
        else failColl s c (codeResult stInvalid subMismatch)

def execCollectiveSegment (pkt : Packet) (room : Bool) (s : State) : Out :=
  done (inService s (memGate (.collectiveSegment pkt room) (fun s => collectiveSegment s pkt room)))

/-- A refused segment is sent again after 2 µs (R242). -/
def segmentRetry (s : State) (n : Nat) : State :=
  match s.retries[n]? with
  | some r =>
    if r.since + 2000 ≤ s.time then
      switchInject { s with retries := s.retries.eraseIdx n } r.pkt (if segOp r.pkt = 5 then 0 else 3)
    else s
  | none => s

def execSegmentRetry (n : Nat) (s : State) : Out := done (inService s (fun s => segmentRetry s n))

/-! ## Lost peers (R246) -/

/-- A PEER_LOST notice for a group. -/
def peerLost (s : State) (part : Nat) (key : Word) (dev : Nat) : State :=
  match s.colGroups.find? (fun x => x.2.part == part && x.2.key == key) with
  | some (g, _) => losePeer s g dev
  | none => s

def execPeerLost (part : Nat) (key : Word) (dev : Nat) (s : State) : Out :=
  onUnit (partOk part && deviceOk dev) (inService s (memGate (.peerLost part key dev) (fun s => peerLost s part key dev)))

/-- COL_PEER_DOWN: GO applies R246 to every group that holds DEV. -/
def colPeerDownWrite (s : State) (v : Nat) : State :=
  let s := setF s F.COL_PEER_DOWN_DEV (bits v 11 0)
  if v.testBit 12 then forEach (groupsOfDev s (bits v 11 0)) s (fun s g => losePeer s g (bits v 11 0)) else s

def execColPeerDown (v : BitVec 32) (s : State) : Out := done (inService s (memGate (.colPeerDown v) (fun s => colPeerDownWrite s v.toNat)))

/-- A collective of the group that waits for a device has received nothing for TMO_MS, the time of global
stops not counted (R339). -/
def timedOut (s : State) (g : ColGroup) (dev : Nat) (c : Coll) : Bool :=
  decide (c.lastRx + c.paused + getF s F.COL_CFG_TMO_MS * 1000000 ≤ s.time) &&
    (coExpects c.cmd g.members.length g.rank).any (fun k =>
      g.members[k]? == some dev &&
        (List.range (coSegs c.cmd)).any (fun seg => !c.got.any (fun x => x.rank == k && x.seg == seg)))

def collectiveTimeout (s : State) (gi dev : Nat) : State :=
  match getGrp s gi with
  | some g =>
    if getF s F.COL_CFG_TMO_MS != 0 && !feStopped s 3 && s.colls.any (fun c => c.group == gi && timedOut s g dev c) then losePeer s gi dev
    else s
  | none => s

def execCollectiveTimeout (g dev : Nat) (s : State) : Out :=
  onUnit (groupOk g && deviceOk dev) (inService s (memGate (.collectiveTimeout g dev) (fun s => collectiveTimeout s g dev)))

end Sys2Proof.Machine
end

