-- ==== Sys2Proof/Machine/Dma.lean ====
section
/-! DEFINITION. The meanings of the column DMA (R140, R174, R175). -/

namespace Sys2Proof.Machine

/-! ## Issue (R174, R175) -/

/-- The transfer that a DMA instruction describes, with the values read at issue. -/
def dmaOpOf (s : State) (c : Nat) (put : Bool) (l v n sh : BitVec 5) (tok : BitVec 4) : DmaOp :=
  let r := getRf s (.core c)
  let shape := if sh = 0 then 0 else (xget r sh).data.toNat
  { put := put, l := (xget r l).data.toNat, va := (xget r v).data, n := (xget r n).data.toNat,
    vstride := BitVec.ofNat 32 shape, lstride := bits shape 47 32, rows := bits shape 63 48 + 1,
    tok := tok.toNat, ctx := ((getCore s c).kernel.map (·.ctx)).getD 0, seq := (getCore s c).issued,
    got := [], passed := [], kept := [], bad := [] }

/-- Why a transfer is not made: alignment before range (R175). -/
def dmaFault (o : DmaOp) : Option Exc :=
  if o.l % 16 != 0 || o.n % 16 != 0 || decide (o.n < 16) || decide (524288 < o.n) then some .misalign
  else if (dmaRows o).any (fun a => decide (lsSize < a + o.n)) then some .lsRange else none

/-- Issue waits while the token is held. -/
def dmaWaits (s : State) (u : Exu) (tok : BitVec 4) : Bool :=
  match u with
  | .core c => dmaHeld (getCore s c) tok.toNat
  | .upd _ => false

/-- A transfer is in flight. -/
def dmaStart (s : State) (c : Nat) (o : DmaOp) : State :=
  let k := getCore s c
  setCore s c { k with dma := k.dma ++ [o], rf := advance 8 k.rf }

/-- Issue a DMA instruction of 8 bytes. -/
def dmaIssue (s : State) (u : Exu) (put : Bool) (l v n sh : BitVec 5) (tok : BitVec 4) (rsv : BitVec 32) : State :=
  if dmaWaits s u tok then s
  else issueCore s u 8 (rsv == 0) (fun s c =>
    let o := dmaOpOf s c put l v n sh tok
    match dmaFault o with
    | some e => raiseExc s u e
    | none => dmaStart s c o)

def execGet (u : Exu) (l v n sh : BitVec 5) (tok : BitVec 4) (rsv : BitVec 32) (s : State) : Out :=
  onUnit (exuOk u) (inService s (fun s => dmaIssue s u false l v n sh tok rsv))

def execPut (u : Exu) (l v n sh : BitVec 5) (tok : BitVec 4) (rsv : BitVec 32) (s : State) : Out :=
  onUnit (exuOk u) (inService s (fun s => dmaIssue s u true l v n sh tok rsv))

/-! ## The end of a transfer -/

/-- A GET writes the local store; bytes of a column that touches nothing stay (R140). -/
def getLand (s : State) (c part : Nat) (o : DmaOp) : State :=
  let r := getRuns s part o
  let s := r.2.foldl (fun s x =>
    putLs (noteRange s c true x.1 x.2.length) c x.1 (keepCells o.kept x.1 x.2)) r.1
  if r.2.any (fun x => x.2.any (·.isNone)) then recordExc s c o.seq (plainResult stFenced) else s

/-- The cells of a local row as a PUT found them. -/
def putRow (s : State) (c : Nat) (o : DmaOp) (a : Nat) : State × List (Byte × Bool) :=
  let r := readLs s c a o.n
  (r.1, r.2.zipIdx.map (fun p =>
    let b := a + p.2
    match slook o.got (b / 16) with
    | some g => (g.1.extractLsb' (8 * (b % 16)) 8, g.2.getLsbD (b % 16 / 8))
    | none => p.1))

/-- Write one row of a PUT word by word: the first failure in ascending address. -/
def putWords (s : State) (part : Nat) (o : DmaOp) (va : Nat) (row : List (Byte × Bool)) : State × Option Result :=
  (wordAddrs va o.n).foldl (fun (acc : State × Option Result) w =>
    let dm := wordOfBytes va (row.map (·.1)) w
    let bad := row.zipIdx.any (fun p => p.1.2 && (va + p.2) / 8 == w / 8) || wordHit o (w / 8)
    match translate acc.1 o.ctx (firstByte va w) .write with
    | (s, .error f) => (s, acc.2.or (some (xResult f (firstByte va w))))
    | (s, .ok dpa) =>
      let r := writeWord (countChan s part 23 (dpaCol dpa) 8) (dpa / 8 * 8) dm.1 dm.2 bad
      (r.1, acc.2.or (if bad then some (plainResult stUe) else wroteResult (.done r.2)))) (s, none)

/-- The LAUNCH of a core's kernel has stored the rows of a PUT. -/
def noteOut (s : State) (c : Nat) (o : DmaOp) : State :=
  match (getCore s c).kernel with
  | none => s
  | some k => updCmd s k.q k.tag (fun x => { x with
      outs := x.outs ++ ((dmaPairs o).map (fun p => (o.ctx, p.2, o.n))).filter (fun r => !x.outs.contains r) })

/-- A PUT writes device memory; a poisoned local word is consumed (R139). -/
def putLand (s : State) (c part : Nat) (o : DmaOp) : State :=
  let s := noteOut s c o
  let r := (dmaPairs o).foldl (fun (acc : State × Option Result) p =>
    let row := putRow acc.1 c o p.1
    let w := putWords row.1 part o p.2 row.2
    (w.1, acc.2.or w.2)) (s, none)
  match r.2 with
  | some f => recordExc r.1 c o.seq f
  | none => r.1

/-- What a transfer does: nothing when its translation fails (R140), or through a context that another partition
owns by now (R42). -/
def dmaLand (s : State) (c part : Nat) (o : DmaOp) : State :=
  if ctxForeign s part o.ctx then recordExc s c o.seq (plainResult stPermission)
  else
    match dmaCheck s o with
    | (s, some f) => recordExc s c o.seq f
    | (s, none) => if o.put then putLand s c part o else getLand s c part o

/-- The transfer of a token ends: the token is released. -/
def dmaDone (s : State) (c tok : Nat) : State :=
  match (getCore s c).dma.find? (fun o => o.tok == tok) with
  | none => s
  | some o =>
    let part := (workFor s (.core c)).1
    let s := setCore s c { getCore s c with dma := (getCore s c).dma.erase o }
    afterWork (dmaLand s c part o) c

def execDmaDone (c tok : Nat) (s : State) : Out :=
  onUnit (coreOk c && dmaTokOk tok) (inService s (memGate (.dmaDone c tok) (fun s => dmaDone s c tok)))

end Sys2Proof.Machine
end

