-- ==== Sys2Proof/Machine/Sync.lean ====
section
/-! DEFINITION. The meanings of synchronisation and of the control network (R176 to R180, R216 to R218,
R338). -/

namespace Sys2Proof.Machine

/-! ## Waits -/

/-- A core waits, and goes on at once when its own work meets the wait. -/
def waitOwn (s : State) (c : Nat) (w : Wait) : State :=
  releaseOwn (setCore s c { getCore s c with wait := some w }) c

def execWaitd (u : Exu) (a : BitVec 5) (s : State) : Out :=
  onUnit (exuOk u) (inService s (fun s => issueCore s u 4 true (fun s c =>
    waitOwn s c (.waitd ((xget (getRf s u) a).data.toNat % 2 ^ 16)))))

def execWaita (u : Exu) (a : BitVec 5) (s : State) : Out :=
  onUnit (exuOk u) (inService s (fun s => issueCore s u 4 true (fun s c =>
    waitOwn s c (.waita ((xget (getRf s u) a).data.toNat % 16)))))

def execFence (u : Exu) (s : State) : Out :=
  onUnit (exuOk u) (inService s (fun s => issueCore s u 4 true (fun s c => waitOwn s c .fence)))

/-! ## Signal words (R176) -/

/-- The partition whose signal words a core's kernel acts on. -/
def sigPart (s : State) (c : Nat) : Nat := (workFor s (.core c)).1

/-- Issue an instruction on the signal word that xA names. -/
def issueSig (s : State) (u : Exu) (a : BitVec 5) (f : State → Nat → Nat → State) : State :=
  issueCore s u 4 true (fun s c =>
    let i := (xget (getRf s u) a).data.toNat
    if i < 4096 then f s c i else raiseExc s u .sigRange)

/-- SIGW: the core waits, and goes on at once when the word meets the value. -/
def sigWait (s : State) (c w : Nat) (v : Word) : State :=
  if sigMet (sigGet s (sigPart s c) w) v.toNat then pass s c
  else setCore s c { getCore s c with wait := some (.sigw w v) }

def execSigw (u : Exu) (a b : BitVec 5) (s : State) : Out :=
  onUnit (exuOk u) (inService s (fun s => issueSig s u a (fun s c w =>
    sigWait s c w ((xget (getRf s u) b).data.setWidth 32))))

/-- A PUT of the core is not yet visible: a SIGP applies only after it (R176). -/
def putsPending (s : State) : Exu → Bool
  | .core c => (getCore s c).dma.any (·.put)
  | .upd _ => false

def execSigpSet (u : Exu) (a b : BitVec 5) (s : State) : Out :=
  onUnit (exuOk u) (inService s (fun s =>
    if putsPending s u then s
    else issueSig s u a (fun s c w => sigSet (pass s c) (sigPart s c) w ((xget (getRf s u) b).data.toNat))))

def execSigpAdd (u : Exu) (a b : BitVec 5) (s : State) : Out :=
  onUnit (exuOk u) (inService s (fun s =>
    if putsPending s u then s
    else issueSig s u a (fun s c w => sigAdd (pass s c) (sigPart s c) w ((xget (getRf s u) b).data.toNat % 2 ^ 32))))

def execSigr (u : Exu) (d a : BitVec 5) (s : State) : Out :=
  onUnit (exuOk u) (inService s (fun s => issueSig s u a (fun s c w =>
    setX s u d ⟨BitVec.ofNat 64 (sigGet s (sigPart s c) w), (xget (getRf s u) a).poison⟩)))

/-! ## Barriers (R178, R218) -/

def execBar (u : Exu) (d : BitVec 5) (scope : Bool) (id : BitVec 2) (s : State) : Out :=
  onUnit (exuOk u) (inService s (fun s => issueCore s u 4 true (fun s c =>
    setCore s c { getCore s c with wait := some (.bar scope id.toNat d.toNat) })))

/-- A waiting core goes on: xD = 1 when a participant counted as arrived without arriving. -/
def barPass (s : State) (scope : Bool) (id : Nat) (gone : Bool) (c : Nat) : State :=
  let k := getCore s c
  match barAt k scope id with
  | none => s
  | some d => setCore s c (passWait { k with rf := xput k.rf (BitVec.ofNat 5 d) ⟨boolWord gone, false⟩ })

def barrierRelease (s : State) (scope : Bool) (lc id : Nat) : State :=
  let cs := barCores s scope lc
  if barComplete s cs scope id && !cs.any (tokenDue s) then
    forEach cs s (fun s c => barPass s scope id (cs.any (barGone s)) c)
  else s

def execBarrierRelease (scope : Bool) (lc : Nat) (id : BitVec 2) (s : State) : Out :=
  onUnit (lcOk lc) (inService s (fun s => barrierRelease s scope lc id.toNat))

/-! ## Doorbells (R179) -/

/-- What a DBELL answers: 1 an absent target, 2 a target outside the LAUNCH, 0 delivery. DESIGN CHOICE (log entry 27):
1 where the target is both. -/
def bellAnswer (s : State) (c target : Nat) : Nat :=
  if coreAbsent s target then 1
  else match (getCore s c).kernel with
    | some k => if k.mask.getLsbD (target / 16) then 0 else 2
    | none => 2

def doorbell (s : State) (u : Exu) (c : Nat) (d a b : BitVec 5) : State :=
  let r := getRf s u
  let target := (xget r a).data.toNat % 1024
  let x := xget r b
  let n := bellAnswer s c target
  let s := if n = 0 then { s with bells := s.bells ++ [{ core := target, val := x.data.setWidth 32 }] } else s
  setX s u d ⟨BitVec.ofNat 64 n, (xget r a).poison || x.poison⟩

def execDbell (u : Exu) (d a b : BitVec 5) (s : State) : Out :=
  onUnit (exuOk u) (inService s (fun s => issueCore s u 4 true (fun s c => doorbell s u c d a b)))

/-- A DWAIT whose bits are there ends: xD = DB AND xA, and those bits clear. -/
def dwaitPass (k : Core) : Core :=
  match k.wait with
  | some (.dwait m d p) =>
    if !k.stopped && k.db &&& m != 0 then
      passWait { k with db := k.db &&& ~~~m, rf := xput k.rf (BitVec.ofNat 5 d) ⟨(k.db &&& m).setWidth 64, p⟩ }
    else k
  | _ => k

def execDwait (u : Exu) (d a : BitVec 5) (s : State) : Out :=
  onUnit (exuOk u) (inService s (fun s => issueCore s u 4 true (fun s c =>
    let k := getCore s c
    setCore s c (dwaitPass { k with wait := some (.dwait ((xget k.rf a).data.setWidth 32) d.toNat (xget k.rf a).poison) }))))

/-- A doorbell arrives: it merges into DB by OR, also before the core has started, or is discarded after the
core's END. -/
def bellLand (k : Core) (v : Word) : Core :=
  if k.gone then k else dwaitPass { k with db := k.db ||| v }

/-- The oldest doorbell of a core is delivered, after the messages of a higher kind (R216). -/
def bellArrival (s : State) (c : Nat) : State :=
  match s.bells.find? (fun b => b.core == c) with
  | none => s
  | some b =>
    if tokenDue s c || releaseDue s c then s
    else setCore { s with bells := s.bells.erase b } c (bellLand (getCore s c) b.val)

def execDoorbellArrival (c : Nat) (s : State) : Out :=
  onUnit (coreOk c) (inService s (fun s => bellArrival s c))

/-! ## STOPT (R180, R338) -/

/-- A kernel of partition 0 may stop the device while KSTOP_EN is set. -/
def mayStop (s : State) (c : Nat) : Bool := sigPart s c == 0 && getB s F.DBG_STOP_CTRL_KSTOP_EN

def execStopt (u : Exu) (s : State) : Out :=
  onUnit (exuOk u) (inService s (fun s => issueCore s u 4 true (fun s c =>
    if mayStop s c then stopRequest (pass s c) 1 else raiseExc s u .priv)))

end Sys2Proof.Machine
end

