-- ==== Sys2Proof/Machine/Update.lean ====
section
/-! DEFINITION. The meanings of the parameter update engine (R185 to R205). -/

namespace Sys2Proof.Machine

/-! ## Group entries (R187, R188) -/

/-- A write of UPD_GROUP_DATA stages one word of a group entry. -/
def groupDataWrite (s : State) (j v : Nat) : State :=
  let keep := s.groupStage &&& ~~~(BitVec.ofNat 1024 ((2 ^ 32 - 1) * 2 ^ (32 * j)))
  { s with groupStage := keep ||| BitVec.ofNat 1024 (v % 2 ^ 32 * 2 ^ (32 * j)), groupStaged := true }

/-- A write of UPD_GROUP_SEL: the words staged stay for WRITE, and reads return the entry again. -/
def groupSelWrite (s : State) (v : Nat) : State :=
  { setF s F.UPD_GROUP_SEL_GROUP v with groupStaged := false }

/-- Reserved bits, format and state count of an entry (code 1). -/
def grpFieldsOk (g : Group) : Bool :=
  bits (grpField g 0 1) 7 3 == 0 && bits (grpField g 4 2) 15 12 == 0 && bits (grpField g 6 1) 7 4 == 0 &&
    grpField g 7 1 == 0 && bits (grpField g 12 2) 15 12 == 0 && grpField g 14 2 == 0 &&
    [16, 24, 32, 40, 48].all (fun a => bits (grpField g a 8) 63 52 == 0) && grpField g 62 2 == 0 &&
    bits (grpField g 68 1) 7 1 == 0 && grpField g 69 3 == 0 && grpField g 76 52 == 0 &&
    decide (1 ≤ grpWfmt g) && decide (grpWfmt g ≤ 11) && decide (grpNstate g ≤ 4)

/-- Alignment of addresses and VSTRIDE, and the extent of each region (code 2). -/
def grpAlignOk (g : Group) : Bool :=
  let al := max 1 (tileBits (grpWfmt g) / 8)
  let fits (base n : Nat) : Bool := decide (n ≤ grpStride g) && decide (base + grpStride g + n ≤ 2 ^ 52)
  grpWva g % al == 0 && (grpNstate g == 0 || grpStva g % stSize g == 0) && grpStride g % 4096 == 0 &&
    decide (1 ≤ grpNblk g) && decide (grpNblk g ≤ 2 ^ 27) && fits (grpWva g) (wBytes g) &&
    (wsBytes g == 0 || fits (grpWsva g) (wsBytes g)) && (stBytes g == 0 || fits (grpStva g) (stBytes g)) &&
    (!grpMaskEn g || decide (grpMva g + grpNblk g * 4 ≤ 2 ^ 52))

/-- An entry offset within the store (code 3). -/
def entryOk (e : Nat) : Bool := e % 4 == 0 && decide (e < 32768)

def grpEntriesOk (g : Group) : Bool :=
  (grpPro g == noEntry || entryOk (grpPro g)) && (grpStat g == noEntry || entryOk (grpStat g)) && entryOk (grpApply g)

/-- The virtual ranges of both versions of a group. -/
def grpRanges (g : Group) : List (Nat × Nat) := copyRanges g 0 ++ copyRanges g 1

/-- Two groups overlap within one context. -/
def grpsMeet (a b : Group) : Bool :=
  grpCtx a == grpCtx b && (grpRanges a).any (fun x => (grpRanges b).any (fun y => rangesMeet x.1 x.2 y.1 y.2))

/-- Overlap with another group that is served (code 5). -/
def meetsServed (s : State) (n : Nat) (g : Group) : Bool :=
  s.groups.any (fun p => p.1 != n && p.2.valid && grpServed p.2 && grpsMeet g p.2)

/-- The code with which a group write is refused (*Table: Group write error codes*). -/
def groupError (s : State) (n : Nat) (g : Group) : Option Nat :=
  if !grpFieldsOk g then some 1
  else if !grpAlignOk g then some 2
  else if !grpEntriesOk g then some 3
  else if grpServed g && grpOwner g != 0 then some 4
  else if meetsServed s n g then some 5
  else if (getGroup s n).busy then some 6
  else none

/-- A group write or invalidation is refused. -/
def groupRefuse (s : State) (code : Nat) : State :=
  raiseCfg (setF (setB s F.UPD_GROUP_STATUS_ERR true) F.UPD_GROUP_STATUS_ERR_CODE code) 0x6005 0x500018 code

/-- UPD_GROUP_CMD.WRITE. -/
def groupDefine (s : State) : State :=
  let n := getF s F.UPD_GROUP_SEL_GROUP
  let g : Group := { Group.zero with data := s.groupStage, valid := true }
  let s := { s with groupStaged := false }
  match groupError s n g with
  | some e => groupRefuse s e
  | none => regionPut (setGroup s n g) (grpOwner g) (curveAddr s n 0) (List.replicate 256 0)

/-- UPD_GROUP_CMD.INVALIDATE. -/
def groupInvalid (s : State) : State :=
  let n := getF s F.UPD_GROUP_SEL_GROUP
  if (getGroup s n).busy then groupRefuse s 6 else setGroup s n { getGroup s n with valid := false }

/-- A write of UPD_GROUP_CMD. -/
def groupCmd (s : State) (v : Nat) : State :=
  let s := if v.testBit 0 then groupDefine s else s
  if v.testBit 1 then groupInvalid s else s

def execGroupWrite (v : BitVec 32) (s : State) : Out := done (inService s (memGate (.groupWrite v) (fun s => groupCmd s v.toNat)))

def execGroupInvalidate (v : BitVec 32) (s : State) : Out := done (inService s (memGate (.groupInvalidate v) (fun s => groupCmd s v.toNat)))

/-- A write of UPD_PSTORE_DATA (R186). -/
def pstoreWrite (s : State) (v : Nat) : State :=
  if getB s F.UPD_CFG_EN || (List.range 72).any (fun u => getF s (F.UPD_UNIT_STATUS_STATE u) == 2) then
    raiseCfg s 0x6005 0x500024 0
  else
    let a := getF s F.UPD_PSTORE_ADDR_ADDR
    setF { s with pstore := sput 0 s.pstore a (BitVec.ofNat 32 v) } F.UPD_PSTORE_ADDR_ADDR (a + 1)

def execPstoreWrite (v : BitVec 32) (s : State) : Out := done (inService s (fun s => pstoreWrite s v.toNat))

/-! ## Checks (R191) -/

def cGroup (c : CmdWord) : Nat := bits (cmdField c 32 2) 11 0

/-- Checks 1 to 5 (a breach of rights counts, R22), which UPDATE and SCHEDULE_SET share: the state after a failing check, and its result. -/
def updChecks (s : State) (q : Nat) (c : CmdWord) : Option (State × Result) :=
  let g := getGroup s (cGroup c)
  let p := partOf s q
  let no (st sub : Nat) : Result := { status := st, sub := sub, detail := 0, noSig := true }
  let denied := countOp s p 31 1
  if !getB s F.UPD_CFG_EN then some (s, no stNotReady 0)
  else if !g.valid then some (s, no stInvalid 0x0600)
  else if !(p == grpOwner g || (grpShare g).testBit p) then some (denied, no stPermission 0)
  else if grpServed g && p != 0 then some (incF s F.UPD_FROZEN_CNT, no stFrozen 0)
  else if p != grpOwner g then some (denied, no stPermission 0)
  else none

/-- The gradient format and the version expectation of an UPDATE. -/
def cGbf16 (c : CmdWord) : Bool := (cmdField c 34 1).testBit 0
def cExpectEn (c : CmdWord) : Bool := (cmdField c 34 1).testBit 1
def cExpect (c : CmdWord) : Nat := cmdField c 36 4
def cGrad (c : CmdWord) : Nat := cmdField c 40 8
def gradSize (c : CmdWord) : Nat := if cGbf16 c then 2 else 4

/-- Reserved fields of the UPDATE body, and the alignment of GRAD (check 6). -/
def updFields (c : CmdWord) : Bool :=
  bits (cmdField c 32 2) 15 12 == 0 && bits (cmdField c 34 1) 7 2 == 0 && cmdField c 35 1 == 0 &&
    cmdField c 56 8 == 0 && cGrad c % gradSize c == 0

/-- An earlier dispatched command of the group has not completed (R192). -/
def earlierOfGroup (s : State) (o : OpenCmd) : Bool :=
  (s.open_.takeWhile (fun x => !isCmd o.q o.tag x)).any (fun x =>
    engineOf s x.q == 4 && cGroup x.cmd == cGroup o.cmd)

/-- The engine receives an UPDATE: checks 1 to 6, then it holds the command with BUSY set (R192). -/
def update (s : State) (q tag : Nat) : State :=
  match toBegin s q tag 0x40 with
  | none => s
  | some o =>
    match updChecks s q o.cmd with
    | some (s, r) => answer s q tag r 0
    | none =>
      if !updFields o.cmd then answer s q tag { status := stInvalid, sub := 0x0601, detail := 0, noSig := true } 0
      else
        let s := updCmd s q tag (fun o => { o with begun := true })
        let x : Upd := { q := q, tag := tag, group := cGroup o.cmd, step := 0, pass := .hold, todo := [],
                         frozen := 0, stats := [], pro := [], fails := [], bad := [] }
        syncBusy { s with upds := s.upds ++ [x] } (cGroup o.cmd)

def execUpdate (q tag : Nat) (s : State) : Out :=
  onUnit (queueOk q) (inService s (memGate (.update q tag) (fun s => update s q tag)))

/-! ## One block (R185, R194, R198) -/

/-- Virtual addresses of a block's scale and state words of a copy. -/
def wsAt (g : Group) (v b : Nat) : Nat := grpWsva g + copyOff g v + b
def stAt (g : Group) (v k b : Nat) : Nat := grpStva g + copyOff g v + (k * grpNblk g * 32 + b * 32) * stSize g

/-- What a block finds in a range: the number it holds, its words by address, and why the block fails. -/
structure BlkRange where
  value : Nat
  words : List (Nat × PWord)
  fail : Option Result
  deriving DecidableEq, Repr

/-- Read a range for a block. -/
def blkRead (s : State) (ctx va n : Nat) : State × BlkRange :=
  let r := vreadWords s ctx va .engine (wordAddrs va n)
  let all := r.2.1.flatMap (fun w => bytesOf 8 w.data.toNat)
  (r.1, { value := natOf ((all.drop (va % 8)).take n), words := (wordAddrs va n).zip r.2.1,
          fail := r.2.2.or (if r.2.1.any (·.poison) then some (plainResult stUe) else none) })

/-- Read every range of a block. -/
def blkReads (s : State) (ctx : Nat) : List (Nat × Nat) → State × List BlkRange
  | [] => (s, [])
  | (va, n) :: rest =>
    let r := blkRead s ctx va n
    let t := blkReads r.1 ctx rest
    (t.1, r.2 :: t.2)

/-- The ranges that a block reads: mask, elements, scale, gradient, state words. -/
def blkRanges (g : Group) (c : CmdWord) (v b : Nat) : List (Nat × Nat) :=
  [(grpMva g + 4 * b, if grpMaskEn g then 4 else 0), (wAt g v b, blkBytes g),
   (wsAt g v b, if (tileMx (grpWfmt g)).isSome then 1 else 0), (cGrad c + 32 * b * gradSize c, 32 * gradSize c)] ++
    (List.range (grpNstate g)).map (fun k => (stAt g v k b, 32 * stSize g))

/-- A value of a 16-bit or 32-bit array, as FP32. -/
def arrF32 (bf16 : Bool) (v i : Nat) : Word :=
  if bf16 then enc32 (fdec fmtBF16 (codeAt 16 v i)) else BitVec.ofNat 32 (codeAt 32 v i)

/-- The block that the values of its ranges are. -/
def blkOf (c : CmdWord) (vs : List Nat) : Blk :=
  { mask := BitVec.ofNat 32 (vs.getD 0 0), codes := vs.getD 1 0, scale := vs.getD 2 0,
    grad := lanes.map (arrF32 (cGbf16 c) (vs.getD 3 0)), st := vs.drop 4 }

/-- Read a block of the current version: its ranges, and the block or its first failure. -/
def readBlk (s : State) (g : Group) (c : CmdWord) (v b : Nat) : State × List BlkRange × Except Result Blk :=
  if ctxForeign s (grpOwner g) (grpCtx g) then (s, [], .error permResult)
  else
    let r := blkReads s (grpCtx g) (blkRanges g c v b)
    (r.1, r.2, match r.2.findSome? (·.fail) with
      | some f => .error f
      | none => .ok (blkOf c (r.2.map (·.value))))

/-- A weight, dequantised exactly to FP32. -/
def wValue (g : Group) (k : Blk) (i : Nat) : Word :=
  let code := codeAt (tileBits (grpWfmt g)) k.codes i
  enc32 (match tileMx (grpWfmt g) with
    | some m => mxDec m k.scale code
    | none => plainVal (grpWfmt g) code)

/-! ## Schedules (R203, R204) -/

/-- A number as FP32. -/
def natF32 (n : Nat) : Word := enc32 (.fin false n 0)

/-- The value of a curve at a step. -/
def curveAt (pts : List (Nat × Word)) (s : Nat) : Word :=
  match pts.head?, pts.getLast? with
  | some p0, some pn =>
    if s ≤ p0.1 then p0.2
    else if pn.1 ≤ s then pn.2
    else
      let i := (pts.takeWhile (fun p => p.1 ≤ s)).length - 1
      let a := pts.getD i (0, 0)
      let b := pts.getD (i + 1) (0, 0)
      fadd a.2 (fmul (fdiv (natF32 (s - a.1)) (natF32 (b.1 - a.1))) (fsub b.2 a.2))
  | _, _ => 0

/-! ## Rule registers at entry (R194) -/

/-- Set every lane of a v register. -/
def setV (r : RegFile) (n : Nat) (vs : List Word) : RegFile :=
  lanes.foldl (fun r i => vput r (BitVec.ofNat 5 n) i (vs.getD i 0, false)) r

/-- Set consecutive v registers from a list of lanes. -/
def setVs (r : RegFile) (n count : Nat) (vs : List Word) : RegFile :=
  (List.range count).foldl (fun r j => setV r (n + j) ((vs.drop (32 * j)).take 32)) r

/-- Registers that every entry shares. -/
def baseRegs (g : Group) (x : Upd) (c : CmdWord) (entry b : Nat) (p1 : Word) : RegFile :=
  let r : RegFile := { RegFile.zero with pc := entry }
  let r := (List.range 4).foldl (fun r k => setV r (8 + k) (List.replicate 32 (curveAt (g.curves.getD k []) x.step))) r
  let r := xput (xput r 10 ⟨BitVec.ofNat 64 x.step, false⟩) 11 ⟨BitVec.ofNat 64 b, false⟩
  pput (xput r 12 ⟨BitVec.ofNat 64 (cmdField c 48 8), false⟩) 1 p1

/-- Registers of a statistics or apply entry. -/
def blockRegs (g : Group) (x : Upd) (c : CmdWord) (b : Nat) (k : Blk) : RegFile :=
  let entry := if x.pass = .stats then grpStat g else grpApply g
  let r := baseRegs g x c entry b (~~~k.mask)
  let r := setV (setV r 0 (lanes.map (wValue g k))) 1 k.grad
  let r := (List.range (grpNstate g)).foldl (fun r j =>
    setV r (2 + j) (lanes.map (arrF32 (grpSbf16 g) (k.st.getD j 0)))) r
  if x.pass = .apply then setVs r 16 16 x.pro else r

/-- The smallest exponent whose power of two reaches a number. -/
def clog2 (n : Nat) : Nat := if n ≤ 1 then 0 else (n - 1).log2 + 1

/-- The FP32 sums of the statistics outputs, by a balanced tree over block index (R195). -/
def statSums (g : Group) (x : Upd) : List Word :=
  if grpStat g = noEntry then List.replicate 256 0
  else
    let k := clog2 (grpNblk g)
    (List.range 256).map (fun j =>
      fsumTree k ((List.range (2 ^ k)).map (fun b => (sget [] x.stats b).getD j 0)))

/-- Registers of the prologue entry. -/
def proRegs (g : Group) (x : Upd) (c : CmdWord) : RegFile :=
  setVs (baseRegs g x c (grpPro g) proBlock 0xFFFFFFFF#32) 24 8 (statSums g x)

/-! ## Starting blocks -/

/-- The instruction limit of an invocation (R197). -/
def instrLimit (s : State) (pro : Bool) : Nat :=
  max 64 (getF s F.UPD_CFG_MAX_INSTR) * (if pro then 64 else 1)

/-- Start an invocation on a unit. -/
def startInv (s : State) (u : Nat) (x : Upd) (b : Nat) (blk : Option Blk) (r : RegFile) : State :=
  let i : Invocation := { q := x.q, tag := x.tag, pass := x.pass, block := b, blk := blk, count := 0, ended := false,
                          exc := none, limit := instrLimit s (b == proBlock) }
  let s := setUnit s u { getUnit s u with rf := r }
  let s := setInv s u (some i)
  if b = proBlock then s
  else
    countOp s (partOf s x.q) 29 1

/-- Write a range of the new copy; the first failure stays (R42 by the group's owner). -/
def blkWrite (acc : State × Option Result) (g : Group) (va : Nat) (bs : List Byte) : State × Option Result :=
  let r := ownedWrite acc.1 (grpOwner g) (grpCtx g) va bs false
  (r.1, acc.2.or r.2)

/-- Write a block of the new copy. -/
def writeBlk (s : State) (g : Group) (x : Upd) (b : Nat) (k : Blk) : State × Option Result :=
  let v := x.step + 1
  let acc := blkWrite (s, none) g (wAt g v b) (bytesOf (blkBytes g) k.codes)
  let acc := if (tileMx (grpWfmt g)).isSome then blkWrite acc g (wsAt g v b) (bytesOf 1 k.scale) else acc
  (List.range (grpNstate g)).foldl (fun acc j =>
    blkWrite acc g (stAt g v j b) (bytesOf (32 * stSize g) (k.st.getD j 0))) acc

/-- Frozen elements of a mask. -/
def frozenOf (m : Word) : Nat := (lanesOn m).length

/-- Note a failing item. -/
def failBlk (x : Upd) (b : Nat) (r : Result) : Upd := { x with fails := x.fails ++ [{ seq := b, res := r }] }

/-- Words that a block reads from the current copy: elements, scale, state. -/
def blkWords (g : Group) (v b : Nat) : List (Nat × Nat) :=
  [(wAt g v b, blkBytes g), (wsAt g v b, if (tileMx (grpWfmt g)).isSome then 1 else 0)] ++
    (List.range (grpNstate g)).map (fun k => (stAt g v k b, 32 * stSize g))

/-- The ranges as read of the words that a block keeps: elements, scale, state. -/
def keptRanges (rs : List BlkRange) : List BlkRange := (rs.drop 1).take 2 ++ rs.drop 4

/-- A word of a block that was read poisoned or uncorrectable is stored poisoned in the new copy (R205). -/
def storeBad (s : State) (g : Group) (x : Upd) (b : Nat) (rs : List BlkRange) : State × Upd :=
  (((blkWords g x.step b).zip (blkWords g (x.step + 1) b)).zip (keptRanges rs)).foldl (fun (acc : State × Upd) p =>
    (p.2.words.filter (·.2.poison)).foldl (fun (acc : State × Upd) k =>
      let lo := firstByte p.1.1.1 k.1
      let n := min (p.1.1.1 + p.1.1.2) (k.1 + 8) - lo
      let at_ := p.1.2.1 + (lo - p.1.1.1)
      let bs := bytesOf n (k.2.data.toNat / 2 ^ (8 * (lo - k.1)))
      ((ownedWrite acc.1 (grpOwner g) (grpCtx g) at_ bs true).1,
        { acc.2 with bad := acc.2.bad ++ [(at_, n)] })) acc) (s, x)

/-- Begin a block on a unit: a block whose elements are all frozen runs no invocation and is copied
whole (R198). -/
def startBlk (s : State) (u : Nat) (x : Upd) (c : CmdWord) (b : Nat) : State :=
  let g := getGroup s x.group
  if b = proBlock then startInv s u x b none (proRegs g x c)
  else
    match readBlk s g c x.step b with
    | (s, rs, .error r) =>
      let p := if x.pass = .apply then storeBad s g x b rs else (s, x)
      putUpd p.1 (failBlk p.2 b r)
    | (s, _, .ok k) =>
      let x := if x.pass = .apply then { x with frozen := x.frozen + frozenOf k.mask } else x
      if k.mask = 0xFFFFFFFF#32 then
        if x.pass = .apply then
          match writeBlk s g x b k with
          | (s, some r) => putUpd (incF s F.UPD_BLOCKS) (failBlk x b r)
          | (s, none) => putUpd (incF s F.UPD_BLOCKS) x
        else putUpd s x
      else startInv (putUpd s x) u x b (some k) (blockRegs g x c b k)

/-- The first UPDATE with a block for a unit. -/
def nextFor (s : State) (u : Nat) : Option (Upd × Nat) :=
  s.upds.findSome? (fun x => (sget [] x.todo u).head?.map (fun b => (x, b)))

/-- Give a unit that is free its next block, until one runs an invocation or none is left; the engine issues none
while it is stopped (R339). -/
def pump (s : State) (u : Nat) : Nat → State
  | 0 => s
  | n + 1 =>
    if (getUnit s u).inv.isSome || feStopped s 4 then s
    else match nextFor s u with
      | none => s
      | some (x, b) =>
        let x := { x with todo := sput [] x.todo u ((sget [] x.todo u).drop 1) }
        match findCmd s x.q x.tag with
        | none => putUpd s x
        | some o => pump (startBlk (putUpd s x) u x o.cmd b) u n

/-- The number of blocks that wait for a unit. -/
def waitingFor (s : State) (u : Nat) : Nat := (s.upds.map (fun x => (sget [] x.todo u).length)).foldl (· + ·) 0

/-- Give every free unit work, then settle the passes. -/
def pumpAll (s : State) : State :=
  settleUpds (forEach (List.range 72) s (fun s u => pump s u (waitingFor s u)))

/-! ## Assigning blocks (R185) -/

/-- The update unit of a logical cluster that takes work. -/
def activeUnit (s : State) (lc : Nat) : Option Nat :=
  if (getF s F.EVT_FENCED_UPD).testBit lc then none else unitOfLc s lc

/-- The unit of a block: of the cluster whose column holds its first byte in the version being read. Through a
context of another partition than the owner nothing is touched (R42). -/
def unitFor (s : State) (g : Group) (v b : Nat) : State × Except Result Nat :=
  if ctxForeign s (grpOwner g) (grpCtx g) then (s, .error permResult)
  else
    match translate s (grpCtx g) (wAt g v b) .read with
    | (s, .error f) => (s, .error (xResult f (wAt g v b)))
    | (s, .ok dpa) =>
      (s, match activeUnit s (dpaCol dpa / 16) with
        | some u => .ok u
        | none => .error (plainResult stFenced))

/-- Assign blocks to units; a block with no unit fails. -/
def assign (s : State) (g : Group) (x : Upd) (bs : List Nat) : State × Upd :=
  bs.foldl (fun (acc : State × Upd) b =>
    match unitFor acc.1 g x.step b with
    | (s, .ok u) => (s, { acc.2 with todo := sput [] acc.2.todo u (sget [] acc.2.todo u ++ [b]) })
    | (s, .error r) => (s, failBlk acc.2 b r)) (s, x)

/-- Begin a pass over every block. -/
def beginPass (s : State) (g : Group) (x : Upd) (p : Pass) : State :=
  let r := assign s g { x with pass := p, todo := [] } (List.range (grpNblk g))
  pumpAll (putUpd r.1 r.2)

/-- Every command to drain before an UPDATE has completed; those that wait for this one do not count. -/
def drained (s : State) (g : Group) (n : Nat) : Bool :=
  g.drain.all (fun d => s.open_.all (fun o =>
    !(o.q == d.1 && o.abs == d.2) || (engineOf s o.q == 4 && cGroup o.cmd == n)))

/-- An UPDATE starts under R192: the VERSION check, then the statistics pass, when there is one. -/
def updateStart (s : State) (q tag : Nat) : State :=
  match findUpd s q tag, findCmd s q tag with
  | some x, some o =>
    let g := getGroup s x.group
    if x.pass != .hold || o.items.isSome || feStopped s 4 || earlierOfGroup s o || !drained s g x.group then s
    else if cExpectEn o.cmd && g.version != cExpect o.cmd then
      answer s q tag { status := stInvalid, sub := 0x0602, detail := 0, noSig := true } 0
    else
      let x := { x with step := g.version }
      if grpStat g = noEntry then putUpd s { x with pass := .statsDone } else beginPass s g x .stats
  | _, _ => s

def execUpdateStart (q tag : Nat) (s : State) : Out :=
  onUnit (queueOk q) (inService s (memGate (.updateStart q tag) (fun s => updateStart s q tag)))

/-- The home unit runs the prologue (R193). -/
def prologueStart (s : State) (q tag : Nat) : State :=
  match findUpd s q tag, findCmd s q tag with
  | some x, some o =>
    let g := getGroup s x.group
    if x.pass != .statsDone || grpPro g == noEntry || o.items.isSome || feStopped s 4 then s
    else
      match activeUnit s (o.join % 64) with
      | none => settleUpds (putUpd s (failBlk { x with pass := .prologue, todo := [] } proBlock (plainResult stFenced)))
      | some u => pumpAll (putUpd s { x with pass := .prologue, todo := [(u, [proBlock])] })
  | _, _ => s

def execPrologueStart (q tag : Nat) (s : State) : Out :=
  onUnit (queueOk q) (inService s (memGate (.prologueStart q tag) (fun s => prologueStart s q tag)))

/-- The apply pass starts once the prologue values have reached every unit (R193, R196). -/
def applyPassStart (s : State) (q tag : Nat) : State :=
  match findUpd s q tag, findCmd s q tag with
  | some x, some o =>
    let g := getGroup s x.group
    if o.items.isNone && !feStopped s 4 && (x.pass == .prologueDone || (x.pass == .statsDone && grpPro g == noEntry)) then
      beginPass s g x .apply
    else s
  | _, _ => s

def execApplyPassStart (q tag : Nat) (s : State) : Out :=
  onUnit (queueOk q) (inService s (memGate (.applyPassStart q tag) (fun s => applyPassStart s q tag)))

/-! ## The end of an invocation (R193 to R200) -/

/-- Consecutive v registers as a list of lanes. -/
def getVs (r : RegFile) (n count : Nat) : List Word :=
  (List.range count).flatMap (fun j => lanesOf r (BitVec.ofNat 5 (n + j)))

/-- Element codes and scale of the new copy (R198, R199). -/
def requant (g : Group) (k : Blk) (out : List Word) : Nat × Nat :=
  let w := tileBits (grpWfmt g)
  let vs := out.map dec32
  let keep (new : Nat → Nat) : Nat :=
    packCodes w (lanes.map (fun i => if k.mask.getLsbD i then codeAt w k.codes i else new i))
  match tileMx (grpWfmt g) with
  | none => (keep (fun i => fround (outFmt (grpWfmt g)) (vs.getD i .nan)), k.scale)
  | some m =>
    if k.mask = 0 then (packCodes w (mxCodes m vs), mxScale m vs)
    else (keep (fun i => m.enc (exDiv (vs.getD i .nan) (e8m0 k.scale))), k.scale)

/-- A state array of the new copy (R198). -/
def requantSt (g : Group) (k : Blk) (j : Nat) (out : List Word) : Nat :=
  let w := 8 * stSize g
  packCodes w (lanes.map (fun i =>
    if k.mask.getLsbD i then codeAt w (k.st.getD j 0) i
    else if grpSbf16 g then fround fmtBF16 (dec32 (out.getD i 0)) else (out.getD i 0).toNat))

/-- The block as it is stored after an apply invocation. -/
def newBlk (g : Group) (k : Blk) (r : RegFile) : Blk :=
  let w := requant g k (lanesOf r 0)
  { k with codes := w.1, scale := w.2,
           st := (List.range (grpNstate g)).map (fun j => requantSt g k j (lanesOf r (BitVec.ofNat 5 (2 + j)))) }

/-- Every unfrozen output is finite, as FP32 and as stored (R200). -/
def blkFinite (g : Group) (k n : Blk) (r : RegFile) : Bool :=
  (lanes.filter (fun i => !k.mask.getLsbD i)).all (fun i =>
    ffinite (vget r 0 i).1 && ffinite (wValue g n i) &&
      (List.range (grpNstate g)).all (fun j =>
        ffinite (vget r (BitVec.ofNat 5 (2 + j)) i).1 && ffinite (arrF32 (grpSbf16 g) (n.st.getD j 0) i)))

/-- The engine takes the outputs of an apply invocation. -/
def applyEnd (s : State) (x : Upd) (b : Nat) (k : Blk) (r : RegFile) : State :=
  let g := getGroup s x.group
  let n := newBlk g k r
  let w := writeBlk s g x b n
  match w.2 with
  | some e => putUpd w.1 (failBlk x b e)
  | none =>
    if blkFinite g k n r then putUpd w.1 x
    else putUpd w.1 (failBlk x b { status := stNonfinite, sub := 0, detail := 0 })

/-- The engine takes the outputs of an invocation by its pass. -/
def takeOutputs (s : State) (x : Upd) (i : Invocation) (r : RegFile) : State :=
  match i.exc, i.blk with
  | some e, _ => putUpd s (failBlk x i.block e)
  | none, none => putUpd s { x with pro := getVs r 16 16 }
  | none, some k =>
    if i.pass = .stats then putUpd s { x with stats := sput [] x.stats i.block (getVs r 24 8) }
    else applyEnd s x i.block k r

/-- An invocation that has ended hands over its outputs, and its unit takes its next block. -/
def invocationEnd (s : State) (u : Nat) : State :=
  let k := getUnit s u
  match k.inv with
  | none => s
  | some i =>
    if !i.ended then s
    else match findUpd s i.q i.tag, findCmd s i.q i.tag with
      | some x, some _ =>
        let s := takeOutputs s x i k.rf
        let s := if i.block = proBlock then s else incF s F.UPD_BLOCKS
        pumpAll (setInv s u none)
      | _, _ => setInv s u none

def execUpdateInvocationEnd (u : Nat) (s : State) : Out :=
  onUnit (unitOk u) (inService s (memGate (.updateInvocationEnd u) (fun s => invocationEnd s u)))

/-- An invocation that would execute more than its limit ends there (R197). -/
def ruleLimit (s : State) (u : Nat) : State :=
  match (getUnit s u).inv with
  | some i =>
    if !i.ended && decide (i.limit ≤ i.count) then
      endInvocation s u { status := stInvalid, sub := 0x0603, detail := unitDetail s u }
    else s
  | none => s

def execRuleLimit (u : Nat) (s : State) : Out :=
  onUnit (unitOk u) (inService s (memGate (.ruleLimit u) (fun s => ruleLimit s u)))

/-! ## SCHEDULE_SET (R203) -/

def cCurve (c : CmdWord) : Nat := bits (cmdField c 34 1) 1 0
def cNpts (c : CmdWord) : Nat := cmdField c 35 1
def cSrcCtx48 (c : CmdWord) : Nat := bits (cmdField c 48 2) 11 0

/-- The body of a SCHEDULE_SET keeps its table. -/
def schedFields (c : CmdWord) : Bool :=
  bits (cmdField c 32 2) 15 12 == 0 && bits (cmdField c 34 1) 7 2 == 0 && decide (cNpts c ≤ 64) &&
    cmdField c 36 4 == 0 && bits (cmdField c 48 2) 15 12 == 0 && cmdField c 50 14 == 0

/-- Breakpoints from their bytes: step, then FP32 value. -/
def pointsOf (bs : List Byte) : List (Nat × Word) :=
  (blocksOf 8 bs).map (fun p => (natOf (p.take 4), BitVec.ofNat 32 (natOf (p.drop 4))))

/-- Steps strictly ascending, every value finite. -/
def pointsOk (l : List (Nat × Word)) : Bool :=
  sorted l && l.all (fun p => ffinite p.2)

/-- The curve is read and set. -/
def schedApply (s : State) (q tag : Nat) (c : CmdWord) : State :=
  let r := vreadBytes s (cSrcCtx48 c) (cmdField c 40 8) (8 * cNpts c) .read
  let s := r.1
  match r.2.fail with
  | some f => answer s q tag f 0
  | none =>
    if r.2.poison then answer s q tag (plainResult stUe) 0
    else
      let pts := pointsOf r.2.bytes
      if pointsOk pts then
        let g := getGroup s (cGroup c)
        let s := setGroup s (cGroup c) { g with curves := g.curves.set (cCurve c) pts }
        answer (regionPut s (partOf s q) (curveAddr s (cGroup c) (cCurve c)) (pts.map (fun p => p.1 + p.2.toNat * 2 ^ 32))) q tag okResult 0
      else answer s q tag (codeResult stInvalid 0x0604) 0

def scheduleSet (s : State) (q tag : Nat) : State :=
  match toBegin s q tag 0x41 with
  | none => s
  | some o =>
    match updChecks s q o.cmd with
    | some (s, r) => answer s q tag r 0
    | none =>
      if !schedFields o.cmd then answer s q tag { status := stInvalid, sub := 0x0601, detail := 0, noSig := true } 0
      else if foreignCtx s q (cSrcCtx48 o.cmd) then deny s q tag
      else if earlierOfGroup s o then s
      else if cNpts o.cmd == 0 && ctxDead s (cSrcCtx48 o.cmd) then ctxFault s q tag
      else schedApply s q tag o.cmd

def execScheduleSet (q tag : Nat) (s : State) : Out :=
  onUnit (queueOk q) (inService s (memGate (.scheduleSet q tag) (fun s => scheduleSet s q tag)))

/-! ## An update unit fails its internal check (R328) -/

/-- The unit is fenced; a spare that serves no cluster holds nothing. -/
def unitFails (s : State) (u : Nat) : State :=
  match (List.range 64).find? (fun lc => unitOfLc s lc == some u) with
  | some lc => fence s 10 lc 328
  | none => s

def execUpdateUnitCheckFail (u : Nat) (s : State) : Out :=
  onUnit (unitOk u) (inService s (memGate (.updateUnitCheckFail u) (fun s => unitFails s u)))

end Sys2Proof.Machine
end

