-- ==== Sys2Proof/Machine/Debug.lean ====
section
/-! DEFINITION. The meanings of counters, trace, global stop and link probes (R329 to R344). -/

namespace Sys2Proof.Machine

/-! ## Snapshots of the counters (R331) -/

/-- Copy the 32 counters of a partition into its shadow, with the time. -/
def snapPart (s : State) (p : Nat) : State :=
  let s := forEach (List.range 32) s (fun s i => setF s (F.CNT_SHADOW p i) (getF s (F.CNT p i)))
  setF s (F.CNT_SNAP_TIME p) s.time

/-- Copy the device-global and per-cluster counters. -/
def snapDevice (s : State) : State :=
  let s := forEach (List.range 32) s (fun s i => setF s (F.DBG_CNT_DEV_SHADOW i) (getF s (F.DBG_CNT_DEV i)))
  let s := forEach (List.range 64) s (fun s l =>
    forEach (List.range 32) s (fun s i => setF s (F.DBG_CNT_LC_SHADOW l i) (getF s (F.DBG_CNT_LC l i))))
  setF s F.DBG_CNT_SNAP_TIME s.time

/-- A write of a partition's CNT_SNAP word; the copy is whole at once, so no request meets another. -/
def cntSnapWrite (s : State) (p v : Nat) : State := if v = 1 then snapPart s p else s

def execCntSnap (fn : Nat) (v : BitVec 32) (s : State) : Out :=
  onUnit (fnOk fn) (inService s (fun s => if bar2On s fn then cntSnapWrite s fn v.toNat else s))

/-- A write of DBG_CNT_SNAP. -/
def devSnapWrite (s : State) (v : Nat) : State :=
  if v.testBit 0 then snapDevice (forEach (List.range 16) s snapPart) else s

def execDbgCntSnap (v : BitVec 32) (s : State) : Out := done (inService s (fun s => devSnapWrite s v.toNat))

/-! ## The trace (R332 to R337) -/

/-- A write of DBG_TRACE_BASE or DBG_TRACE_CFG while a trace is under way is ignored. -/
def traceCfgWrite (s : State) (d : RegDesc) (raw : Nat) : State :=
  let st := getF s F.DBG_TRACE_STATUS_STATE
  if st = 0 ∨ st = 3 then applyRanges (writeFlds s d 0 raw false) d.off 0 raw
  else raiseEv s 0x7105 sevWarn none 0x23 d.off 0 d.off

/-- The writable registers that TRACE_CONFIG_WRITE names. -/
def isTraceCfg (off : Nat) : Bool := 0x900000 ≤ off && off < 0x900010

/-- One access of 4 or 8 bytes to DBG_TRACE_BASE or DBG_TRACE_CFG. -/
def traceConfigWrite (s : State) (off size v : Nat) : State :=
  if accessOk off size && isTraceCfg off then
    match findReg off with
    | none => s
    | some (d, i) =>
      match bring s d.off (regRaw s d i) d.width (off - d.off) size v with
      | (s, .staged) => s
      | (s, .whole raw) => traceCfgWrite s d raw
  else s

def execTraceConfigWrite (off size : Nat) (v : BitVec 64) (s : State) : Out :=
  done (inService s (fun s => traceConfigWrite s off size v.toNat))

/-- A trace ends (R335). -/
def traceDone (s : State) : State :=
  let s := setB (setF s F.DBG_TRACE_STATUS_STATE 3) F.DBG_TRACE_CTRL_EN false
  let s := { s with trace := { s.trace with staging := [], dropped := 0, postLeft := none, draining := false } }
  raiseEv s 0x7102 sevInfo none 0 0 0 (getF s F.DBG_TRACE_DROP)

/-- A new trace starts (R337). -/
def traceStart (s : State) : State :=
  let s := setB (setB s F.DBG_TRACE_STATUS_WRAPPED false) F.DBG_TRACE_STATUS_TRIGGERED false
  let s := setF (setF s F.DBG_TRACE_STATUS_TRIG_EXTRA 0) F.DBG_TRACE_STATUS_STATE 1
  let s := setF (setF s F.DBG_TRACE_START 0) F.DBG_TRACE_WPTR 0
  { setB s F.DBG_TRACE_CTRL_EN true with trace := .zero }

/-- EN of a write of DBG_TRACE_CTRL: 1 starts a trace in IDLE or DONE, 0 stops one in PRE or POST, whose
staged records drain (R337). -/
def traceEn (s : State) (on : Bool) : State :=
  let st := getF s F.DBG_TRACE_STATUS_STATE
  let idle := st == 0 || st == 3
  if on then (if idle then traceStart s else s)
  else if idle then s
  else if s.trace.staging.isEmpty && s.trace.dropped == 0 then traceDone s
  else { setB s F.DBG_TRACE_CTRL_EN false with trace := { s.trace with draining := true } }

/-- A write of DBG_TRACE_CTRL: EN is bit 0, TRIG is bit 1. -/
def traceCtrlWrite (s : State) (v : Nat) : State :=
  let s := traceEn s (v.testBit 0)
  if v.testBit 1 then traceTrigger s 0 0 else s

def execTraceEnable (v : BitVec 32) (s : State) : Out := done (inService s (fun s => traceCtrlWrite s v.toNat))

def execTrig (v : BitVec 32) (s : State) : Out := done (inService s (fun s => traceCtrlWrite s v.toNat))

/-- The 32 bytes of a trace record as a number (*Table: Trace record (32 bytes)*). -/
def traceBits (r : TraceRec) : Nat :=
  r.time % 2 ^ 64 + r.type % 256 * 2 ^ 64 + r.flags % 256 * 2 ^ 72 + r.src % 2 ^ 12 * 2 ^ 80 +
    r.payload.toNat * 2 ^ 96

/-- Write 32 bytes to the trace region; a word that no device memory backs is lost. Trace writes count in
the device-global and the per-cluster counters (R329). -/
def tracePut (s : State) (dpa v : Nat) : State :=
  let s := forEach (List.range 4) s (fun s i =>
    let a := dpa + 8 * i
    if a < 2 ^ 37 ∨ (2 ^ 39 ≤ a ∧ a < 2 ^ 39 + 2 ^ 37) then
      (writeWord s (toLocal a) (BitVec.ofNat 64 (v / 2 ^ (64 * i))) 0xFF#8 false).1
    else s)
  addF (addF s (F.DBG_CNT_DEV 23) 32) (F.DBG_CNT_LC (dpaCol (toLocal dpa) / 16) 23) 32

/-- Put a record at the write offset; the offsets follow (R335). -/
def traceAppend (s : State) (r : TraceRec) : State :=
  let size := 2 ^ getF s F.DBG_TRACE_CFG_LOG2SZ
  let w := getF s F.DBG_TRACE_WPTR
  let s := tracePut s (getF s F.DBG_TRACE_BASE_DPA + w) (traceBits r)
  let wrapped := decide (size ≤ s.trace.written)
  let next := (w + 32) % size
  let s := setF s F.DBG_TRACE_WPTR next
  let s := if wrapped then setB (setF s F.DBG_TRACE_START next) F.DBG_TRACE_STATUS_WRAPPED true else s
  { s with trace := { s.trace with written := s.trace.written + 32 } }

/-- Space in the staging buffer: a GAP record covers what was dropped (R334). -/
def traceGap (s : State) : State :=
  let t := s.trace
  if t.dropped = 0 then s
  else
    let r : TraceRec := { time := t.dropLast, type := 0x0F, flags := 0, src := 0,
                          payload := payloadOf [(0, t.dropped % 2 ^ 32), (4, t.dropFirst), (12, t.dropLast)] }
    addF { s with trace := { t with staging := t.staging ++ [r], dropped := 0 } } F.DBG_TRACE_DROP t.dropped

/-- The records that wait when a full region ends the trace, and every later one, count as dropped, without a
GAP (R335). -/
def traceFull (s : State) : State :=
  let s := traceDone (addF s F.DBG_TRACE_DROP (s.trace.staging.length + s.trace.dropped))
  { s with trace := { s.trace with full := true } }

/-- Bytes still to write after a record: counted from the TRIGGER record on (R335). -/
def tracePost (s : State) (r : TraceRec) : State :=
  match s.trace.postLeft with
  | some n =>
    if r.type == 0x0A || s.trace.staging.all (fun x => x.type != 0x0A) then
      if n ≤ 32 then traceDone s
      else { s with trace := { s.trace with postLeft := some (n - 32) } }
    else s
  | none => s

/-- What follows the write of a record: the region is full, the span after the trigger is complete, or a
trace that was stopped has drained. -/
def traceAfter (s : State) (r : TraceRec) : State :=
  if getF s F.DBG_TRACE_CFG_MODE = 0 ∧ 2 ^ getF s F.DBG_TRACE_CFG_LOG2SZ ≤ s.trace.written then traceFull s
  else
    let s := tracePost s r
    if s.trace.draining && s.trace.staging.isEmpty then traceDone s else s

/-- The trace writer writes its oldest staged record to the region, in TIME order: it waits for the record of
an event detected before it that the event unit has still to receive (R334). -/
def traceRecordWrite (s : State) : State :=
  match s.trace.staging with
  | [] => s
  | r :: rest =>
    if s.events.waiting.any (fun e => decide (e.time < r.time)) then s
    else traceAfter (traceAppend (traceGap { s with trace := { s.trace with staging := rest } }) r) r

def execTraceRecordWrite (s : State) : Out := done (live s (memGate .traceRecordWrite traceRecordWrite))

/-! ## Global stop (R338 to R341) -/

/-- The WAIT code of a stop record. -/
def waitCode (k : Core) : Nat :=
  if k.kernel.isNone then 7
  else match k.wait with
    | none => 0
    | some (.bar _ _ _) => 1
    | some (.sigw _ _) => 2
    | some (.waitd _) => 3
    | some (.waita _) => 4
    | some .fence => 5
    | some (.dwait _ _ _) => 6

/-- A core stops at its instruction boundary and writes its stop record (R339, R340). -/
def stopCore (s : State) (c : Nat) : State :=
  let k := getCore s c
  let s := setF s (F.DBG_STOP_CORE_TIME c) s.time
  let s := setF s (F.DBG_STOP_CORE_PC c) k.rf.pc
  let s := setF s (F.DBG_STOP_CORE_SLOT c) ((k.kernel.map (·.slot)).getD 0)
  let s := setF s (F.DBG_STOP_CORE_WAIT c) (waitCode k)
  setCore (setB s (F.DBG_STOP_CORE_VALID c) true) c { k with stopped := true }

/-- A front end stops and writes its stop record. -/
def stopFront (s : State) (e : Nat) : State :=
  let s := setF s (F.DBG_STOP_ENG_TIME e) s.time
  let s := setF s (F.DBG_STOP_ENG_SEQ e) (sget .zero s.turns e).lastSeq
  { s with stop := { s.stop with feStopped := s.stop.feStopped ++ [e] } }

/-- The stop token reaches a unit. -/
def tokenArrive (s : State) (u : StopUnit) : State :=
  if getF s F.DBG_STOP_STATUS_STATE = 1 ∧ tokenSeen s u = false then
    let s := match u with
      | .frontEnd e => stopFront s e
      | .core c => stopCore s c
    stopSettle { s with stop := { s.stop with latest := s.time } }
  else s

def execStopToken (unit : StopUnit) (s : State) : Out :=
  onUnit (stopUnitOk unit) (live s (fun s => tokenArrive s unit))

/-- A stopped core goes on; a wait that was met during the stop ends. -/
def resumeCore (s : State) (c : Nat) : State :=
  let k := { getCore s c with stopped := false }
  let s := setCore s c k
  match k.wait, k.kernel with
  | some (.sigw w v), some n => if sigMet (sigGet s n.part w) v.toNat then setCore s c (passWait k) else s
  | some (.dwait _ _ _), _ => setCore s c (dwaitPass k)
  | some _, _ => afterWork s c
  | none, _ => s

/-- COL_CFG.TMO_MS counts on from where the stop of the move engine paused it (R339). -/
def resumeTimeouts (s : State) : State :=
  let since (c : Coll) : Nat := max c.lastRx (getF s (F.DBG_STOP_ENG_TIME 3))
  { s with colls := s.colls.map (fun c => { c with paused := c.paused + (s.time - since c) }) }

/-- RESUME while STOPPED (R341): the update units take their next blocks. -/
def resume (s : State) : State :=
  if getF s F.DBG_STOP_STATUS_STATE = 2 then
    let s := setF s F.DBG_STOP_STATUS_STATE 0
    let s := resumeTimeouts { s with stop := { s.stop with feStopped := [] } }
    let s := forEach ((s.cores.filter (fun p => p.2.stopped)).map (·.1)) s resumeCore
    raiseEv (pumpAll s) 0x7104 sevInfo none 0 0 0 (getF s F.DBG_STOP_STATUS_SPREAD_NS)
  else s

/-- A write of DBG_STOP_CTRL: GO, RESUME, KSTOP_EN and ON_TRIG. -/
def stopCtrlWrite (s : State) (v : Nat) : State :=
  let s := setB (setB s F.DBG_STOP_CTRL_KSTOP_EN (v.testBit 2)) F.DBG_STOP_CTRL_ON_TRIG (v.testBit 3)
  let s := if v.testBit 0 then stopRequest s 0 else s
  if v.testBit 1 then resume s else s

def execGlobalStop (v : BitVec 32) (s : State) : Out := done (inService s (fun s => stopCtrlWrite s v.toNat))

def execGlobalResume (v : BitVec 32) (s : State) : Out := done (inService s (fun s => stopCtrlWrite s v.toNat))

/-! ## Link probes (R343) -/

/-- The record of a probe on a link, with the peer's device and link. -/
def traceProbe (s : State) (type l n : Nat) : State :=
  traceHap s type none false false false (0x600 + l)
    (payloadOf [(0, l), (2, n), (4, getF s (F.LNK_STATUS_PEER_DEV l)), (6, getF s (F.LNK_STATUS_PEER_LINK l))])

/-- An ACTIVE link port sends a probe each PERIOD_US. -/
def markProbe (s : State) (l : Nat) : State :=
  let period := getF s F.DBG_MARK_CTRL_PERIOD_US
  let k := getLink s l
  if decide (0 < period) && linkCarries s l && decide (k.lastProbe + period * 1000 ≤ s.time) then
    let s := sendFlit s l (linkCtl 3 k.probe)
    let s := setLink s l { getLink s l with probe := (k.probe + 1) % 2 ^ 16, lastProbe := s.time }
    traceProbe s 6 l k.probe
  else s

def execMarkProbe (l : Nat) (s : State) : Out := onUnit (linkOk l) (live s (fun s => markProbe s l))

/-- A probe of the peer arrives: a LINKCTL flit with byte 8 = 0x03. -/
def probeRx (s : State) (l : Nat) (f : FlitWord) : State :=
  arriveFlit s l f 0 false (fun s =>
    if flKind f == 3 && flBits f 71 64 == 3 then inOrder s l (fun s => traceProbe s 7 l (flBits f 87 72)) else s)

def execProbeRx (l : Nat) (flit : FlitWord) (s : State) : Out :=
  onUnit (linkOk l) (live s (fun s => probeRx s l flit))

end Sys2Proof.Machine
end

