-- ==== Sys2Proof/Machine/Drones.lean ====
section
/-! DEFINITION. The meanings of the sleep states and the drones: entries and wakes, sleeping links,
refresh, peg sequences and the deadlines of the other drones (R310 to R321). -/

namespace Sys2Proof.Machine

/-! ## Sleep states -/

/-- A sleeping or entering scope starts its wake at its next known event less its wake latency (R313). -/
def scheduledWake (s : State) (sc : Nat) : State :=
  match (getScope s sc).wakeAt with
  | some t => if t ≤ s.time then wakeScope s sc else s
  | none => s

def execScheduledWake (scope : Nat) (s : State) : Out :=
  onUnit (sleepScopeOk scope) (live s (fun s => scheduledWake s scope))

def execWakeDone (scope : Nat) (s : State) : Out :=
  onUnit (sleepScopeOk scope) (live s (fun s => wakeDone s scope))

/-- What a region loses in OFF: all but local stores, instruction stores and the counts of R154 (*Table:
Sleep states*). -/
def loseRegion (s : State) (k : Nat) : State :=
  forEach (regionCores s k) s (fun s c => setCore s c { getCore s c with lost := true })

/-- A scope that is entering a state has entered it. -/
def sleepEntryDone (s : State) (sc : Nat) : State :=
  let k := getScope s sc
  match k.entering with
  | none => s
  | some st =>
    let s := setScopeState (setScope s sc { k with entering := none }) sc st
    if sc < 8 && st == 4 then loseRegion s sc else s

def execSleepEntryDone (scope : Nat) (s : State) : Out :=
  onUnit (sleepScopeOk scope) (live s (fun s => sleepEntryDone s scope))

/-- The codes of LINKCTL flits: 0x02 SLEEP (R316). -/
def sleepFlit : FlitWord := linkCtl 2 0

/-- A link with nothing to send, on which STANDBY is allowed (R316). -/
def linkQuiet (s : State) (l : Nat) : Bool :=
  getB s F.CLK_SLEEP_CTRL_LINK_STBY_EN && linkCarries s l && (getLink s l).queues.all List.isEmpty &&
    (getLink s l).replay.isEmpty && !flitDue (getLink s l)

/-- A link without a DATA flit for 10 µs asks its peer to sleep (R316). -/
def linkIdle (s : State) (l : Nat) : State :=
  if linkQuiet s l && !(getLink s l).sleepSent && decide ((getLink s l).lastData + 10000 ≤ s.time) then
    sendFlit (setLink s l { getLink s l with sleepSent := true }) l sleepFlit
  else s

def execLinkIdle (l : Nat) (s : State) : Out := onUnit (linkOk l) (live s (fun s => linkIdle s l))

/-- The link enters STANDBY. -/
def linkStandby (s : State) (l : Nat) : State :=
  let s := traceSleep (setLinkState s l 4) (32 + l) 3 4
  setLink s l { getLink s l with sleepSent := false }

/-- A SLEEP flit arrives: it answers this end's own, or this end answers it (R316). -/
def sleepFlitIn (s : State) (l : Nat) : State :=
  inOrder s l (fun s =>
    if linkQuiet s l then
      if (getLink s l).sleepSent then linkStandby s l else linkStandby (sendFlit s l sleepFlit) l
    else s)

def execSleep (l : Nat) (s : State) : Out := onUnit (linkOk l) (live s (fun s => sleepFlitIn s l))

/-- A write of CLK_SLEEP_CTRL takes effect at the next recomputation, which follows at once (R321). -/
def sleepCtrlWrite (s : State) (raw : Nat) : State :=
  let s := setF s F.CLK_SLEEP_CTRL_REGION_MAX raw
  let s := setF s F.CLK_SLEEP_CTRL_MEM_MAX (raw / 2 ^ 3)
  let s := setF s F.CLK_SLEEP_CTRL_LINK_STBY_EN (raw / 2 ^ 5)
  let s := setF s F.CLK_SLEEP_CTRL_EXPRESS_REGIONS (raw / 2 ^ 8)
  recomputeAll (applyRanges s 0x50060 0 raw)

def execClkSleepCtrlWrite (v : BitVec 32) (s : State) : Out :=
  done (inService s (fun s => sleepCtrlWrite s v.toNat))

/-! ## Drones -/

/-- A bank by layer, column and bank. -/
def refreshKey (player pcol bank : Nat) : Nat := (player * 1224 + pcol) * 4 + bank

/-- An express access waits at a physical bank that stands in the address map. -/
def expressBank (s : State) (player pcol bank : Nat) : Bool :=
  match colOfPcol s pcol, (List.range 8).find? (fun l => getF s (layerFld l) == player) with
  | some col, some l => expressAt s (col * 2 ^ 27 + l * 2 ^ 24 + bank * 2 ^ 22)
  | _, _ => false

/-- A refresh interval of a bank expires: it is postponed while express accesses are pending, in the block or
beyond it as the row says, for at most 8 intervals; a layer in SELF-REFRESH refreshes itself (R319). -/
def refreshBank (s : State) (player pcol bank : Nat) (express : Bool) : State :=
  let b := refreshKey player pcol bank
  let n := sget 0 s.postponed b
  if getF s (layerSleepFld player) = 2 then s
  else if (express || expressBank s player pcol bank) && decide (n < 8) then { s with postponed := sput 0 s.postponed b (n + 1) }
  else { s with postponed := sput 0 s.postponed b 0 }

def execRefresh (player pcol bank : Nat) (express : Bool) (s : State) : Out :=
  onUnit (layerOk player && pcolOk pcol && bankOk bank)
    (live s (fun s => refreshBank s player pcol bank express))

/-- The number of a drone task. -/
def droneTask : Drone → Nat
  | .scrub => 0
  | .coupler => 1
  | .linkEq => 2
  | .sensorOffset => 3
  | .regulator => 4
  | .wear => 5
  | .telemetry => 6

/-- Wake a scope of any kind. -/
def wakeAny (s : State) (sc : Nat) : State := if sc < 32 then wakeScope s sc else wakeLink s (sc - 32)

/-- Recompute a region or layer; links have no known events of their own. -/
def recomputeAny (s : State) (sc : Nat) : State := if sc < 17 then recompute s sc else s

/-- A drone task has run now. -/
def droneRan (s : State) (k : Nat) : State := { s with drones := sput 0 s.drones k s.time }

/-- A drone task reaches its deadline: its scope wakes and the task runs, which moves the deadline on by
a period (R320). A task that has not run in the scope is due. -/
def droneDeadline (s : State) (task sc : Nat) : State :=
  let k := task * 128 + sc
  if decide (sget 0 s.drones k + dronePeriod s task ≤ s.time) || sget 0 s.drones k == 0 then
    recomputeAny (droneRan (wakeAny s sc) k) sc
  else s

def execDroneDeadline (task : Drone) (scope : Nat) (s : State) : Out :=
  onUnit (droneScopeOk scope) (live s (fun s => droneDeadline s (droneTask task) scope))

/-- A peg sequence of a coupler maps spares to the coils that newly need one; with more than 4 in use the
channel of the crossing fails (R10). -/
def pegCoupler (s : State) (chan sel : Nat) : State :=
  let r := mapCoils s chan (sel / 2 % 16) (sel.testBit 0) (sel / 32)
  if r.2 then channelFailed r.1 chan else r.1

/-- The scope in which a peg sequence runs: the layer above a coupler's boundary, a link, the region or the
layer of a sensor, the region of a cell. -/
def pegScope (task : Peg) (idx sel : Nat) : Option Nat :=
  match task with
  | .coupler => some (8 + min 8 (sel / 2 % 16))
  | .link => some (32 + idx)
  | .sensor =>
    let i := idx % 324
    if i < 144 then some (regionOf (i / 2)) else if 168 ≤ i ∧ i < 312 then some (8 + (i - 168) / 16) else none
  | .regulator => if idx < 72 then some (regionOf idx) else none

/-- The drone task that a peg sequence is. -/
def pegTask : Peg → Nat
  | .coupler => 1
  | .link => 2
  | .sensor => 3
  | .regulator => 4

/-- A peg sequence runs in its scope, which it wakes (R10, R320), and the deadline of its task moves on; sensor offsets and regulator trims show in later readings alone. -/
def peg (s : State) (task : Peg) (idx sel : Nat) : State :=
  let s := match pegScope task idx sel with
    | some sc => recomputeAny (droneRan (wakeAny s sc) (pegTask task * 128 + sc)) sc
    | none => s
  match task with
  | .coupler => if ready s then pegCoupler s idx sel else s
  | .link => s
  | .sensor => s
  | .regulator => s

def execPeg (task : Peg) (idx sel : Nat) (s : State) : Out :=
  onUnit (pegOk task idx sel) (live s (fun s => peg s task idx sel))

end Sys2Proof.Machine
end

