-- ==== Sys2Proof/Machine/Faults.lean ====
section
/-! DEFINITION. The meanings of the event unit and the discrete inputs (R322 to R327). -/

namespace Sys2Proof.Machine

/-! ## The event ring -/

/-- The next event to reach the event unit is the `n`-th that waits: sources reach it in any order
(R322). In HALTED its record is lost (R324). -/
def execEventRecord (n : Nat) (s : State) : Out := done (powered s (fun s => recordNth s n))

/-- A rate-limit window has been open for 10 µs (R325). -/
def rateWindowClose (s : State) (n : Nat) : State :=
  match s.events.windows[n]? with
  | some w => if w.opened + 10000 ≤ s.time then closeWindow s n else s
  | none => s

def execRateWindowClose (n : Nat) (s : State) : Out :=
  onUnit (windowOk n) (powered s (fun s => rateWindowClose s n))

/-- A LOG2N outside 6 to 16 acts as 6 (*Table: EVT field maps*). -/
def evtLog2n (v : Nat) : Nat := if v < 6 || 16 < v then 6 else v

/-- The fields of EVT_CFG but LOG2N. -/
def evtOtherFields (s : State) (raw : Nat) : State :=
  let s := setF s F.EVT_CFG_EN (raw / 2 ^ 8)
  let s := setF s F.EVT_CFG_MSIX_EN (raw / 2 ^ 9)
  let s := setF s F.EVT_CFG_VECTOR (raw / 2 ^ 10)
  setF s F.EVT_CFG_MIN_SEV (raw / 2 ^ 21)

/-- Enabling takes the ring's geometry and clears its pointers; the first lap has PHASE 1 (R324). -/
def evtEnable (s : State) : State :=
  let s := setF (setF s F.EVT_PROD_PTR 0) F.EVT_CONS_PTR 0
  { s with events := { s.events with base := getF s F.EVT_BASE_ADDR * 64,
                                     log2n := evtLog2n (getF s F.EVT_CFG_LOG2N) } }

/-- A write of EVT_CFG (R324). -/
def evtCfgWrite (s : State) (raw : Nat) : State :=
  let was := getB s F.EVT_CFG_EN
  let s :=
    if was then
      if raw % 32 = getF s F.EVT_CFG_LOG2N then s else setB s F.EVT_STATUS_CFG_ERR true
    else setF s F.EVT_CFG_LOG2N raw
  let s := evtOtherFields s raw
  if !was && getB s F.EVT_CFG_EN then evtFlush (evtEnable s) else s

def execEvtCfgWrite (v : BitVec 32) (s : State) : Out := done (inService s (fun s => evtCfgWrite s v.toNat))

/-- A write of EVT_BASE: refused while the ring is open. -/
def evtBaseWrite (s : State) (raw : Nat) : State :=
  if getB s F.EVT_CFG_EN then setB s F.EVT_STATUS_CFG_ERR true else setF s F.EVT_BASE_ADDR (raw / 64)

/-- A write of EVT_CONS: space may return for an EVT_OVERFLOW record. -/
def evtConsWrite (s : State) (raw : Nat) : State := evtFlush (setF s F.EVT_CONS_PTR raw)

/-! ## THROTTLE_N (R327) -/

/-- THROTTLE_N as the filter gives it, and the limit that follows it (R258). -/
def throttleInput (s : State) : State :=
  let s := setB s F.EVT_INPUT_THROTTLE (s.throttle.level || getB s F.EVT_INPUT_THR_CHATTER)
  if ready s then applyLimit s else s

/-- The release record of a stuck input. -/
def throttleRelease (s : State) : State :=
  if getB s F.EVT_INPUT_THR_STUCK && !s.throttle.level then
    raiseEv (setB s F.EVT_INPUT_THR_STUCK false) 0x1008 sevWarn none 0 0 0 0
  else s

/-- More than 100 accepted edges in 10 ms: the input is held asserted. -/
def throttleChatter (s : State) : State :=
  if 100 < s.throttle.edges.length && !getB s F.EVT_INPUT_THR_CHATTER then
    raiseEv (setB s F.EVT_INPUT_THR_CHATTER true) 0x1009 sevWarn none 0 0 0 s.throttle.edges.length
  else s

/-- An accepted edge. -/
def throttleEdge (s : State) (asserted : Bool) : State :=
  let edges := s.throttle.edges.filter (fun t => decide (s.time < t + 10000000)) ++ [s.time]
  throttleInput (throttleChatter (throttleRelease
    { s with throttle := { level := asserted, since := s.time, edges := edges } }))

/-- A level of THROTTLE_N that has been stable for 200 ns; without power only the level stays. -/
def throttleN (s : State) (asserted : Bool) : State :=
  if s.throttle.level = asserted then s
  else if s.power = .on then throttleEdge s asserted
  else { s with throttle := { s.throttle with level := asserted } }

def execThrottleN (asserted : Bool) (s : State) : Out := done (throttleN s asserted)

/-- Asserted for more than 100 ms. -/
def throttleStuck (s : State) : State :=
  if s.throttle.level && !getB s F.EVT_INPUT_THR_STUCK && decide (s.throttle.since + 100000000 < s.time) then
    raiseEv (setB s F.EVT_INPUT_THR_STUCK true) 0x1008 sevWarn none 0 0 0 1
  else s

def execThrottleStuck (s : State) : Out := done (powered s throttleStuck)

/-- Stably deasserted for 10 ms after chatter. -/
def throttleChatterEnd (s : State) : State :=
  if getB s F.EVT_INPUT_THR_CHATTER && !s.throttle.level && decide (s.throttle.since + 10000000 ≤ s.time) then
    throttleInput (setB s F.EVT_INPUT_THR_CHATTER false)
  else s

def execThrottleChatterEnd (s : State) : Out := done (powered s throttleChatterEnd)

end Sys2Proof.Machine
end

