-- ==== Sys2Proof/Machine/Resets.lean ====
section
/-! DEFINITION. Resets below and at device level, substitution, segment reloads and the training snapshot
(R155, R156, R300 to R309). -/

namespace Sys2Proof.Machine

/-! ## Core reset (R300) -/

/-- Array instructions in flight are abandoned, their outputs undefined; accesses in flight complete, and
their responses are discarded. -/
def abandonCore (s : State) (c : Nat) : State :=
  let k := getCore s c
  let part := (match k.kernel with | some n => n.part | none => 0)
  let s := forEach k.arr s (fun s o => arrLand s c { o with dirty := [(0, lsSize)] } [])
  forEach (k.dma.filter (·.put)) s (fun s o => dmaLand s c part o)

/-- R155, R156: a pending substitution takes the spare row, then the spare column, or fences the core. -/
def substituteOne (s : State) (c : Nat) (cell : Nat × Nat) : State :=
  let k := getCore s c
  let site := sget 0 s.coreSite c
  let k := { k with subPending := k.subPending.erase cell,
                    cells := k.cells.filter (fun e => !(e.row == cell.1 && e.col == cell.2)) }
  if k.rowSub.isNone then
    raiseEv (setCore s c { k with rowSub := some cell.1 }) 0x5003 sevInfo none 8 site 65 c
  else if k.colSub.isNone then
    raiseEv (setCore s c { k with colSub := some cell.2 }) 0x5003 sevInfo none 9 site 65 c
  else fence (setCore s c k) 2 c 156

/-- Every substitution pending on a core, in the order in which the counts reached 3. -/
def substituteCell (s : State) (c : Nat) : State := (getCore s c).subPending.foldl (fun s x => substituteOne s c x) s

/-- R300: the core stops, its item reports ST_ABORTED, its registers clear; its local store is kept. The
spares that stand by wear levelling rotate. -/
def resetCore (s : State) (c : Nat) : State :=
  let s := dropCore (abandonCore s c) c (plainResult stAborted)
  let s := setCore s c { getCore s c with
    rf := .zero, t := [], astat := 0, db := 0, issued := 0, exc := none, lost := false,
    stopped := false, wear := (getCore s c).wear + 1 }
  substituteCell s c

/-! ## LUT_RESET (R306) -/

/-- Why LUT_RESET refuses a request below device level. -/
def resetRefused (s : State) (level target subst : Nat) : Bool :=
  getB s F.LUT_RESET_STATUS_BUSY || decide (4 < level) || (level == 1 && decide (64 ≤ target)) ||
    (level == 2 && decide (16 ≤ target)) || (subst != 0 && level != 1)

/-- Set the result of a reset. -/
def resetResult (s : State) (r : Nat) : State := setF s F.LUT_RESET_STATUS_RESULT r

/-- R301, steps 1 and 2, and the start of the drain. -/
def clusterReset (s : State) (lc subst : Nat) : State :=
  let s := setCluster s lc { getCluster s lc with hold := true }
  let s := { s with luthier := { s.luthier with clusterRst := some (lc, subst) } }
  let s := forEach (coresOf lc) s resetCore
  match unitOfLc s lc with
  | some u => failUnit s u stAborted
  | none => s

/-- R302: STOP of every queue of a partition; its work then drains. -/
def partitionReset (s : State) (p : Nat) (lut : Bool) (reload : Option Nat) : State :=
  let s := forEach (queuesOf s p) s queueStop
  match s.luthier.partRst.find? (fun r => r.part == p) with
  | some r =>
    let l := s.luthier.partRst.map (fun x => if x.part == p then
      { x with lut := r.lut || lut, reload := if reload.isSome then reload else r.reload } else x)
    { s with luthier := { s.luthier with partRst := l } }
  | none =>
    let x : PartRst := { part := p, since := s.time, drained := false, lut := lut, reload := reload, evt := false }
    { s with luthier := { s.luthier with partRst := s.luthier.partRst ++ [x] } }

/-- The PCIe endpoint goes into reset: host-directed transfers report ST_LINK_RESET (R304, R347). -/
def endpointDown (s : State) : State :=
  let s := { s with pcie := { s.pcie with up := false } }
  forEach (s.open_.filter (fun o => engineOf s o.q == 3 && cOpcode o.cmd == 0x30 && cpDstHost o.cmd && !o.begun)) s
    copyReset

/-- The PCIe link is back: what was held is carried out, oldest first (R304, R347). -/
def endpointUp (s : State) : State :=
  let l := s.pcie.held
  forEach l { s with pcie := { s.pcie with up := true, held := [] } } hostDo

/-- A packet on its way to the links is absorbed: the compute die's own reports ST_LINK_RESET, one between
links is discarded (R304, R233). -/
def absorb (s : State) (x : SwPkt) : State :=
  if srcDev x.pkt = ownDev s then switchInject s x.pkt x.vc else unreachable s x.pkt

/-- A port that carries flits acknowledges what it has accepted, sends HOLD and goes into reset; its sequence
numbers outlast it (log entry 33). -/
def holdActive (s : State) (l : Nat) : State :=
  let s := sendFlit (flushLink (wakeLink s l) l) l (linkCtl 1 0)
  let k := getLink s l
  let s := setLinkState s l 5
  let s := setLink s l { Link.zero with outbox := k.outbox, probe := k.probe, lastProbe := k.lastProbe,
                                        txSeq := k.txSeq, rxSeq := k.rxSeq, kept := true }
  let s := raiseLnk s 0x4002 sevError l (linkStatusWord s l)
  let s := { s with luthier := { s.luthier with ioRst := true } }
  let s := forEach (queuedOf k) s absorb
  let s := forEach k.replay s (fun s r => unreachable s (flPacket r.flit))
  { s with luthier := { s.luthier with ioRst := false } }

/-- Every port goes into reset but one that LNK_CTRL.DISABLE holds OFF. -/
def holdPort (s : State) (l : Nat) : State :=
  if linkState s l = 3 ∨ linkState s l = 4 then holdActive s l
  else if getB s (F.LNK_CTRL_DISABLE l) then s
  else linkDown s l 5

/-- R304: the soundboard I/O reset begins. -/
def ioReset (s : State) : State :=
  let s := forEach (List.range 48) s holdPort
  let held := s.switch
  let s := { s with switch := [], luthier := { s.luthier with ioRst := true } }
  endpointDown (forEach held s absorb)

/-- A request that is accepted; what it ends changes the known events of its scopes (R313). -/
def resetBegin (s : State) (level target subst : Nat) : State :=
  let s := resetResult (incF s F.LUT_RESET_STATUS_COUNT) 0
  match level with
  | 0 => recomputeAll (resetCore s target)
  | 1 => recomputeAll (clusterReset (setB s F.LUT_RESET_STATUS_BUSY true) target subst)
  | 2 => recomputeAll (partitionReset (setB s F.LUT_RESET_STATUS_BUSY true) target true none)
  | _ => ioReset (setB s F.LUT_RESET_STATUS_BUSY true)

/-- A write of LUT_RESET in service: LEVEL, TARGET and SUBST, and with GO the request. -/
def lutResetWrite (s : State) (v : Nat) : State :=
  let level := bits v 2 0
  let target := bits v 12 3
  let subst := bits v 16 13
  let s := setF (setF (setF s F.LUT_RESET_LEVEL level) F.LUT_RESET_TARGET target) F.LUT_RESET_SUBST subst
  if !v.testBit 31 then s
  else if level = 4 then warmRequest s
  else
    let s' := setF s F.LUT_RESET_STATUS_LEVEL level
    if resetRefused s level target subst then resetResult s' 1 else resetBegin s' level target subst

/-- In HALTED only a request for a device warm reset is taken (R295). -/
def lutResetHalted (s : State) (v : Nat) : State := if v.testBit 31 && bits v 2 0 == 4 then warmRequest s else s

/-- What a write of LUT_RESET does: nothing before READY (R294). -/
def onLutReset (s : State) (v : Nat) : State :=
  if ready s then lutResetWrite s v
  else if s.power == .on && halted s then lutResetHalted s v
  else s

def execCoreReset (v : BitVec 32) (s : State) : Out := done (onLutReset s v.toNat)
def execClusterReset (v : BitVec 32) (s : State) : Out := done (onLutReset s v.toNat)
def execPartitionReset (v : BitVec 32) (s : State) : Out := done (onLutReset s v.toNat)
def execSoundboardIoReset (v : BitVec 32) (s : State) : Out := done (onLutReset s v.toNat)
def execDeviceWarmReset (v : BitVec 32) (s : State) : Out := done (onLutReset s v.toNat)

/-! ## The end of a drain (R301 to R303) -/

/-- A command that a drain ends is no longer in service. -/
def dropService (s : State) (q tag : Nat) : State :=
  settleHold { s with attends := s.attends.filter (fun a => !(a.q == q && a.tag == tag)),
                      loads := s.loads.filter (fun a => !(a.q == q && a.tag == tag)),
                      colls := s.colls.filter (fun a => !(a.q == q && a.tag == tag)) }

/-- The attend command of a body that the engine has not begun, with its descriptor, where both stand in order. -/
def attendPeek (s : State) (o : OpenCmd) : Option (Attend × List Byte) :=
  match o.entry with
  | none => none
  | some e =>
    if e.part ≠ partOf s o.q ∨ foreignCtx s o.q (atCtx o.cmd) ∨ !attendFields o.cmd ∨ !attendRange e o.cmd then none
    else
      let r := (vreadBytes s (atCtx o.cmd) (atQdesc o.cmd) (qLen e o.cmd) .read).2
      let a := attendOf o e r.bytes
      if r.fail.isSome || r.poison || !descFields a.headCount a.nq r.bytes then none else some (a, r.bytes)

/-- The output of an attend command that a drain ends is undefined: the lists of SELECT, otherwise OUT and
STATE (R38). -/
def attendFree (s : State) (o : OpenCmd) : State :=
  match findAttend s o.q o.tag with
  | some a => undefOuts s a
  | none =>
    match attendPeek s o with
    | some (a, bs) => if cOpcode o.cmd = 0x11 then undefLists s a (word64 bs 16) else undefOuts s a
    | none => s

/-- The output of a COLLECTIVE that a drain ends is undefined, in a group of its partition (R38). -/
def collFree (s : State) (o : OpenCmd) : State :=
  match getGrp s (coGroup o.cmd) with
  | some g =>
    if coFields o.cmd && g.part == partOf s o.q then
      undefRange s (partOf s o.q) (coCtx o.cmd) (coDst o.cmd) (coOutBytes o.cmd g.members.length)
    else s
  | none => s

/-- The output of a command that a drain ends is undefined (R38). A LAUNCH and an UPDATE are settled as they
complete, and a page command that has not begun changes nothing (R302). -/
def freeOutput (s : State) (o : OpenCmd) : State :=
  match engineOf s o.q, cOpcode o.cmd with
  | 0, 0x01 => loadFree s o
  | 1, _ => attendFree s o
  | 3, 0x30 => copyFree s o
  | 3, 0x31 => fillFree s o
  | 3, 0x33 => collFree s o
  | _, _ => s

/-- An open command completes ST_ABORTED. -/
def abortCmd (s : State) (o : OpenCmd) : State :=
  complete (dropService (freeOutput s o) o.q o.tag) o (plainResult stAborted)

/-- The group of an open COLLECTIVE, begun or not. -/
def collGroup (s : State) (o : OpenCmd) : Option Nat :=
  if engineOf s o.q = 3 && cOpcode o.cmd == 0x33 then
    (match getGrp s (coGroup o.cmd) with
     | some k => if k.part = partOf s o.q then some (coGroup o.cmd) else none
     | none => none)
  else none

/-- Open commands complete ST_ABORTED, and the groups of aborted collectives break (R302, R246). -/
def abortAll (s : State) (l : List OpenCmd) : State :=
  let groups := l.filterMap (collGroup s)
  let s := forEach l s abortCmd
  forEach groups.eraseDups s (fun s g => losePeer s g (ownDev s))

/-- Result of one substitution bit: how many units took a spare, and how many found none. -/
abbrev Subst := State × Nat × Nat

/-- The event of a substitution: the logical ID, and the new physical unit in AUX. -/
def raiseSubst (s : State) (kind logical new : Nat) : State := raiseEv s 0x5003 sevInfo none kind new new logical

/-- The core sites and the physical columns of a cluster that stand in use. -/
def usedCores (s : State) (lc : Nat) : List Nat := (coresOf lc).filterMap (fun c => slook s.coreSite c)
def usedCols (s : State) (lc : Nat) : List Nat :=
  ((coresOf lc).filter (fun c => getB s (F.MEM_COLMAP_VALID c))).map (fun c => getF s (F.MEM_COLMAP_PCOL c))

/-- A fenced core takes an unused core site of its site. -/
def substCore (acc : Subst) (site lc c : Nat) : Subst :=
  let s := acc.1
  match (goodCores s site).find? (fun n => !(usedCores s lc).contains n) with
  | some n =>
    let s := markBad s (plainUnit 2 (sget 0 s.coreSite c))
    (raiseSubst (markCore (placeCore s c n) c false) 2 c n, acc.2.1 + 1, acc.2.2)
  | none => (s, acc.2.1, acc.2.2 + 1)

/-- A failed column takes an unused physical column of its site; its words are unwritten (R75). -/
def substCol (acc : Subst) (site lc col : Nat) : Subst :=
  let s := acc.1
  let old := getF s (F.MEM_COLMAP_PCOL col)
  match (goodCols s site).find? (fun n => n != old && !(usedCols s lc).contains n) with
  | some n => (raiseSubst (placeCol (markBad s (plainUnit 3 old)) col n) 3 col n, acc.2.1 + 1, acc.2.2)
  | none => (s, acc.2.1, acc.2.2 + 1)

/-- The lowest-numbered usable spare update unit. -/
def spareUnit (s : State) : Option Nat :=
  (List.range 72).find? (fun u => unitGood s u && getF s (F.UPD_UNIT_STATUS_STATE u) == 0 &&
    !s.updOf.any (fun p => p.2 == u))

/-- A fenced update unit is replaced. -/
def substUnit (acc : Subst) (lc : Nat) : Subst :=
  let s := acc.1
  match spareUnit s with
  | some u =>
    let old := (unitOfLc s lc).getD u
    let s := setB (markBad s (plainUnit 10 old)) (F.UPD_UNIT_STATUS_LC_VALID old) false
    (raiseSubst (setBit (placeUnit s lc u) F.EVT_FENCED_UPD lc false) 10 lc u, acc.2.1 + 1, acc.2.2)
  | none => (s, acc.2.1, acc.2.2 + 1)

/-- The lowest-numbered spare site for a cluster: one with a path to and from every used site but the one
that the cluster gives up (R211, R297). -/
def spareSite (s : State) (lc : Nat) : Option Nat :=
  let kept := (usedSites s).filter (fun r => r != getF s (F.NOC_LC_SITE_SITE lc))
  (List.range 72).find? (fun n => siteGood s n && !getB s (F.NOC_ROUTER_USED n) && routeless s kept n == 0)

/-- An update unit that a moved cluster may take: a spare one, or the one it has while that is not fenced. -/
def mayServe (s : State) (lc u : Nat) : Bool :=
  unitGood s u &&
    if unitOfLc s lc = some u then !(getF s F.EVT_FENCED_UPD).testBit lc
    else getF s (F.UPD_UNIT_STATUS_STATE u) == 0 && !s.updOf.any (fun p => p.2 == u)

/-- The update unit of a moved cluster: that of its new site when it may take it, else the lowest-numbered
one that it may (R297); none where no usable one is left. -/
def clusterUnit (s : State) (lc site : Nat) : Option Nat :=
  (site :: List.range 72).find? (mayServe s lc)

/-- The words of the columns of a cluster are unwritten again (R75). -/
def forgetCols (s : State) (cols : List Nat) : State :=
  let pcolOf (w : Nat) : Nat := w / bankWords / 4 % 1224
  { s with mem := s.mem.filter (fun p => !cols.contains (pcolOf p.1)) }

/-- The cluster moves to a spare site and is formed there (R303), with every slot empty (R45). -/
def substSite (acc : Subst) (lc : Nat) : Subst :=
  let s := acc.1
  match spareSite s lc with
  | none => (s, acc.2.1, acc.2.2 + 1)
  | some n =>
    match clusterUnit s lc n with
    | none => (s, acc.2.1, acc.2.2 + 1)
    | some u =>
      let old := getF s (F.NOC_LC_SITE_SITE lc)
      let s := setB s (F.NOC_ROUTER_USED old) false
      let s := (match unitOfLc s lc with
        | some x => if x = u then s else
            let s := setB s (F.UPD_UNIT_STATUS_LC_VALID x) false
            if (getF s F.EVT_FENCED_UPD).testBit lc then s else setF s (F.UPD_UNIT_STATUS_STATE x) 0
        | none => s)
      let s := forgetCols s ((goodCols s n).take 16)
      let s := formCluster s lc n u
      let s := setCluster s lc { getCluster s lc with slots := [] }
      let s := setBit (setBit s F.EVT_FENCED_LC lc false) F.EVT_FENCED_UPD lc false
      let s := forEach (coresOf lc) s (fun s c => markCore s c false)
      (raiseSubst s 1 lc n, acc.2.1 + 1, acc.2.2)

/-- The substitutions of a cluster reset: a move of the site first, then what is still absent (log entry
42). -/
def substitute (s : State) (lc subst : Nat) : State :=
  let acc : Subst := (s, 0, 0)
  let acc := if subst.testBit 3 then substSite acc lc else acc
  let site := (siteOf acc.1 lc).getD (getF acc.1 (F.NOC_LC_SITE_SITE lc))
  let acc := if subst.testBit 0 then
      ((coresOf lc).filter (coreAbsent acc.1)).foldl (fun a c => substCore a site lc c) acc else acc
  let acc := if subst.testBit 1 then
      ((coresOf lc).filter (fun c => !getB acc.1 (F.MEM_COLMAP_VALID c))).foldl (fun a c => substCol a site lc c) acc else acc
  let acc := if subst.testBit 2 && (getF acc.1 F.EVT_FENCED_UPD).testBit lc then substUnit acc lc else acc
  let s := resetResult acc.1 (if acc.2.2 = 0 then 0 else if acc.2.1 = 0 then 2 else 3)
  if acc.2.1 = 0 then s else writeDist s

/-- R301, steps 3 and 4: joins still open complete ST_ABORTED, the port resets, the substitutions apply,
and fences of the cluster's units that waited take effect (R328). -/
def clusterDrainEnd (s : State) : State :=
  match s.luthier.clusterRst with
  | none => s
  | some (lc, subst) =>
    let s := failMerge s (fun c => c / 16 == lc) stAborted
    let s := abortAll s (s.open_.filter (fun o => o.join == 0x400 + lc))
    let s := setCluster s lc { getCluster s lc with hold := false }
    let late := s.luthier.fences
    let s := { s with luthier := { s.luthier with clusterRst := none, fences := [] } }
    let s := substitute s lc subst
    recomputeAll (setB (forEach late s fenceNow) F.LUT_RESET_STATUS_BUSY false)

def execClusterDrainEnd (s : State) : Out := done (inService s clusterDrainEnd)

/-- A page command that the page engine has begun runs to its end (R302). -/
def pageBegun (s : State) (o : OpenCmd) : Bool := engineOf s o.q == 2 && o.begun

/-- The PARTITION segment of a reload is applied once the partition's queues are DISABLED (R307). -/
def applyReload (s : State) (p : Nat) : State :=
  match s.luthier.partRst.find? (fun r => r.part == p && r.drained && r.reload.isSome) with
  | some r =>
    if (openOfPart s p).isEmpty then
      let l := (slotSegs s (r.reload.getD 0)).getD []
      let s := forEach (l.filter (fun g => g.ty == 3 && g.part == p)) s applySeg
      let s := { s with luthier := { s.luthier with partRst := s.luthier.partRst.filter (fun x => x.part != p) } }
      setB s F.LUT_RELOAD_BUSY false
    else s
  | none => s

/-- The drain of a partition ends: when all its commands have completed, and 1 ms after the STOP in any case. -/
def partitionDrainEnd (s : State) (p : Nat) : State :=
  match s.luthier.partRst.find? (fun r => r.part == p) with
  | none => s
  | some r =>
    if !r.drained && ((openOfPart s p).isEmpty || decide (r.since + 1000000 ≤ s.time)) then
      let cores := (List.range 1024).filter (fun c => match (getCore s c).kernel with | some k => k.part == p | none => false)
      let s := forEach cores s resetCore
      let l := s.luthier.partRst.map (fun x => if x.part == p then { x with drained := true } else x)
      let s := { s with luthier := { s.luthier with partRst := l } }
      let s := abortAll s ((openOfPart s p).filter (fun o => !pageBegun s o))
      recomputeAll (applyReload (settlePart s p) p)
    else applyReload s p

def execPartitionDrainEnd (p : Nat) (s : State) : Out := onUnit (partOk p) (inService s (fun s => partitionDrainEnd s p))

/-! ## The end of a soundboard I/O reset (R304) -/

/-- A port comes back from its saved settings, or is OFF without a partner (R304). -/
def portBack (s : State) (l : Nat) : State :=
  if linkState s l = 5 then
    let k := { getLink s l with lastData := s.time, progress := [s.time, s.time, s.time, s.time] }
    let s := setB s (F.LNK_STATUS_WATCHDOG l) false
    if !getB s (F.LNK_STATUS_PEER_VALID l) then setF (setLinkState s l 0) (F.LNK_TRAIN_RESULT l) 5
    else
      let t := trainSaved (setLink s l k) l
      if linkState t l = 2 then forEach [0, 1, 2, 3] t (fun s v => setF s (creditFld l v) (vcBuffers v)) else t
  else s

/-- Links and PCIe return; BUSY clears once the links have qualified. -/
def ioResetDone (s : State) : State :=
  if s.luthier.ioRst then
    let s := forEach (List.range 48) s portBack
    ioSettle (if s.pins.perst then s else endpointUp s)
  else s

def execSoundboardIoResetDone (s : State) : Out := done (inService s ioResetDone)

/-! ## Segment reloads (R307) -/

/-- A reload is refused. -/
def reloadRefused (s : State) (code : Nat) : State :=
  raiseEv (setF (setB s F.LUT_RELOAD_ERR true) F.LUT_RELOAD_ERR_CODE code) 0x6006 sevWarn none 0x23 0x10018 0 code

/-- An entry of a PARTITION segment that takes a queue of another partition, or gives it one. -/
def ownerBad (s : State) (p : Nat) (e : Nat × Nat) : Bool :=
  if 0x100000 ≤ e.1 && e.1 < 0x101000 then
    let q := (e.1 - 0x100000) / 4
    (validQ s q && partOf s q != p) || bits e.2 3 0 != p
  else false

/-- The segment of a type in a chain. -/
def reloadSeg (l : List Seg) (ty p : Nat) : Option Seg :=
  l.find? (fun g => g.ty == ty && (ty != 3 || g.part == p))

/-- A PARTITION reload. -/
def reloadPartition (s : State) (p slot : Nat) (g : Seg) : State :=
  if (writeList s g).any (ownerBad s p) then reloadRefused s 4
  else if 8 < expressCnt (applySeg s g) then reloadRefused s 5
  else partitionReset (setB s F.LUT_RELOAD_BUSY true) p false (some slot)

/-- A DEFECT reload: the units that the map names now, and no others of an earlier map, are not taken as spares. -/
def reloadDefects (s : State) : State :=
  match defectSegs s with
  | none => reloadRefused s 2
  | some l =>
    if (segsOf l 0x11).isEmpty then reloadRefused s 3
    else
      let us := (segsOf l 0x11).flatMap (fun g => (defectEntries s g).map entryUnit)
      { s with luthier := { s.luthier with defects := us } }

/-- A reload of a type. -/
def reloadNow (s : State) (ty p slot : Nat) : State :=
  if getB s F.LUT_RELOAD_BUSY then reloadRefused s 6
  else if ! [3, 4, 5, 6, 7, 0x11].contains ty then reloadRefused s 1
  else match slotSegs s slot with
    | none => reloadRefused s 2
    | some l =>
      if ty = 0x11 then reloadDefects s
      else match reloadSeg l ty p with
        | none => reloadRefused s 3
        | some g =>
          if ty = 3 then reloadPartition s p slot g
          else if ty = 7 then applySome s g (· != 0x70000C)
          else applySeg s g

/-- A write of LUT_RELOAD. A reload asked for while a flash command runs waits until it ends (R349). -/
def lutReloadWrite (s : State) (v : Nat) : State :=
  let s := setF (setF (setF s F.LUT_RELOAD_TYPE (bits v 7 0)) F.LUT_RELOAD_PART (bits v 11 8)) F.LUT_RELOAD_SLOT (bits v 12 12)
  let s := if v.testBit 15 then setB s F.LUT_RELOAD_ERR false else s
  if !v.testBit 13 then s
  else if s.flashOp.isSome && !getB s F.LUT_RELOAD_BUSY then
    { setB s F.LUT_RELOAD_BUSY true with luthier := { s.luthier with reloadWaits := some (bits v 7 0, bits v 11 8, bits v 12 12) } }
  else reloadNow s (bits v 7 0) (bits v 11 8) (bits v 12 12)

/-- A reload that waited for the flash goes on, as it was asked for. -/
def reloadResume (s : State) : State :=
  match s.luthier.reloadWaits with
  | some (ty, p, slot) =>
    reloadNow (setB { s with luthier := { s.luthier with reloadWaits := none } } F.LUT_RELOAD_BUSY false) ty p slot
  | none => s

def execPartitionReload (v : BitVec 32) (s : State) : Out := done (inService s (fun s => lutReloadWrite s v.toNat))
def execCapoReload (v : BitVec 32) (s : State) : Out := done (inService s (fun s => lutReloadWrite s v.toNat))
def execThermalReload (v : BitVec 32) (s : State) : Out := done (inService s (fun s => lutReloadWrite s v.toNat))
def execTraymapReload (v : BitVec 32) (s : State) : Out := done (inService s (fun s => lutReloadWrite s v.toNat))
def execRouteReload (v : BitVec 32) (s : State) : Out := done (inService s (fun s => lutReloadWrite s v.toNat))
def execDefectReload (v : BitVec 32) (s : State) : Out := done (inService s (fun s => lutReloadWrite s v.toNat))

/-! ## The training snapshot (R309) -/

/-- The length of a capture. -/
def snapLen (n : Nat) : Nat := max 12 (min (2 ^ 24 - 2 ^ 10) (Config.snapshotLen n))

/-- A capture: serial number, revision, then records that only the luthier reads. -/
def snapshot (s : State) : State :=
  let n := s.freeCtr
  let bs := bytesOf 8 s.fuses.serial.toNat ++ bytesOf 4 Config.snapshotRevision.toNat ++
    (List.range (snapLen n - 12)).map (fun i => Config.snapshotByte n (12 + i))
  let s := { drawn s with luthier := { s.luthier with snapshot := bs } }
  setF (setB s F.LUT_EXPORT_CTRL_VALID true) F.LUT_EXPORT_LEN bs.length

/-- A write of LUT_EXPORT_CTRL. -/
def exportCtrlWrite (s : State) (v : Nat) : State := if v.testBit 0 then snapshot s else s

def execSnap (v : BitVec 32) (s : State) : Out := done (inService s (fun s => exportCtrlWrite s v.toNat))

/-- The snapshot word at ADDR. -/
def exportWord (s : State) : Nat := natOf ((s.luthier.snapshot.drop (4 * getF s F.LUT_EXPORT_ADDR_ADDR)).take 4)

/-- A read of LUT_EXPORT_DATA: the word, and ADDR goes on. -/
def exportRead (s : State) : State :=
  let v := exportWord s
  wrapF (setF s F.LUT_EXPORT_DATA_DATA v) F.LUT_EXPORT_ADDR_ADDR 1

def execExportDataRead (s : State) : Out := done (inService s exportRead)

end Sys2Proof.Machine
end

