-- ==== Sys2Proof/Machine/HostIf.lean ====
section
/-! DEFINITION. The meanings of the host interface, the flash and the power pins (R346, R347, R349, R354
to R356). -/

namespace Sys2Proof.Machine

/-! ## Reads of host memory (R346) -/

/-- A failed read sets Completion Timeout, bit 14, or the bit of an error completion, 15, in the function's AER status:
which, the row does not say (PRESUMED from PCI Express, log entry 102). -/
def aerRead (s : State) (q : Nat) : State :=
  let old := sget 0 s.pcie.aer (partOf s q)
  let b := if Config.takesNew s.freeCtr q then 14 else 15
  drawn { s with pcie := { s.pcie with aer := sput 0 s.pcie.aer (partOf s q) (withBit old b true) } }

/-- A read of host memory that a COPY has issued fails. -/
def copyTimeout (s : State) (q tag : Nat) : State :=
  match toBegin s q tag 0x30 with
  | none => s
  | some o =>
    if s.pcie.up && cpSrcHost o.cmd && (copyReject s o).isNone then copyPoisoned (aerRead s q) o else s

/-- A fetch from a ring in host memory fails (R54). -/
def fetchTimeout (s : State) (q : Nat) : State :=
  if mayFetch s q && !(getQueue s q).sq.dev then fetchFailed (aerRead s q) q (fetchAddr s q) else s

def hostReadTimeout (s : State) : HostRead → State
  | .ring q => fetchTimeout s q
  | .copy q tag => copyTimeout s q tag

def execHostReadTimeout (r : HostRead) (s : State) : Out :=
  onUnit (hostReadOk r) (inService s (memGate (.hostReadTimeout r) (fun s => hostReadTimeout s r)))

/-! ## PCIe resets (R347, R354) -/

def execVfFlr (fn : Nat) (s : State) : Out :=
  onUnit (vfOk fn) (inService s (fun s => partitionReset s fn false none))

/-- A function-level reset of the physical function: partition 0 resets, and at its end the event ring
closes. -/
def pfFlr (s : State) : State :=
  let s := partitionReset s 0 false none
  let l := s.luthier.partRst.map (fun r => if r.part == 0 then { r with evt := true } else r)
  { s with luthier := { s.luthier with partRst := l } }

def execPfFlr (s : State) : Out := done (inService s pfFlr)

/-- The endpoint alone resets at a hot reset or when the link goes down. -/
def hotReset (s : State) : State :=
  if ready s then endpointDown s else { s with pcie := { s.pcie with up := false } }

def execHotReset (s : State) : Out := done (powered s hotReset)

/-- The endpoint may train its link: PERST_N is deasserted, stage 3 is complete and no soundboard reset is
under way (R354). -/
def endpointMay (s : State) : Bool :=
  s.power == .on && !s.pins.perst && !s.luthier.ioRst && (ready s || decide (3 < stage s))

def pcieLinkReturn (s : State) : State := if endpointMay s then endpointUp s else s

def execPcieLinkReturn (s : State) : Out := done (pcieLinkReturn s)

/-- PERST_N asserts, which alone clears configuration space, the BAR assignments and the MSI-X tables (R347): before
READY only the endpoint is held in reset; later a device warm reset starts. -/
def perstN (s : State) : State :=
  let s := { s with pins := { s.pins with perst := true },
                    pcie := { Pcie.zero with up := s.pcie.up, held := s.pcie.held, msix := s.pcie.msix } }
  if s.power = .on then
    if devState s = 0 then endpointDown s else warmRequest s
  else s

def execPerstN (s : State) : Out := done (perstN s)

def perstNDeassert (s : State) : State :=
  pcieLinkReturn { s with pins := { s.pins with perst := false } }

def execPerstNDeassert (s : State) : Out := done (perstNDeassert s)

/-! ## Power (R355, R356) -/

/-- The input voltage, in 0.1 V, as a stopped converter judges it (R17). -/
def judgeInput (s : State) (vin : Nat) : State :=
  let ok := vinStarts s vin
  { s with pins := { s.pins with vinOk := ok, vinHigh := !ok && (s.pins.vinHigh || decide (inputThreshold 2 < vin)) } }

/-- PWR_EN asserts with the input at `vin`, which a stopped converter judges. During a power-off sequence or the
hold-off after it, it waits for their end. -/
def pwrEnAssert (s : State) (vin : Nat) : State :=
  let s := { s with pins := { s.pins with pwrEn := true } }
  match s.power with
  | .off => startConverter (judgeInput s vin)
  | .holdoff => judgeInput s vin
  | _ => s

def execPwrEnAssert (vin : Nat) (s : State) : Out := done (pwrEnAssert s vin)

/-- PWR_EN deasserts: all work stops and power is removed. -/
def pwrEnDeassert (s : State) : State :=
  let s := { s with pins := { s.pins with pwrEn := false } }
  match s.power with
  | .on => removePower s .holdoff
  | .rising => removePower s .holdoff
  | _ => s

def execPwrEnDeassert (s : State) : Out := done (pwrEnDeassert s)

/-- 100 ms after the end of the power-off sequence: a PWR_EN asserted meanwhile starts the converter. -/
def holdoffEnd (s : State) : State :=
  if s.power = .holdoff then
    startConverter { s with power := .off }
  else s

def execPowerOnHoldoffEnd (s : State) : Out := done (holdoffEnd s)

/-! ## Flash commands (R349) -/

/-- A flash command is refused, or the flash fails: ERR with its code, and NVM_REFUSED. -/
def nvmFail (s : State) (code : Nat) : State :=
  let s := setF (setB s F.NVM_STATUS_ERR true) F.NVM_STATUS_ERR_CODE code
  raiseEv s 0x6007 sevWarn none 0x23 0xB00004 (getF s F.NVM_ADDR) code

/-- The alignment of an erase, or the page of a program, is broken. -/
def nvmMisaligned (op a n : Nat) : Bool :=
  if op = 1 then a % 65536 != 0 else decide (256 < a % 256 + n)

/-- A range touches the slot that the device booted from. -/
def nvmProtected (s : State) (a n : Nat) : Bool :=
  let area := slotArea (getF s F.LUT_STATE_SLOT)
  rangesMeet a n area.1 area.2

/-- The flash is busy, or the luthier reads it for a reload. -/
def nvmBusy (s : State) : Bool := getB s F.NVM_STATUS_BUSY || getB s F.LUT_RELOAD_BUSY

/-- Begin ERASE_64K or PROGRAM. -/
def nvmBegin (s : State) (op : Nat) (mgmt : Bool) : State :=
  let a := getF s F.NVM_ADDR
  let n := if op = 1 then 65536 else getF s F.NVM_CMD_LEN1 + 1
  if nvmMisaligned op a n then nvmFail s 1
  else if nvmProtected s a n then nvmFail s 2
  else if nvmBusy s then nvmFail s 3
  else
    let bs := if op = 1 then []
      else ((List.range 64).flatMap (fun w => bytesOf 4 (getF s (F.NVM_BUF w)))).take n
    let s := setB (setB s F.NVM_STATUS_BUSY true) F.NVM_STATUS_SOURCE mgmt
    { s with flashOp := some { erase := op == 1, addr := a, bytes := bs } }

/-- A write of NVM_CMD. -/
def nvmCmdWrite (s : State) (mgmt : Bool) (v : Nat) : State :=
  let s := setF (setF s F.NVM_CMD_OP v) F.NVM_CMD_LEN1 (v / 4)
  let op := bits v 1 0
  if v.testBit 31 && (op == 1 || op == 2) then nvmBegin s op mgmt else s

def execErase64k (mgmt : Bool) (v : BitVec 32) (s : State) : Out :=
  done (inService s (fun s => nvmCmdWrite s mgmt v.toNat))

def execProgram (mgmt : Bool) (v : BitVec 32) (s : State) : Out :=
  done (inService s (fun s => nvmCmdWrite s mgmt v.toNat))

/-- The flash after a command: an erased block lists nothing. -/
def flashApply (m : List Host.Cell) (o : FlashOp) : List Host.Cell :=
  if o.erase then m.filter (fun c => decide (c.1 < o.addr) || decide (o.addr + 65536 ≤ c.1))
  else o.bytes.zipIdx.foldl (fun m p => sput 0xFF#8 m (o.addr + p.2) p.1) m

/-- A flash command ends. After a fault of the flash its bytes are undefined. -/
def nvmDone (s : State) (ok : Bool) : State :=
  match s.flashOp with
  | none => s
  | some o =>
    let s := setB s F.NVM_STATUS_BUSY false
    let s := if ok then { s with flash := flashApply s.flash o, flashOp := none } else nvmFail (cutFlash s) 4
    if ready s then reloadResume s else s

def execNvmDone (ok : Bool) (s : State) : Out := done (powered s (fun s => nvmDone s ok))

end Sys2Proof.Machine
end

