-- ==== Sys2Proof/Machine/Registers.lean ====
section
/-! DEFINITION. Writes of registers by the host and over the management bus, what registers read, and the
management transactions (R4 to R6, R20, R21, R51, R294, R295, R348, R350, R351). -/

namespace Sys2Proof.Machine

/-! ## Writes of a whole register -/

/-- The raw contents of a register, write-only fields included. -/
def regBits (s : State) (d : RegDesc) (delta : Nat) : Nat :=
  d.flds.foldl (fun a x => a + getF s (x.fld.shift delta) * 2 ^ x.fld.low) 0

/-- A register whose write acts, in the blocks that configure the device: GLB to CLK, EVT, NVM. -/
def sysWrite (s : State) (mgmt : Bool) (d : RegDesc) (delta raw : Nat) : Option State :=
  match d.off with
  | 0x10010 => some (onLutReset s raw)
  | 0x10018 => some (lutReloadWrite s raw)
  | 0x10300 => some (exportCtrlWrite s raw)
  | 0x50030 => some (clkFixedWrite s raw)
  | 0x50060 => some (sleepCtrlWrite s raw)
  | 0x3001C => some (thmSuspectWrite s raw)
  | 0x40A04 => some (vminClrWrite s raw)
  | 0x60000 => some (evtBaseWrite s raw)
  | 0x60008 => some (evtCfgWrite s raw)
  | 0x6000C => some (evtConsWrite s raw)
  | 0xB00004 => some (nvmCmdWrite s mgmt raw)
  | 0x400000 => some (setGrant (applyRanges (writeFlds s d delta raw false) d.off delta raw))
  | _ => none

/-- A register whose write acts, in the blocks that serve work. -/
def workWrite (s : State) (d : RegDesc) (delta raw : Nat) : Option State :=
  match d.off with
  | 0x210000 => some (mmuInval s raw)
  | 0x210044 => some (poolGrant s raw)
  | 0x300010 => some (evacStart s raw)
  | 0x300020 => some (layerReset s raw)
  | 0x400004 => some (fretModeWrite s raw)
  | 0x50000 => some (capSteps (writeFlds s d delta raw false))
  | 0x500014 => some (groupSelWrite s raw)
  | 0x500018 => some (groupCmd s raw)
  | 0x500024 => some (pstoreWrite s raw)
  | 0x500080 => some (groupDataWrite s (delta / 4) raw)
  | 0x600004 => some (fallbackWrite s (BitVec.ofNat 32 raw))
  | 0x700008 => some (epochCtrlWrite s raw)
  | 0x701004 => some (linkCtrlWrite s (delta / 128) raw)
  | 0x80000C => some (colPeerDownWrite s raw)
  | 0x900000 => some (traceCfgWrite s d raw)
  | 0x900008 => some (traceCfgWrite s d raw)
  | 0x900010 => some (traceCtrlWrite s raw)
  | 0x900030 => some (stopCtrlWrite s raw)
  | 0x90003C => some (devSnapWrite s raw)
  | _ => none

/-- A write of a whole register: its own effect, or its access codes, the lock of R6 and the ranges of its
block; nothing of a register that is locked whole is written, so no range of it is looked at. -/
def wholeWrite (s : State) (mgmt : Bool) (d : RegDesc) (delta raw : Nat) : State :=
  match sysWrite s mgmt d delta raw with
  | some t => t
  | none =>
    match workWrite s d delta raw with
    | some t => t
    | none => if allLocked d then plainWrite s d delta raw else applyRanges (plainWrite s d delta raw) d.off delta raw

/-- The value of a 128-bit register after a write of one 64-bit half. -/
def halfValue (s : State) (d : RegDesc) (delta half v : Nat) : Nat :=
  let cur := regBits s d delta
  if half = 0 then cur / 2 ^ 64 * 2 ^ 64 + v % 2 ^ 64 else cur % 2 ^ 64 + v % 2 ^ 64 * 2 ^ 64

/-- One access of 4 or 8 bytes to one register (R348). -/
def regWrite1 (s : State) (mgmt : Bool) (off size v : Nat) : State :=
  match findReg off with
  | none => s
  | some (d, i) =>
    let at_ := off - (d.off + i)
    let half := at_ / 8
    match bring s (d.off + i) (regBits s d i / 2 ^ (64 * half) % 2 ^ 64) d.width at_ size v with
    | (s, .staged) => s
    | (s, .whole raw) => wholeWrite s mgmt d i (if d.width ≤ 64 then raw else halfValue s d i half raw)

/-- Whether an 8-byte access meets one 64-bit register or one half of a 128-bit one, and not the words of two
registers. -/
def oneRegister (off : Nat) : Bool :=
  match findReg off with
  | some (d, i) => decide (32 < d.width) && (off - (d.off + i)) % 8 == 0
  | none => false

/-- A write through BAR0 or the management bus; an 8-byte write of two 32-bit registers is two writes. -/
def regWrite (s : State) (mgmt : Bool) (off size v : Nat) : State :=
  if size = 8 && !oneRegister off then
    regWrite1 (regWrite1 s mgmt off 4 (v % 2 ^ 32)) mgmt (off + 4) 4 (v / 2 ^ 32 % 2 ^ 32)
  else regWrite1 s mgmt off size v

/-- BAR0 holds registers below the read window of the flash; by-name registers have no stated offset (log
entry 6), and QCTL_QVIEW is a read-only copy of the queue pages. -/
def bar0Write (s : State) (off size v : Nat) : State :=
  if 0x110000 ≤ off && off < 0x150000 then s
  else if 0x4000000 ≤ off then s
  else regWrite s false off size v

/-! ## BAR2 (R20, R21, R51) -/

/-- A 4-byte write to a queue page. -/
def pageWrite4 (s : State) (q o v : Nat) : State :=
  match o with
  | 0x00 => sqBell s q (v % 2 ^ 17)
  | 0x04 => cqBell s q (v % 2 ^ 17)
  | 0x34 => qctrlWrite s q v
  | 0x30 => regWrite1 s false (viewBase q + o) 4 v
  | 0x38 => regWrite1 s false (viewBase q + o) 4 v
  | _ => if ringReg o then ringWrite1 s q o 4 v else s

/-- A write to a queue page. -/
def pageWrite (s : State) (q o size v : Nat) : State :=
  if 0x100 ≤ o then s
  else if size = 8 then
    if o == 0x10 || o == 0x20 then ringWrite1 s q o 8 v
    else pageWrite4 (pageWrite4 s q o (v % 2 ^ 32)) q (o + 4) (v / 2 ^ 32 % 2 ^ 32)
  else pageWrite4 s q o (v % 2 ^ 32)

/-- A 4-byte write to BAR2 of a function beyond its queue pages: signal words, CNT_SNAP, the MSI-X table. -/
def bar2Write4 (s : State) (fn off v : Nat) : State :=
  if 0x400000 ≤ off && off < 0x404000 then sigSet s fn ((off - 0x400000) / 4) v
  else if off = 0x500200 then cntSnapWrite s fn v
  else if 0x600000 ≤ off && off < 0x608000 then
    msixWrite s fn ((off - 0x600000) / 4) v
  else s

/-- A write to BAR2 of a function. -/
def bar2Write (s : State) (fn off size v : Nat) : State :=
  if !bar2On s fn then s
  else if off < 0x400000 then
    onQueue s fn (off / 0x1000) (fun s q => pageWrite s q (off % 0x1000) size v)
  else if size = 8 then bar2Write4 (bar2Write4 s fn off (v % 2 ^ 32)) fn (off + 4) (v / 2 ^ 32 % 2 ^ 32)
  else bar2Write4 s fn off (v % 2 ^ 32)

/-- A write of the host: BAR2 of a function, or BAR0, which only the physical function has. Another access
than a naturally aligned one of 4 or 8 bytes has no effect (R348). -/
def hostRegWrite (s : State) (fn : Nat) (bar2 : Bool) (off size v : Nat) : State :=
  if !accessOk off size then s
  else if bar2 then bar2Write s fn off size v
  else if fn = 0 then bar0Write s off size v
  else s

/-- The word that a write of BAR0 brings to LUT_RESET, if it does: an 8-byte write meets it as its low word. -/
def lutResetWord (fn : Nat) (bar2 : Bool) (off size v : Nat) : Option Nat :=
  if fn == 0 && !bar2 && off == 0x10010 && (size == 4 || size == 8) then some (v % 2 ^ 32) else none

/-- A write of a register as a service state takes it: in HALTED only LUT_RESET acts, for a device warm
reset (R294, R295). -/
def onRegWrite (s : State) (fn : Nat) (bar2 : Bool) (off size v : Nat) : State :=
  if ready s then hostRegWrite s fn bar2 off size v
  else
    match lutResetWord fn bar2 off size v with
    | some w => onLutReset s w
    | none => s

def execRegisterWrite (fn : Nat) (bar2 : Bool) (off size : Nat) (val : BitVec 64) (s : State) : Out :=
  onUnit (fnOk fn) (onRegWrite s fn bar2 off size val.toNat)

/-! ## What registers read -/

/-- Bit `i` of the result holds for the indices at which `p` does. -/
def maskFrom (n : Nat) (p : Nat → Bool) : Nat := (List.range n).foldl (fun a i => if p i then a + 2 ^ i else a) 0

/-- The time for which a reason has been set, the present spell included (R266). -/
def reasonNs (s : State) (i : Nat) : Nat :=
  let run := if reason s i then s.time - sget 0 s.capo.reasonSince i else 0
  min (2 ^ 64 - 1) (getF s (F.CAPO_RSN_NS i) + run)

/-- The head of a queue that is held by one condition of R29 alone: 0 its wait, 1 NOT_BEFORE, 2 want of a
completion entry. -/
def headHeld (s : State) (q k : Nat) : Bool :=
  match headOf s q with
  | none => false
  | some f =>
    match k with
    | 0 => !waitMet s q f.cmd
    | 1 => decide (s.time < cNotBefore f.cmd)
    | _ => !cqFree s q

/-- The 64 bytes of the selected sequence table entry as a number. DESIGN CHOICE (log entry 105): LIMIT = 2^52,
which R91 allows and its 52 bits cannot hold, reads 0. -/
def seqEntryBits (s : State) : Nat :=
  match getSeq s (getF s F.MMU_SEQ_SEL_SEQ) with
  | none => 0
  | some e => e.bits

/-- The 128 bytes that UPD_GROUP_DATA reads, with what the engine sets in an entry. -/
def groupEntryBits (s : State) : Nat :=
  if s.groupStaged then s.groupStage.toNat
  else
    (getGroup s (getF s F.UPD_GROUP_SEL_GROUP)).bits

/-- An entry of the saddle that MEM_SADDLE_SEL names. -/
def saddleEntryBits (s : State) (e : Nat) : Nat :=
  let pl := getF s F.MEM_SADDLE_SEL_PLAYER
  let col := getF s F.MEM_SADDLE_SEL_PCOL
  let b := getF s F.MEM_SADDLE_SEL_BANK
  if pl < 9 ∧ col < 1224 then
    match slook s.saddles (bankIndex pl col b * 8 + e) with
    | some d => d.line + 2 ^ 16 + d.origin.toNat * 2 ^ 17 + d.poisoned.toNat * 2 ^ 18
    | none => 0
  else 0

/-- A PDM_VMIN record: word 0 as the read itself latches it, the other words as the last read of word 0 latched
them. -/
def vminView (s : State) (c : Nat) : Nat :=
  let now := vminRecord (vminFree s c) c
  now % 2 ^ 32 + (slook s.vminLatch c).getD now / 2 ^ 32 * 2 ^ 32

/-- Registers that show state of their own: device, queues, memory. -/
def viewA (s : State) (off delta raw : Nat) : Option Nat :=
  match off with
  | 0x18 => some (s.time % 2 ^ 64)
  | 0x101000 => some (expressCnt s)
  | 0x101080 => some (maskFrom 32 (fun i => getB s (F.QSTATE_DB_ERR (8 * delta + i))))
  | 0x110030 =>
    let q := delta / 256
    some (raw ||| ((headHeld s q 2).toNat * 2 ^ 5 + (headHeld s q 0).toNat * 2 ^ 6 + (headHeld s q 1).toNat * 2 ^ 7))
  | 0x300080 => some (saddleEntryBits s (delta / 4))
  | 0x3000A0 => some (retiredCount s)
  | 0x40000 => some (vminView s (delta / 16))
  | 0x20014 => some (raw % 2 ^ 10 + (if expressCnt s = 0 then 0 else 2 ^ 10))
  | 0x20100 => some (reasonNs s (delta / 8))
  | _ => none

/-- Registers that show state of their own: pages, groups, links. -/
def viewB (s : State) (off delta raw : Nat) : Option Nat :=
  match off with
  | 0x210024 => some s.seqs.length
  | 0x210100 => some (poolFree s (delta / 32) (delta % 32 / 4))
  | 0x210400 => some (seqEntryBits s / 2 ^ (8 * delta) % 2 ^ 32)
  | 0x500008 => some ((getF s F.UPD_REGION_BASE_BASE * 2 ^ 20 + 0x80000) % 2 ^ 40)
  | 0x50001C => some (raw % 2 ^ 16 + (s.groups.filter (fun p => p.2.valid)).length * 2 ^ 16)
  | 0x500024 => some (sget 0 s.pstore (getF s F.UPD_PSTORE_ADDR_ADDR)).toNat
  | 0x500080 => some (groupEntryBits s / 2 ^ (8 * delta) % 2 ^ 32)
  | 0x700004 => some (raw % 2 ^ 17 + (prevDrained s).toNat * 2 ^ 17)
  | 0x700018 => some (maskFrom 48 (fun l => linkState s l == 3))
  | 0x800010 => some (s.colGroups.length + (s.colGroups.filter (fun p => p.2.broken)).length * 2 ^ 10)
  | 0x1030C => some (exportWord s)
  | _ => none

/-- The value of a register. -/
def regView (s : State) (d : RegDesc) (delta : Nat) : Nat :=
  let raw := regRaw s d delta
  ((viewA s d.off delta raw).or (viewB s d.off delta raw)).getD raw

/-- The copy of the page of a queue that is not VALID (R20). -/
def hiddenView (s : State) (off : Nat) : Bool :=
  0x110000 ≤ off && off < 0x150000 && !validQ s ((off - 0x110000) / 256)

/-- The byte at an offset of BAR0, 0 where no register is (R348). -/
def regByte (s : State) (off : Nat) : Nat :=
  match findReg off with
  | some (d, i) => regView s d i / 2 ^ (8 * (off - (d.off + i))) % 2 ^ 8
  | none => 0

/-- The 32-bit word at a 4-byte offset of BAR0: the flash in its window, the registers elsewhere, of which a word
may hold several narrow ones (R348). -/
def regRead32 (s : State) (off : Nat) : Nat :=
  if 0x4000000 ≤ off && off < 0x8000000 then flashNat s (off - 0x4000000) 4
  else if hiddenView s off then 0
  else match findReg off with
    | some (d, i) =>
      if 32 ≤ d.width then regView s d i / 2 ^ (8 * (off - (d.off + i))) % 2 ^ 32
      else ((List.range 4).map (fun k => regByte s (off + k) * 2 ^ (8 * k))).sum
    | none => 0

/-- What a read does besides: PDM_VMIN word 0 latches its record, LUT_EXPORT_DATA goes on. -/
def readEffect (s : State) (off : Nat) : State :=
  if 0x40000 ≤ off && off < 0x404C0 && off % 16 == 0 then vminLatch s ((off - 0x40000) / 16)
  else if off = 0x1030C then exportRead s
  else s

/-! ## Management transactions (R350, R351) -/

/-- One bit of the CRC-8 with polynomial 0x07. -/
def pecBit (c : Byte) : Byte := if c.msb then (c <<< 1) ^^^ 0x07#8 else c <<< 1

/-- The PEC of bytes: CRC-8, initial value 0. -/
def pec (bs : List Byte) : Byte :=
  bs.foldl (fun c b => (List.range 8).foldl (fun c _ => pecBit c) (c ^^^ b)) 0#8

/-- The target answers once the device has left bring-up (R294). -/
def mgmtOn (s : State) : Bool := ready s || (s.power == .on && halted s)

/-- The target's addresses: 0x40 + SLOT_ID, and a dynamic address once it has one. -/
def mgmtAddr (s : State) (a : Nat) : Bool :=
  a == 0x40 + getF s F.GLB_SLOT || (a == getF s F.MGT_STATUS_DYN_ADDR && a != 0)

/-- The blocks that the management bus reaches: GLB, LUT, CAPO, THM, PDM, CLK, MGT and NVM. -/
def mgmtReach (off : Nat) : Bool :=
  off < 0x60000 || (0xA00000 ≤ off && off < 0xB00000) || (0xB00000 ≤ off && off < 0x10000000)

/-- Set what the next read phase returns: STATUS and data, with the PEC over the read phase. -/
def respond (s : State) (addr status : Nat) (data : List Byte) : State :=
  let body := BitVec.ofNat 8 status :: data
  { s with mgmt := { s.mgmt with resp := body ++ [pec (BitVec.ofNat 8 (2 * addr + 1) :: body)] } }

/-- Data that the manual does not state. -/
def freeBytes (s : State) (n : Nat) : List Byte := bytesOf n (freeWord s).toNat

/-- GLB and LUT keep their contents in HALTED (R295). -/
def haltedReads (off : Nat) : Bool := off < 0x20000

/-- A READ whose PEC holds. -/
def mgmtRead (s : State) (addr off : Nat) : State :=
  if off % 4 != 0 || !mgmtReach off then drawn (respond s addr 3 (freeBytes s 4))
  else if halted s && !haltedReads off then respond s addr 4 (List.replicate 4 0xFF#8)
  else readEffect (respond s addr 0 (bytesOf 4 (regRead32 s off))) off

/-- A WRITE whose PEC holds; in HALTED only a request for a device warm reset is taken. -/
def mgmtWrite (s : State) (addr off v : Nat) : State :=
  if off % 4 != 0 || !mgmtReach off then respond s addr 3 []
  else if halted s then
    if off = 0x10010 && v.testBit 31 && bits v 2 0 == 4 then onLutReset (respond s addr 0 []) v
    else respond s addr 4 []
  else regWrite (respond s addr 0 []) true off 4 v

/-- A SUMMARY whose PEC holds: GLB_STATUS, CAPO_REASON and THM_STATUS. -/
def mgmtSummary (s : State) (addr : Nat) : State :=
  let h := halted s
  let word (off : Nat) : List Byte :=
    if h && !haltedReads off then List.replicate 4 0xFF#8 else bytesOf 4 (regRead32 s off)
  respond s addr (if h then 4 else 0) (word 0x10 ++ word 0x20008 ++ word 0x30004)

/-- The write phase with a bad PEC. -/
def mgmtPecBad (s : State) (addr : Nat) : State := respond (incF s F.MGT_STATUS_PEC_ERRS) addr 2 []

/-- A write phase for this target: its bytes between the address byte and the PEC. -/
def mgmtCommand (s : State) (addr : Nat) : List Byte → State
  | [c] => if c = 3 then mgmtSummary s addr else s
  | [c, a, b, d, e] => if c = 1 then mgmtRead s addr (natOf [a, b, d, e]) else s
  | [c, a, b, d, e, w, x, y, z] => if c = 2 then mgmtWrite s addr (natOf [a, b, d, e]) (natOf [w, x, y, z]) else s
  | _ => s

/-- A management transaction, in SMBus mode while no dynamic address is assigned (DEDUCED, log entry 76): the
bytes of its write phase, the address byte first and the PEC last. The target does not answer at another
address, nor before the end of bring-up. -/
def mgmtPhase (s : State) (bs : List Byte) : State :=
  match bs with
  | [] => s
  | a :: rest =>
    let addr := a.toNat / 2
    if mgmtOn s && mgmtAddr s addr && a.toNat % 2 == 0 && !rest.isEmpty then
      let s := setB s F.MGT_STATUS_LEGACY (getF s F.MGT_STATUS_DYN_ADDR == 0)
      if pec bs == 0#8 then mgmtCommand s addr rest.dropLast else mgmtPecBad s addr
    else s

def execRead (bytes : List Byte) (s : State) : Out := done (mgmtPhase s bytes)

def execWrite (bytes : List Byte) (s : State) : Out := done (mgmtPhase s bytes)

def execSummary (bytes : List Byte) (s : State) : Out := done (mgmtPhase s bytes)

/-- ENTDAA or SETDASA gives the target a dynamic address (R350). -/
def execDynamicAddress (addr : BitVec 7) (s : State) : Out :=
  done (if mgmtOn s then setB (setF s F.MGT_STATUS_DYN_ADDR addr.toNat) F.MGT_STATUS_LEGACY (addr == 0) else s)

end Sys2Proof.Machine
end

