-- ==== Sys2Proof/Machine/Dispatch.lean ====
section
/-! DEFINITION. What each command does: one arm per row of the opcode table. -/

namespace Sys2Proof.Machine

/-- The effect of a command on everything but the queue of commands. -/
def exec (i : Instr) (s : State) : Host.Outcome State Fault Refusal :=
  match i with
  | .registerWrite fn bar2 off size val => Sys2Proof.Machine.execRegisterWrite fn bar2 off size val s
  | .thruSlice player mv => Sys2Proof.Machine.execThruSlice player mv s
  | .couplerFail chan boundary down => Sys2Proof.Machine.execCouplerFail chan boundary down s
  | .coolantReversed inlet outlet flow durMs => Sys2Proof.Machine.execCoolantReversed inlet outlet flow durMs s
  | .inputVoltageStop vin => Sys2Proof.Machine.execInputVoltageStop vin s
  | .inputVoltageRestart vin => Sys2Proof.Machine.execInputVoltageRestart vin s
  | .sqDb fn n v => Sys2Proof.Machine.execSqDb fn n v s
  | .cqDb fn n v => Sys2Proof.Machine.execCqDb fn n v s
  | .commandFetch q => Sys2Proof.Machine.execCommandFetch q s
  | .frontEndReject q => Sys2Proof.Machine.execFrontEndReject q s
  | .dispatch q => Sys2Proof.Machine.execDispatch q s
  | .waitTimeout q => Sys2Proof.Machine.execWaitTimeout q s
  | .joinReport q tag seq => Sys2Proof.Machine.execJoinReport q tag seq s
  | .sigWrite fn w v => Sys2Proof.Machine.execSigWrite fn w v s
  | .nop q => Sys2Proof.Machine.execNop q s
  | .loadProgram q tag => Sys2Proof.Machine.execLoadProgram q tag s
  | .loadProgramWrite q tag lc => Sys2Proof.Machine.execLoadProgramWrite q tag lc s
  | .launch q tag => Sys2Proof.Machine.execLaunch q tag s
  | .start fn n v => Sys2Proof.Machine.execStart fn n v s
  | .stop fn n v => Sys2Proof.Machine.execStop fn n v s
  | .ringConfigWrite fn n off size v => Sys2Proof.Machine.execRingConfigWrite fn n off size v s
  | .channelTransfer col up words fails => Sys2Proof.Machine.execChannelTransfer col up words fails s
  | .bankRead dpa => Sys2Proof.Machine.execBankRead dpa s
  | .bankWrite dpa data mask poison => Sys2Proof.Machine.execBankWrite dpa data mask poison s
  | .fill q tag => Sys2Proof.Machine.execFill q tag s
  | .copy q tag => Sys2Proof.Machine.execCopy q tag s
  | .scrub mib => Sys2Proof.Machine.execScrub mib s
  | .hardFault dpa => Sys2Proof.Machine.execHardFault dpa s
  | .saddleInstall player pcol bank => Sys2Proof.Machine.execSaddleInstall player pcol bank s
  | .evacStart v => Sys2Proof.Machine.execEvacStart v s
  | .evacLineCopy => Sys2Proof.Machine.execEvacLineCopy s
  | .evacBankSwitch => Sys2Proof.Machine.execEvacBankSwitch s
  | .layerReset v => Sys2Proof.Machine.execLayerReset v s
  | .layerResetDone pass => Sys2Proof.Machine.execLayerResetDone pass s
  | .mmuInval v => Sys2Proof.Machine.execMmuInval v s
  | .mmuInvalDone => Sys2Proof.Machine.execMmuInvalDone s
  | .poolGrant v => Sys2Proof.Machine.execPoolGrant v s
  | .seqCreate q tag => Sys2Proof.Machine.execSeqCreate q tag s
  | .append q tag => Sys2Proof.Machine.execAppend q tag s
  | .prefixLookup q tag => Sys2Proof.Machine.execPrefixLookup q tag s
  | .prefixInsert q tag => Sys2Proof.Machine.execPrefixInsert q tag s
  | .migrate q tag => Sys2Proof.Machine.execMigrate q tag s
  | .release q tag => Sys2Proof.Machine.execRelease q tag s
  | .seqDestroy q tag => Sys2Proof.Machine.execSeqDestroy q tag s
  | .pageReturn page => Sys2Proof.Machine.execPageReturn page s
  | .thermalSteering sq idx => Sys2Proof.Machine.execThermalSteering sq idx s
  | .attend q tag => Sys2Proof.Machine.execAttend q tag s
  | .select q tag => Sys2Proof.Machine.execSelect q tag s
  | .attendSelected q tag => Sys2Proof.Machine.execAttendSelected q tag s
  | .attendIssueResume q tag => Sys2Proof.Machine.execAttendIssueResume q tag s
  | .fretWork q tag seq => Sys2Proof.Machine.execFretWork q tag seq s
  | .fretPartial q tag seq => Sys2Proof.Machine.execFretPartial q tag seq s
  | .fretModeWrite v => Sys2Proof.Machine.execFretModeWrite v s
  | .arrayDone c faults => Sys2Proof.Machine.execArrayDone c faults s
  | .dmaDone c tok => Sys2Proof.Machine.execDmaDone c tok s
  | .add u d a b => Sys2Proof.Machine.execAdd u d a b s
  | .sub u d a b => Sys2Proof.Machine.execSub u d a b s
  | .and u d a b => Sys2Proof.Machine.execAnd u d a b s
  | .or u d a b => Sys2Proof.Machine.execOr u d a b s
  | .xor u d a b => Sys2Proof.Machine.execXor u d a b s
  | .sll u d a b => Sys2Proof.Machine.execSll u d a b s
  | .srl u d a b => Sys2Proof.Machine.execSrl u d a b s
  | .sra u d a b => Sys2Proof.Machine.execSra u d a b s
  | .slt u d a b => Sys2Proof.Machine.execSlt u d a b s
  | .sltu u d a b => Sys2Proof.Machine.execSltu u d a b s
  | .min u d a b => Sys2Proof.Machine.execMin u d a b s
  | .max u d a b => Sys2Proof.Machine.execMax u d a b s
  | .mul u d a b => Sys2Proof.Machine.execMul u d a b s
  | .mulh u d a b => Sys2Proof.Machine.execMulh u d a b s
  | .mulhu u d a b => Sys2Proof.Machine.execMulhu u d a b s
  | .div u d a b => Sys2Proof.Machine.execDiv u d a b s
  | .divu u d a b => Sys2Proof.Machine.execDivu u d a b s
  | .rem u d a b => Sys2Proof.Machine.execRem u d a b s
  | .remu u d a b => Sys2Proof.Machine.execRemu u d a b s
  | .addi u d a imm => Sys2Proof.Machine.execAddi u d a imm s
  | .andi u d a imm => Sys2Proof.Machine.execAndi u d a imm s
  | .ori u d a imm => Sys2Proof.Machine.execOri u d a imm s
  | .xori u d a imm => Sys2Proof.Machine.execXori u d a imm s
  | .slli u d a imm => Sys2Proof.Machine.execSlli u d a imm s
  | .srli u d a imm => Sys2Proof.Machine.execSrli u d a imm s
  | .srai u d a imm => Sys2Proof.Machine.execSrai u d a imm s
  | .slti u d a imm => Sys2Proof.Machine.execSlti u d a imm s
  | .bcc u cond a b off => Sys2Proof.Machine.execBcc u cond a b off s
  | .jal u d a imm => Sys2Proof.Machine.execJal u d a imm s
  | .jalr u d a imm => Sys2Proof.Machine.execJalr u d a imm s
  | .li u d rsv imm => Sys2Proof.Machine.execLi u d rsv imm s
  | .lih u d rsv imm => Sys2Proof.Machine.execLih u d rsv imm s
  | .systemNop u => Sys2Proof.Machine.execSystemNop u s
  | .endKernel u => Sys2Proof.Machine.execEndKernel u s
  | .astr u d => Sys2Proof.Machine.execAstr u d s
  | .astc u a => Sys2Proof.Machine.execAstc u a s
  | .cycle u d => Sys2Proof.Machine.execCycle u d s
  | .timeRead u d => Sys2Proof.Machine.execTimeRead u d s
  | .ldb u d a imm => Sys2Proof.Machine.execLdb u d a imm s
  | .ldh u d a imm => Sys2Proof.Machine.execLdh u d a imm s
  | .ldw u d a imm => Sys2Proof.Machine.execLdw u d a imm s
  | .ldd u d a imm => Sys2Proof.Machine.execLdd u d a imm s
  | .stb u d a imm => Sys2Proof.Machine.execStb u d a imm s
  | .sth u d a imm => Sys2Proof.Machine.execSth u d a imm s
  | .stw u d a imm => Sys2Proof.Machine.execStw u d a imm s
  | .std u d a imm => Sys2Proof.Machine.execStd u d a imm s
  | .ldbu u d a imm => Sys2Proof.Machine.execLdbu u d a imm s
  | .ldhu u d a imm => Sys2Proof.Machine.execLdhu u d a imm s
  | .ldwu u d a imm => Sys2Proof.Machine.execLdwu u d a imm s
  | .vld u d a imm => Sys2Proof.Machine.execVld u d a imm s
  | .vst u d a imm => Sys2Proof.Machine.execVst u d a imm s
  | .vlds u d a b => Sys2Proof.Machine.execVlds u d a b s
  | .vsts u d a b => Sys2Proof.Machine.execVsts u d a b s
  | .vgather u d a b => Sys2Proof.Machine.execVgather u d a b s
  | .vscatter u d a b => Sys2Proof.Machine.execVscatter u d a b s
  | .vadd u d a b pred pz => Sys2Proof.Machine.execVadd u d a b pred pz s
  | .vsub u d a b pred pz => Sys2Proof.Machine.execVsub u d a b pred pz s
  | .vmul u d a b pred pz => Sys2Proof.Machine.execVmul u d a b pred pz s
  | .vand u d a b pred pz => Sys2Proof.Machine.execVand u d a b pred pz s
  | .vor u d a b pred pz => Sys2Proof.Machine.execVor u d a b pred pz s
  | .vxor u d a b pred pz => Sys2Proof.Machine.execVxor u d a b pred pz s
  | .vsll u d a b pred pz => Sys2Proof.Machine.execVsll u d a b pred pz s
  | .vsra u d a b pred pz => Sys2Proof.Machine.execVsra u d a b pred pz s
  | .vmin u d a b pred pz => Sys2Proof.Machine.execVmin u d a b pred pz s
  | .vmax u d a b pred pz => Sys2Proof.Machine.execVmax u d a b pred pz s
  | .vfadd u d a b pred pz => Sys2Proof.Machine.execVfadd u d a b pred pz s
  | .vfsub u d a b pred pz => Sys2Proof.Machine.execVfsub u d a b pred pz s
  | .vfmul u d a b pred pz => Sys2Proof.Machine.execVfmul u d a b pred pz s
  | .vfma u d a b pred pz => Sys2Proof.Machine.execVfma u d a b pred pz s
  | .vfmin u d a b pred pz => Sys2Proof.Machine.execVfmin u d a b pred pz s
  | .vfmax u d a b pred pz => Sys2Proof.Machine.execVfmax u d a b pred pz s
  | .vfabs u d a b pred pz => Sys2Proof.Machine.execVfabs u d a b pred pz s
  | .vfneg u d a b pred pz => Sys2Proof.Machine.execVfneg u d a b pred pz s
  | .vfdiv u d a b pred pz => Sys2Proof.Machine.execVfdiv u d a b pred pz s
  | .vfsqrt u d a b pred pz => Sys2Proof.Machine.execVfsqrt u d a b pred pz s
  | .vexp2 u d a b pred pz => Sys2Proof.Machine.execVexp2 u d a b pred pz s
  | .vrcp u d a b pred pz => Sys2Proof.Machine.execVrcp u d a b pred pz s
  | .vrsqrt u d a b pred pz => Sys2Proof.Machine.execVrsqrt u d a b pred pz s
  | .vfma2Bf16 u d a b pred pz => Sys2Proof.Machine.execVfma2Bf16 u d a b pred pz s
  | .vfma2F16 u d a b pred pz => Sys2Proof.Machine.execVfma2F16 u d a b pred pz s
  | .vfcmpEq u d a b pred pz => Sys2Proof.Machine.execVfcmpEq u d a b pred pz s
  | .vfcmpLt u d a b pred pz => Sys2Proof.Machine.execVfcmpLt u d a b pred pz s
  | .vfcmpLe u d a b pred pz => Sys2Proof.Machine.execVfcmpLe u d a b pred pz s
  | .vicmpEq u d a b pred pz => Sys2Proof.Machine.execVicmpEq u d a b pred pz s
  | .vicmpLt u d a b pred pz => Sys2Proof.Machine.execVicmpLt u d a b pred pz s
  | .vsel u d a b pred pz => Sys2Proof.Machine.execVsel u d a b pred pz s
  | .vbcast u d a b pred pz => Sys2Proof.Machine.execVbcast u d a b pred pz s
  | .vextr u d a b pred pz => Sys2Proof.Machine.execVextr u d a b pred pz s
  | .vredsum u d a b pred pz => Sys2Proof.Machine.execVredsum u d a b pred pz s
  | .vredmax u d a b pred pz => Sys2Proof.Machine.execVredmax u d a b pred pz s
  | .vperm u d a b pred pz => Sys2Proof.Machine.execVperm u d a b pred pz s
  | .vcvt u d a b pred pz => Sys2Proof.Machine.execVcvt u d a b pred pz s
  | .vwadd u d a b pred pz => Sys2Proof.Machine.execVwadd u d a b pred pz s
  | .vwcvt u d a b pred pz => Sys2Proof.Machine.execVwcvt u d a b pred pz s
  | .pand u d a b pred pz => Sys2Proof.Machine.execPand u d a b pred pz s
  | .por u d a b pred pz => Sys2Proof.Machine.execPor u d a b pred pz s
  | .pxor u d a b pred pz => Sys2Proof.Machine.execPxor u d a b pred pz s
  | .pnot u d a b pred pz => Sys2Proof.Machine.execPnot u d a b pred pz s
  | .tld u d a => Sys2Proof.Machine.execTld u d a s
  | .tst u d a => Sys2Proof.Machine.execTst u d a s
  | .tbase u d a => Sys2Proof.Machine.execTbase u d a s
  | .mac u mode ts tx ty acc tok anchor rsv => Sys2Proof.Machine.execMac u mode ts tx ty acc tok anchor rsv s
  | .l1 u mode ts tx ty acc tok anchor rsv => Sys2Proof.Machine.execL1 u mode ts tx ty acc tok anchor rsv s
  | .l2sq u mode ts tx ty acc tok anchor rsv => Sys2Proof.Machine.execL2sq u mode ts tx ty acc tok anchor rsv s
  | .maxplus u mode ts tx ty acc tok anchor rsv => Sys2Proof.Machine.execMaxplus u mode ts tx ty acc tok anchor rsv s
  | .minplus u mode ts tx ty acc tok anchor rsv => Sys2Proof.Machine.execMinplus u mode ts tx ty acc tok anchor rsv s
  | .cmpcnt u mode ts tx ty acc tok anchor rsv => Sys2Proof.Machine.execCmpcnt u mode ts tx ty acc tok anchor rsv s
  | .get u l v n sh tok rsv => Sys2Proof.Machine.execGet u l v n sh tok rsv s
  | .put u l v n sh tok rsv => Sys2Proof.Machine.execPut u l v n sh tok rsv s
  | .waitd u a => Sys2Proof.Machine.execWaitd u a s
  | .waita u a => Sys2Proof.Machine.execWaita u a s
  | .fence u => Sys2Proof.Machine.execFence u s
  | .sigw u a b => Sys2Proof.Machine.execSigw u a b s
  | .sigpSet u a b => Sys2Proof.Machine.execSigpSet u a b s
  | .sigpAdd u a b => Sys2Proof.Machine.execSigpAdd u a b s
  | .sigr u d a => Sys2Proof.Machine.execSigr u d a s
  | .bar u d scope id => Sys2Proof.Machine.execBar u d scope id s
  | .barrierRelease scope lc id => Sys2Proof.Machine.execBarrierRelease scope lc id s
  | .dbell u d a b => Sys2Proof.Machine.execDbell u d a b s
  | .doorbellArrival c => Sys2Proof.Machine.execDoorbellArrival c s
  | .dwait u d a => Sys2Proof.Machine.execDwait u d a s
  | .stopt u => Sys2Proof.Machine.execStopt u s
  | .update q tag => Sys2Proof.Machine.execUpdate q tag s
  | .updateStart q tag => Sys2Proof.Machine.execUpdateStart q tag s
  | .updateInvocationEnd u => Sys2Proof.Machine.execUpdateInvocationEnd u s
  | .prologueStart q tag => Sys2Proof.Machine.execPrologueStart q tag s
  | .applyPassStart q tag => Sys2Proof.Machine.execApplyPassStart q tag s
  | .ruleLimit u => Sys2Proof.Machine.execRuleLimit u s
  | .scheduleSet q tag => Sys2Proof.Machine.execScheduleSet q tag s
  | .groupWrite v => Sys2Proof.Machine.execGroupWrite v s
  | .groupInvalidate v => Sys2Proof.Machine.execGroupInvalidate v s
  | .pstoreWrite v => Sys2Proof.Machine.execPstoreWrite v s
  | .nocPacket r port arrivals retries ecc => Sys2Proof.Machine.execNocPacket r port arrivals retries ecc s
  | .packetAged r port => Sys2Proof.Machine.execPacketAged r port s
  | .meshLinkFailed r dir => Sys2Proof.Machine.execMeshLinkFailed r dir s
  | .routerBypass r => Sys2Proof.Machine.execRouterBypass r s
  | .routeChangeDone => Sys2Proof.Machine.execRouteChangeDone s
  | .nocDrainTimeout r => Sys2Proof.Machine.execNocDrainTimeout r s
  | .nocFallbackWrite v => Sys2Proof.Machine.execNocFallbackWrite v s
  | .fallbackExit => Sys2Proof.Machine.execFallbackExit s
  | .clockStep half k => Sys2Proof.Machine.execClockStep half k s
  | .pllLock half => Sys2Proof.Machine.execPllLock half s
  | .dataFlit l flit corr fecBad => Sys2Proof.Machine.execDataFlit l flit corr fecBad s
  | .nak l flit => Sys2Proof.Machine.execNak l flit s
  | .replayLimit l => Sys2Proof.Machine.execReplayLimit l s
  | .linkDegrade l lanes => Sys2Proof.Machine.execLinkDegrade l lanes s
  | .linkRetrainDone l lanes => Sys2Proof.Machine.execLinkRetrainDone l lanes s
  | .linkSwitchPacket n => Sys2Proof.Machine.execLinkSwitchPacket n s
  | .unreachableNotice th => Sys2Proof.Machine.execUnreachableNotice th s
  | .linkWatchdog l vc => Sys2Proof.Machine.execLinkWatchdog l vc s
  | .activate v => Sys2Proof.Machine.execActivate v s
  | .retire v => Sys2Proof.Machine.execRetire v s
  | .prevRetired => Sys2Proof.Machine.execPrevRetired s
  | .peerJoin l dev peerLink lanes => Sys2Proof.Machine.execPeerJoin l dev peerLink lanes s
  | .linkCtrlRetrain l v => Sys2Proof.Machine.execLinkCtrlRetrain l v s
  | .linkDisable l v => Sys2Proof.Machine.execLinkDisable l v s
  | .linkSend q tag => Sys2Proof.Machine.execLinkSend q tag s
  | .linkSendSegment pkt rsig => Sys2Proof.Machine.execLinkSendSegment pkt rsig s
  | .groupCreate q tag => Sys2Proof.Machine.execGroupCreate q tag s
  | .groupDestroy q tag => Sys2Proof.Machine.execGroupDestroy q tag s
  | .collective q tag => Sys2Proof.Machine.execCollective q tag s
  | .collectiveSegment pkt room => Sys2Proof.Machine.execCollectiveSegment pkt room s
  | .segmentRetry n => Sys2Proof.Machine.execSegmentRetry n s
  | .peerLost part key dev => Sys2Proof.Machine.execPeerLost part key dev s
  | .colPeerDown v => Sys2Proof.Machine.execColPeerDown v s
  | .collectiveTimeout g dev => Sys2Proof.Machine.execCollectiveTimeout g dev s
  | .hold l => Sys2Proof.Machine.execHold l s
  | .holdTimeout l => Sys2Proof.Machine.execHoldTimeout l s
  | .senseExclude pair mv => Sys2Proof.Machine.execSenseExclude pair mv s
  | .pdmVminClr v => Sys2Proof.Machine.execPdmVminClr v s
  | .vminReadLatch c => Sys2Proof.Machine.execVminReadLatch c s
  | .droop site mv => Sys2Proof.Machine.execDroop site mv s
  | .droopRelease site mv => Sys2Proof.Machine.execDroopRelease site mv s
  | .droopStepHoldEnd k => Sys2Proof.Machine.execDroopStepHoldEnd k s
  | .curLimit vstk site amps => Sys2Proof.Machine.execCurLimit vstk site amps s
  | .curLimitRelease vstk site amps => Sys2Proof.Machine.execCurLimitRelease vstk site amps s
  | .vrDegraded cell phase => Sys2Proof.Machine.execVrDegraded cell phase s
  | .nocCellFail cell => Sys2Proof.Machine.execNocCellFail cell s
  | .powerLoop pwr avg vin => Sys2Proof.Machine.execPowerLoop pwr avg vin s
  | .collDeferEnd k => Sys2Proof.Machine.execCollDeferEnd k s
  | .energyAttribution em eu parts queues cmds => Sys2Proof.Machine.execEnergyAttribution em eu parts queues cmds s
  | .fretGrant pwr rate limited heldNs => Sys2Proof.Machine.execFretGrant pwr rate limited heldNs s
  | .clkFixedWrite v => Sys2Proof.Machine.execClkFixedWrite v s
  | .thermalLoop readings => Sys2Proof.Machine.execThermalLoop readings s
  | .sensorReadmit idx temp => Sys2Proof.Machine.execSensorReadmit idx temp s
  | .sensorDisagree site durMs => Sys2Proof.Machine.execSensorDisagree site durMs s
  | .traySensor outlet durMs => Sys2Proof.Machine.execTraySensor outlet durMs s
  | .inletOutOfRange durMs => Sys2Proof.Machine.execInletOutOfRange durMs s
  | .layerSuspect p durMs => Sys2Proof.Machine.execLayerSuspect p durMs s
  | .suspectClear p durMs => Sys2Proof.Machine.execSuspectClear p durMs s
  | .thmSuspectWrite v => Sys2Proof.Machine.execThmSuspectWrite v s
  | .thetaUpdate steady mean => Sys2Proof.Machine.execThetaUpdate steady mean s
  | .flowPulse => Sys2Proof.Machine.execFlowPulse s
  | .flowZero => Sys2Proof.Machine.execFlowZero s
  | .flowReducedEntry durMs => Sys2Proof.Machine.execFlowReducedEntry durMs s
  | .flowReducedExit durMs => Sys2Proof.Machine.execFlowReducedExit durMs s
  | .flowLossEntry rise => Sys2Proof.Machine.execFlowLossEntry rise s
  | .flowLossExit rise durMs => Sys2Proof.Machine.execFlowLossExit rise durMs s
  | .thermtrip die sensor temp durNs => Sys2Proof.Machine.execThermtrip die sensor temp durNs s
  | .traySensorRead inlet outlet => Sys2Proof.Machine.execTraySensorRead inlet outlet s
  | .powerOnReset slotId => Sys2Proof.Machine.execPowerOnReset slotId s
  | .fuseRead ok => Sys2Proof.Machine.execFuseRead ok s
  | .imageCheck => Sys2Proof.Machine.execImageCheck s
  | .railRaise rails cells => Sys2Proof.Machine.execRailRaise rails cells s
  | .couplerTraining faults retrained => Sys2Proof.Machine.execCouplerTraining faults retrained s
  | .dramTraining layers lines => Sys2Proof.Machine.execDramTraining layers lines s
  | .logicalNumbering bad => Sys2Proof.Machine.execLogicalNumbering bad s
  | .routeTableFill bad => Sys2Proof.Machine.execRouteTableFill bad s
  | .linkTraining links => Sys2Proof.Machine.execLinkTraining links s
  | .linkQualification l bits errs uncorr => Sys2Proof.Machine.execLinkQualification l bits errs uncorr s
  | .stage7Timeout => Sys2Proof.Machine.execStage7Timeout s
  | .ready => Sys2Proof.Machine.execReady s
  | .coreReset v => Sys2Proof.Machine.execCoreReset v s
  | .clusterReset v => Sys2Proof.Machine.execClusterReset v s
  | .clusterDrainEnd => Sys2Proof.Machine.execClusterDrainEnd s
  | .partitionReset v => Sys2Proof.Machine.execPartitionReset v s
  | .partitionDrainEnd p => Sys2Proof.Machine.execPartitionDrainEnd p s
  | .soundboardIoReset v => Sys2Proof.Machine.execSoundboardIoReset v s
  | .soundboardIoResetDone => Sys2Proof.Machine.execSoundboardIoResetDone s
  | .deviceWarmReset v => Sys2Proof.Machine.execDeviceWarmReset v s
  | .partitionReload v => Sys2Proof.Machine.execPartitionReload v s
  | .capoReload v => Sys2Proof.Machine.execCapoReload v s
  | .thermalReload v => Sys2Proof.Machine.execThermalReload v s
  | .traymapReload v => Sys2Proof.Machine.execTraymapReload v s
  | .routeReload v => Sys2Proof.Machine.execRouteReload v s
  | .defectReload v => Sys2Proof.Machine.execDefectReload v s
  | .snap v => Sys2Proof.Machine.execSnap v s
  | .exportDataRead => Sys2Proof.Machine.execExportDataRead s
  | .scheduledWake scope => Sys2Proof.Machine.execScheduledWake scope s
  | .wakeDone scope => Sys2Proof.Machine.execWakeDone scope s
  | .linkIdle l => Sys2Proof.Machine.execLinkIdle l s
  | .sleep l => Sys2Proof.Machine.execSleep l s
  | .refresh player pcol bank express => Sys2Proof.Machine.execRefresh player pcol bank express s
  | .droneDeadline task scope => Sys2Proof.Machine.execDroneDeadline task scope s
  | .peg task idx sel => Sys2Proof.Machine.execPeg task idx sel s
  | .clkSleepCtrlWrite v => Sys2Proof.Machine.execClkSleepCtrlWrite v s
  | .eventRecord n => Sys2Proof.Machine.execEventRecord n s
  | .rateWindowClose n => Sys2Proof.Machine.execRateWindowClose n s
  | .evtCfgWrite v => Sys2Proof.Machine.execEvtCfgWrite v s
  | .throttleN asserted => Sys2Proof.Machine.execThrottleN asserted s
  | .throttleStuck => Sys2Proof.Machine.execThrottleStuck s
  | .throttleChatterEnd => Sys2Proof.Machine.execThrottleChatterEnd s
  | .cntSnap fn v => Sys2Proof.Machine.execCntSnap fn v s
  | .dbgCntSnap v => Sys2Proof.Machine.execDbgCntSnap v s
  | .traceConfigWrite off size v => Sys2Proof.Machine.execTraceConfigWrite off size v s
  | .traceEnable v => Sys2Proof.Machine.execTraceEnable v s
  | .trig v => Sys2Proof.Machine.execTrig v s
  | .traceRecordWrite => Sys2Proof.Machine.execTraceRecordWrite s
  | .globalStop v => Sys2Proof.Machine.execGlobalStop v s
  | .stopToken unit => Sys2Proof.Machine.execStopToken unit s
  | .globalResume v => Sys2Proof.Machine.execGlobalResume v s
  | .markProbe l => Sys2Proof.Machine.execMarkProbe l s
  | .probeRx l flit => Sys2Proof.Machine.execProbeRx l flit s
  | .hostReadTimeout r => Sys2Proof.Machine.execHostReadTimeout r s
  | .vfFlr fn => Sys2Proof.Machine.execVfFlr fn s
  | .pfFlr => Sys2Proof.Machine.execPfFlr s
  | .hotReset => Sys2Proof.Machine.execHotReset s
  | .perstN => Sys2Proof.Machine.execPerstN s
  | .pwrEnAssert vin => Sys2Proof.Machine.execPwrEnAssert vin s
  | .pwrEnDeassert => Sys2Proof.Machine.execPwrEnDeassert s
  | .erase64k mgmt v => Sys2Proof.Machine.execErase64k mgmt v s
  | .program mgmt v => Sys2Proof.Machine.execProgram mgmt v s
  | .nvmDone ok => Sys2Proof.Machine.execNvmDone ok s
  | .read bytes => Sys2Proof.Machine.execRead bytes s
  | .write bytes => Sys2Proof.Machine.execWrite bytes s
  | .summary bytes => Sys2Proof.Machine.execSummary bytes s
  | .dynamicAddress addr => Sys2Proof.Machine.execDynamicAddress addr s
  | .updateUnitCheckFail u => Sys2Proof.Machine.execUpdateUnitCheckFail u s
  | .perstNDeassert => Sys2Proof.Machine.execPerstNDeassert s
  | .pcieLinkReturn => Sys2Proof.Machine.execPcieLinkReturn s
  | .powerOnHoldoffEnd => Sys2Proof.Machine.execPowerOnHoldoffEnd s
  | .sleepEntryDone scope => Sys2Proof.Machine.execSleepEntryDone scope s
  | .idleFlit l flit => Sys2Proof.Machine.execIdleFlit l flit s

end Sys2Proof.Machine
end

