-- ==== Sys2Proof/Machine/Reads.lean ====
section
/-! DEFINITION. What the host reads: BAR0, BAR2 and configuration requests (R20, R51, R294, R295, R329, R331,
R345, R348). The table has no command for a host read but VMIN_READ_LATCH and EXPORT_DATA_READ; what a read
changes is `hostReadEffect`. -/

namespace Sys2Proof.Machine

/-- How a read completes: with data, or as Unsupported Request. -/
inductive HostAnswer where
  | data (v : Nat)
  | unsupported
  deriving DecidableEq, Repr

/-- How a configuration request completes, none where the module has no power. -/
inductive ConfigAnswer where
  | noAnswer
  | retry
  | success
  deriving DecidableEq, Repr

/-- The word at a 4-byte offset of BAR2 of a function in service; a disabled function reads 0 (*Table: BAR2 map*,
*Table: PART_CFG fields*). -/
def bar2Word (s : State) (fn off : Nat) : Nat :=
  let half (v a : Nat) : Nat := v / 2 ^ (32 * (a / 4 % 2)) % 2 ^ 32
  if !bar2On s fn then 0
  else if off < 0x400000 then
    match queueAt s fn (off / 0x1000) with
    | some q => if off % 0x1000 < 0x100 then regRead32 s (viewBase q + off % 0x1000) else 0
    | none => 0
  else if off < 0x404000 then sigGet s fn ((off - 0x400000) / 4)
  else if 0x500000 ≤ off && off < 0x500100 then half (getF s (F.CNT fn ((off - 0x500000) / 8))) off
  else if 0x500300 ≤ off && off < 0x500308 then half (getF s (F.CNT_SNAP_TIME fn)) off
  else if 0x500400 ≤ off && off < 0x500500 then half (getF s (F.CNT_SHADOW fn ((off - 0x500400) / 8))) off
  else if 0x600000 ≤ off && off < 0x608000 then msixWord s fn ((off - 0x600000) / 4)
  else if 0x700000 ≤ off && off < 0x700100 then
    maskFrom 32 (fun i => msixPending s fn (8 * (off - 0x700000) + i))
  else 0

/-- The word at a 4-byte offset of a BAR. -/
def barWord (s : State) (fn : Nat) (bar2 : Bool) (off : Nat) : Nat := if bar2 then bar2Word s fn off else regRead32 s off

/-- A BAR of a function: BAR0 only of function 0, 256 MiB; BAR2 of 8 MiB (*Table: Function BARs*). -/
def barHas (fn : Nat) (bar2 : Bool) (off : Nat) : Bool :=
  fn < 16 && (if bar2 then off < 0x800000 else fn == 0 && off < 0x10000000)

/-- What a read of 4 or 8 bytes returns. -/
def barRead (s : State) (fn : Nat) (bar2 : Bool) (off size : Nat) : HostAnswer :=
  if !accessOk off size || !barHas fn bar2 off then .unsupported
  else if ready s then
    .data (barWord s fn bar2 off + if size = 8 then barWord s fn bar2 (off + 4) * 2 ^ 32 else 0)
  else if s.power == .on && halted s then
    if !bar2 && haltedReads off then
      .data (regRead32 s off + if size = 8 then regRead32 s (off + 4) * 2 ^ 32 else 0)
    else .data (2 ^ (8 * size) - 1)
  else .unsupported

/-- What a read changes: PDM_VMIN word 0 latches its record, LUT_EXPORT_DATA goes on (R251, R309). -/
def hostReadEffect (s : State) (fn : Nat) (bar2 : Bool) (off size : Nat) : State :=
  if accessOk off size && barHas fn bar2 off && !bar2 && ready s then
    if size = 8 then readEffect (readEffect s off) (off + 4) else readEffect s off
  else s

/-- How a configuration request completes (R294, R295). -/
def configAnswer (s : State) : ConfigAnswer :=
  if s.power != .on then .noAnswer else if devState s = 0 then .retry else .success

/-! ## Configuration space (R345, R347)

The table has no command for a configuration request either: these are what one does. -/

/-- A dword of a function's configuration space as host software left it; 0 where it has written none (log entry
102). -/
def configRead (s : State) (fn dw : Nat) : Word := sget 0 s.pcie.config (fn * 1024 + dw)

/-- The BAR that a function is assigned: BAR0 in dwords 4 and 5, BAR2 in dwords 6 and 7. -/
def barBase (s : State) (fn : Nat) (bar2 : Bool) : Nat :=
  let d := if bar2 then 6 else 4
  (configRead s fn d).toNat / 16 * 16 + (configRead s fn (d + 1)).toNat * 2 ^ 32

/-- A configuration write that completes. -/
def configWrite (s : State) (fn dw : Nat) (v : Word) : State :=
  if configAnswer s = .success then { s with pcie := { s.pcie with config := sput 0 s.pcie.config (fn * 1024 + dw) v } } else s

/-- A write of a function's MSI-X message control: what is pending and no longer masked is sent. -/
def msixCtlWrite (s : State) (fn v : Nat) : State :=
  if configAnswer s = .success then
    let s := { s with pcie := { s.pcie with msixCtl := sput 0x8000 s.pcie.msixCtl fn (v % 2 ^ 16 / 2 ^ 14 * 2 ^ 14) } }
    if msixEnabled s fn then msixFlush s fn else s
  else s

/-- A write of a function's AER status: the bits written 1 clear. -/
def aerClear (s : State) (fn v : Nat) : State :=
  if configAnswer s = .success then
    { s with pcie := { s.pcie with aer := sput 0 s.pcie.aer fn (sget 0 s.pcie.aer fn &&& (2 ^ 32 - 1 - v % 2 ^ 32)) } }
  else s

end Sys2Proof.Machine
end

