-- ==== Sys2Proof/Safety.lean ====
section
/-! DEFINITION. What the claims say of runs: the canonical form of the memories, the states in which an
instruction issues, and what two states agree on. -/

namespace Sys2Proof.Machine

/-- The canonical form of the memories: strictly rising addresses, and no byte of the flash listed that
reads as an erased one. -/
def Memory.wf (s : State) : Bool := sorted s.mem && sorted s.hostMem && swf 0xFF#8 s.flash

/-- An instruction of `len` bytes issues on a unit: the device is in service, the unit exists, runs and
waits for nothing, and the instruction lies within its program (R162, R181). -/
def Runs (s : State) (u : Exu) (len : Nat) : Prop :=
  exuOk u = true ∧ ready s = true ∧ mayIssue s u = true ∧ (getRf s u).pc + len ≤ codeLen s u

/-- The state in which an issued instruction leaves the registers of its unit as `r`. -/
def Issued (s : State) (u : Exu) (r : RegFile) : State := setRf (countIssue s u) u r

/-- The state in which an instruction leaves its core: counted, and otherwise as `f` makes the core. Nothing
outside the core changes. -/
def CoreLeft (s : State) (c : Nat) (f : Core → Core) : State :=
  setCore s c (f { getCore s c with issued := (getCore s c).issued + 1 })

/-- A core that consumes a poisoned word: its item reports ST_UE (R139). -/
def noteUe (bad : Bool) (k : Core) : Core := if bad then noteExc k k.issued (plainResult stUe) else k

/-- The state in which a vector instruction leaves its unit with registers `r'`, having counted `n` items of an
index for the partition and the cluster that the unit works for (R329). -/
def VecLeft (s : State) (u : Exu) (r' : RegFile) (index n : Nat) : State :=
  countLc (Issued s u r') (workFor s u).1 (workFor s u).2 index n

/-- Two states that differ at most in register fields. -/
def SameOutsideFields (s t : State) : Prop := t = { s with fields := t.fields }

/-- Every register field but those with the keys of a list reads as before. -/
def KeepsFields (s t : State) (keys : List Nat) : Prop := ∀ f : Fld, f.key ∉ keys → getF t f = getF s f

/-- Two states that differ in register fields alone, and there only in those of a list. -/
def OnlyFields (s t : State) (keys : List Nat) : Prop := SameOutsideFields s t ∧ KeepsFields s t keys

/-- The state with one event more, detected now, behind those that wait. -/
def Raised (s : State) (famCode sev : Nat) (part : Option Nat) (kind index aux data : Nat) : State :=
  { s with events := { s.events with waiting := s.events.waiting ++
    [{ time := s.time, famCode := famCode, sev := sev, part := part, srcKind := kind, srcIndex := index,
       suppressed := 0, aux := aux, data := data }] } }

/-- A state adds one event, detected now, to those that wait in another. -/
def Raises (s t : State) (famCode sev : Nat) (part : Option Nat) (kind index aux data : Nat) : Prop :=
  t.events.waiting = s.events.waiting ++
    [{ time := s.time, famCode := famCode, sev := sev, part := part, srcKind := kind, srcIndex := index,
       suppressed := 0, aux := aux, data := data }]

/-- `r'` is `r` past an instruction of 4 bytes, with the lanes of vector register `d` that `on` names holding
`f` with poison `p`, and the others kept, or 0 when `pz` says so (R167). -/
def LanesSet (r r' : RegFile) (d : BitVec 5) (on : Word) (pz : Bool) (f : Nat → Word) (p : Bool) : Prop :=
  (∀ i, i < 32 → vget r' d i = if on.getLsbD i then (f i, p) else if pz then (0, false) else vget r d i) ∧
  (∀ n i, n ≠ d → i < 32 → vget r' n i = vget r n i) ∧ r'.x = r.x ∧ r'.p = r.p ∧ r'.pc = r.pc + 4

/-- Nothing of a core is in flight, so a read or write of its local store is that of the store alone. -/
def Quiet (s : State) (c : Nat) : Prop := inFlight (getCore s c) = false

/-- A byte of the local store of a core as a read finds it. -/
def localByte (s : State) (c a : Nat) : Byte := lsByte s c (getCore s c).ls a

/-- Some word that holds one of `n` bytes from `a` of a core's local store is poisoned. -/
def localPoison (s : State) (c a n : Nat) : Bool := (List.range n).any (fun i => lsPoison (storeOf (getCore s c)) (a + i))

/-- The command completes with a next state of which something holds. -/
def Completes (i : Instr) (s : State) (holds : State → Prop) : Prop := ∃ t, exec i s = .next t ∧ holds t

end Sys2Proof.Machine
end

