-- ==== Sys2Proof/Certificates/Slice0/Obligations.lean ====
section
/-! DEFINITION. The statements for the provers: what the rules of the manual say that each command does.
Every statement quantifies over states that no run reaches as well; its hypotheses name the state and the
operands alone. -/

open Sys2Proof Sys2Proof.Machine

/-- The front of the queue acts (the block's queue of commands, log entry 1). An empty queue: the model's own choice
(log entry 1), in the unit of device time of the Notation; the end of a turn is log entry 48. -/
def Obligations.StepTakesFrontCommand : Prop :=
  (∀ (s : State) (c : Instr) (rest : List Instr),
    step { s with pending := c :: rest } = exec c { s with pending := rest }) ∧
  (∀ s : State, s.pending = [] → (s.queues.map (·.1)).Nodup →
    ∃ u : State,
      u = { s with time := s.time + 1, queues := u.queues, turns := u.turns } ∧
      (∀ q, getQueue u q = { getQueue s q with
        waitSince :=
          if heldByWait { s with time := s.time + 1 } q then some ((getQueue s q).waitSince.getD (s.time + 1))
          else if feStopped s (engineOf s q) then (getQueue s q).waitSince.map (· + 1) else none }) ∧
      (∀ e, sget .zero u.turns e =
        if e < 5 ∧ 0 < (sget .zero s.turns e).left ∧ headReady u (sget .zero s.turns e).queue = false then
          { sget .zero s.turns e with left := 0 }
        else sget .zero s.turns e) ∧
      let late (e : Event) : Bool := decide (e.time + 5000 ≤ s.time + 1)
      step s = .next (
        if s.power = .on ∧ s.events.waiting.any late = true then
          forEach (s.events.waiting.filter late)
            { u with events := { u.events with waiting := s.events.waiting.filter (fun e => !late e) } } takeEvent
        else u))

/-- Which commands stop: `Instr.wf` says which units exist (*Table: Physical and usable counts*). That a command
naming a missing unit stops with noSuchUnit is the model's own choice (log entry 10). -/
def Obligations.OnlyMissingUnitsStop : Prop :=
  ∀ (i : Instr) (s : State),
    (i.wf = true → ∃ t, exec i s = .next t) ∧ (i.wf = false → exec i s = .fault .noSuchUnit)

/-- R164, with the shift, division and remainder corners of *Table: Scalar operations*; x0 under R161; poison
under R326. R164 for the IMM forms, LI and LIH; a shift amount lies in IMM15[5:0]. -/
def Obligations.ScalarResults : Prop :=
  (
    ∀ (s : State) (u : Exu) (d a b : BitVec 5), Runs s u 4 →
      let r := getRf s u
      let x := (xget r a).data
      let y := (xget r b).data
      let gives (i : Instr) (v : DWord) : Prop :=
        exec i s = .next (Issued s u (advance 4 (xput r d ⟨v, (xget r a).poison || (xget r b).poison⟩)))
      gives (.add u d a b) (x + y) ∧ gives (.sub u d a b) (x - y) ∧
      gives (.and u d a b) (x &&& y) ∧ gives (.or u d a b) (x ||| y) ∧ gives (.xor u d a b) (x ^^^ y) ∧
      gives (.sll u d a b) (x <<< (y.toNat % 64)) ∧ gives (.srl u d a b) (x >>> (y.toNat % 64)) ∧
      gives (.sra u d a b) (x.sshiftRight (y.toNat % 64)) ∧
      gives (.slt u d a b) (if x.toInt < y.toInt then 1 else 0) ∧
      gives (.sltu u d a b) (if x.toNat < y.toNat then 1 else 0) ∧
      gives (.min u d a b) (if x.toInt < y.toInt then x else y) ∧
      gives (.max u d a b) (if x.toInt < y.toInt then y else x) ∧
      gives (.mul u d a b) (x * y) ∧
      gives (.mulh u d a b) (BitVec.ofInt 64 (x.toInt * y.toInt / 2 ^ 64)) ∧
      gives (.mulhu u d a b) (BitVec.ofNat 64 (x.toNat * y.toNat / 2 ^ 64)) ∧
      gives (.div u d a b) (if y = 0 then BitVec.allOnes 64 else BitVec.ofInt 64 (x.toInt.tdiv y.toInt)) ∧
      gives (.divu u d a b) (if y = 0 then BitVec.allOnes 64 else x / y) ∧
      gives (.rem u d a b) (if y = 0 then x else BitVec.ofInt 64 (x.toInt.tmod y.toInt)) ∧
      gives (.remu u d a b) (if y = 0 then x else x % y) ∧
      ((xget r 0).data = 0 ∧ (d = 0 → exec (.add u d a b) s = .next (Issued s u (advance 4 r))))) ∧
  (
    ∀ (s : State) (u : Exu) (d a : BitVec 5) (imm : BitVec 15) (w : BitVec 32),
      let r := getRf s u
      let x := (xget r a).data
      let y : DWord := imm.signExtend 64
      let gives (i : Instr) (v : DWord) : Prop :=
        exec i s = .next (Issued s u (advance 4 (xput r d ⟨v, (xget r a).poison⟩)))
      (Runs s u 4 →
        gives (.addi u d a imm) (x + y) ∧ gives (.andi u d a imm) (x &&& y) ∧
        gives (.ori u d a imm) (x ||| y) ∧ gives (.xori u d a imm) (x ^^^ y) ∧
        gives (.slti u d a imm) (if x.toInt < y.toInt then 1 else 0) ∧
        (imm.toNat < 64 →
          gives (.slli u d a imm) (x <<< imm.toNat) ∧ gives (.srli u d a imm) (x >>> imm.toNat) ∧
          gives (.srai u d a imm) (x.sshiftRight imm.toNat))) ∧
      (Runs s u 8 →
        exec (.li u d 0 w) s = .next (Issued s u (advance 8 (xput r d ⟨w.signExtend 64, false⟩))) ∧
        exec (.lih u d 0 w) s =
          .next (Issued s u (advance 8 (xput r d ⟨w ++ (xget r d).data.setWidth 32, (xget r d).poison⟩)))))

/-- R165 and *Table: System operations*; program counters move modulo 2^64. -/
def Obligations.ControlTransferResults : Prop :=
  ∀ (s : State) (u : Exu) (d a b : BitVec 5) (cond : BitVec 3) (off : BitVec 12) (imm : BitVec 15),
    Runs s u 4 →
    let r := getRf s u
    let x := (xget r a).data
    let y := (xget r b).data
    let holds : Bool := match cond.toNat with
      | 0 => decide (x = y) | 1 => decide (x ≠ y) | 2 => decide (x.toInt < y.toInt)
      | 3 => decide (y.toInt ≤ x.toInt) | 4 => decide (x.toNat < y.toNat) | _ => decide (y.toNat ≤ x.toNat)
    (cond.toNat < 6 → exec (.bcc u cond a b off) s = .next (Issued s u
      { r with pc := if holds then (((r.pc : Int) + 4 * off.toInt) % 2 ^ 64).toNat else r.pc + 4 })) ∧
    exec (.jal u d 0 imm) s = .next (Issued s u
      { xput r d ⟨BitVec.ofNat 64 (r.pc + 4), false⟩ with pc := (((r.pc : Int) + 4 * imm.toInt) % 2 ^ 64).toNat }) ∧
    ((x + imm.signExtend 64).toNat % 4 = 0 → exec (.jalr u d a imm) s = .next (Issued s u
      { xput r d ⟨BitVec.ofNat 64 (r.pc + 4), (xget r a).poison⟩ with pc := (x + imm.signExtend 64).toNat })) ∧
    exec (.systemNop u) s = .next (Issued s u (advance 4 r)) ∧
    exec (.timeRead u d) s = .next (Issued s u (advance 4 (xput r d ⟨BitVec.ofNat 64 s.time, false⟩))) ∧
    (∀ c, u = .core c → exec (.cycle u d) s =
      .next (Issued s u (advance 4 (xput r d ⟨BitVec.ofNat 64 (coreCycles s c), false⟩))))

/-- *Table: System operations*, R180. R172 and R173; the checks of R152 to R154 are those of log entry 97. -/
def Obligations.ArrayInstructionsAndStatus : Prop :=
  (
    ∀ (s : State) (c : Nat) (d a : BitVec 5), Runs s (.core c) 4 →
      let u := Exu.core c
      let r := getRf s u
      exec (.astr u d) s =
        .next (Issued s u (advance 4 (xput r d ⟨(getCore s c).astat.setWidth 64, false⟩))) ∧
      exec (.astc u a) s = .next (CoreLeft s c (fun k =>
        { k with astat := k.astat &&& ~~~((xget r a).data.setWidth 4), rf := advance 4 r })) ∧
      (((getCore s c).kernel.map (·.part)).getD 0 = 0 → getF s F.DBG_STOP_CTRL_KSTOP_EN = 1 →
        exec (.stopt u) s = .next (stopRequest (Issued s u (advance 4 r)) 1)) ∧
      (((getCore s c).kernel.map (·.part)).getD 0 ≠ 0 ∨ getF s F.DBG_STOP_CTRL_KSTOP_EN = 0 →
        exec (.stopt u) s = .next (raiseExc (countIssue s u) u .priv))) ∧
  (
    (∀ (s : State) (c : Nat) (mode : BitVec 2) (ts tx ty : BitVec 3) (acc : Bool) (tok : BitVec 2) (anchor : BitVec 10),
      Runs s (.core c) 8 →
      let u := Exu.core c
      let k := getCore s c
      ∀ i op, (i, op) ∈ [(Instr.mac u mode ts tx ty acc tok anchor 0, 0), (.l1 u mode ts tx ty acc tok anchor 0, 1),
        (.l2sq u mode ts tx ty acc tok anchor 0, 2), (.maxplus u mode ts tx ty acc tok anchor 0, 3),
        (.minplus u mode ts tx ty acc tok anchor 0, 4), (.cmpcnt u mode ts tx ty acc tok anchor 0, 5)] →
      let o : ArrOp := { op := op, mode := mode.toNat, ts := getTile s c ts.toNat, tx := getTile s c tx.toNat,
                         ty := getTile s c ty.toNat, acc := acc, tok := tok.toNat, anchor := anchor, seq := k.issued + 1,
                         dirty := [], passed := [], kept := [] }
      (arrHeld k tok.toNat = true ∨ 4 ≤ k.arr.length → exec i s = .next s) ∧
      (arrHeld k tok.toNat = false → k.arr.length < 4 → mode.toNat < 3 →
        (arrOk op o.mode o.ts o.tx o.ty = true → exec i s = .next (countLc
          (CoreLeft s c (fun k => { k with arr := k.arr ++ [o], rf := advance 8 k.rf }))
          ((k.kernel.map (·.part)).getD 0) (c / 16) (arrCount o).1 (arrCount o).2)) ∧
        (arrOk op o.mode o.ts o.tx o.ty = false → exec i s = .next (raiseExc (countIssue s u) u .illegalOperand)))) ∧
    (∀ (s : State) (c : Nat) (o : ArrOp) (rest : List ArrOp) (faults : List ArrFault), ready s = true → c < 1024 →
      (getCore s c).arr = o :: rest →
      let u := arrLand (setCore s c { getCore s c with arr := rest }) c o faults
      let rd := lsByte s c (getCore s c).ls
      (badRows o faults rd = [] → badCols o faults rd = [] → exec (.arrayDone c faults) s = .next (afterWork u c)) ∧
      (∀ i j, badRows o faults rd = [i] → badCols o faults rd = [j] → exec (.arrayDone c faults) s = .next (afterWork
        (abftFail u c o.seq (some (physLine (getCore s c).rowSub i, physLine (getCore s c).colSub j))) c)) ∧
      ((badRows o faults rd ≠ [] ∨ badCols o faults rd ≠ []) →
        ¬ ((badRows o faults rd).length = 1 ∧ (badCols o faults rd).length = 1) →
        exec (.arrayDone c faults) s = .next (afterWork (abftFail u c o.seq none) c))))

/-- R141 to R148 for the INT8 and INT32 formats, where every result is a whole number. -/
def Obligations.ArrayArithmeticOnBytes : Prop :=
  ∀ (s : State) (c : Nat) (o : ArrOp), ready s = true → c < 1024 → (getCore s c).arr = [o] → (getCore s c).dma = [] →
    (getCore s c).wait = none → (getCore s c).ending = false → arrOk o.op o.mode o.ts o.tx o.ty = true → o.op < 6 →
    o.acc = false → o.dirty = [] → o.kept = [] → 50 ≤ o.anchor.toInt → o.anchor.toInt ≤ 100 →
    (tileOf o.ts).fmt = 0 → (tileOf o.tx).fmt = 0 → (tileOf o.ty).fmt = 12 →
    let x := rowTile o
    let w := colTile o
    let y := tileOf o.ty
    let elem (t : Tile) (i k : Nat) : Int := (localByte s c (t.base + 16 * t.stride * i + k)).toInt
    let pairs (i j : Nat) : List (Int × Int) := (List.range x.cols).map (fun k => (elem x i k, elem w j k))
    let value (i j : Nat) : Int := match o.op with
      | 0 => ((pairs i j).map (fun p => p.1 * p.2)).sum
      | 1 => ((pairs i j).map (fun p => ((p.1 - p.2).natAbs : Int))).sum
      | 2 => ((pairs i j).map (fun p => (p.1 - p.2) * (p.1 - p.2))).sum
      | 3 => (((pairs i j).map (fun p => p.1 + p.2)).max?).getD 0
      | 4 => (((pairs i j).map (fun p => p.1 + p.2)).min?).getD 0
      | _ => (((pairs i j).filter (fun p => decide (p.2 ≤ p.1))).length : Int)
    let top : Int := 2 ^ 31 - 1
    let clamped (v : Int) : Int := max (-top) (min top v)
    Completes (.arrayDone c []) s (fun t =>
      (∀ i j b, i < y.rows → j < y.cols → b < 4 →
        localByte t c (y.base + 16 * y.stride * i + 4 * j + b) =
          BitVec.ofNat 8 ((BitVec.ofInt 32 (clamped (value i j))).toNat / 2 ^ (8 * b))) ∧
      (∀ a, (∀ i j, i < y.rows → j < y.cols → a < y.base + 16 * y.stride * i + 4 * j ∨
        y.base + 16 * y.stride * i + 4 * j + 4 ≤ a) → localByte t c a = localByte s c a) ∧
      ((∀ i j, i < y.rows → j < y.cols → clamped (value i j) = value i j) → (getCore t c).astat = (getCore s c).astat) ∧
      ((∃ i j, i < y.rows ∧ j < y.cols ∧ clamped (value i j) ≠ value i j) →
        (getCore t c).astat = (getCore s c).astat ||| 1#4) ∧
      ((getCore s c).lp = [] → (getCore s c).le = [] → (getCore t c).lp = [] ∧ (getCore t c).le = [] ∧
        (getCore t c).exc = (getCore s c).exc) ∧
      getCore t c = { getCore s c with arr := [], ls := (getCore t c).ls, lp := (getCore t c).lp, le := (getCore t c).le,
                                       exc := (getCore t c).exc, astat := (getCore t c).astat } ∧
      (∀ d, d ≠ c → getCore t d = getCore s d) ∧ t = { s with cores := t.cores, freeCtr := t.freeCtr })

/-- R166 for LDx, LDxU and STx; that MISALIGN comes before LS_RANGE where both hold is the model's choice (log entry
22). R171 for the descriptors. -/
def Obligations.ScalarLoadsAndStores : Prop :=
  (
    ∀ (s : State) (c : Nat) (d a : BitVec 5) (imm : BitVec 15), Runs s (.core c) 4 → Quiet s c →
      let u := Exu.core c
      let r := getRf s u
      let adr := ((xget r a).data + imm.signExtend 64).toNat
      (∀ i n signed, (i, n, signed) ∈ [(Instr.ldb u d a imm, 1, true), (.ldh u d a imm, 2, true), (.ldw u d a imm, 4, true),
          (.ldd u d a imm, 8, true), (.ldbu u d a imm, 1, false), (.ldhu u d a imm, 2, false), (.ldwu u d a imm, 4, false)] →
        (adr % n = 0 → adr + n ≤ 524288 →
          let v := natOf ((List.range n).map (fun j => localByte s c (adr + j)))
          exec i s = .next (CoreLeft s c (fun k => { noteUe (localPoison s c adr n) k with
            rf := advance 4 (xput r d ⟨if signed then BitVec.ofInt 64 (BitVec.ofNat (8 * n) v).toInt else BitVec.ofNat 64 v,
              localPoison s c adr n || (xget r a).poison⟩) }))) ∧
        (adr % n ≠ 0 → exec i s = .next (raiseExc (countIssue s u) u .misalign)) ∧
        (adr % n = 0 → 524288 < adr + n → exec i s = .next (raiseExc (countIssue s u) u .lsRange))) ∧
      (∀ i n, (i, n) ∈ [(Instr.stb u d a imm, 1), (.sth u d a imm, 2), (.stw u d a imm, 4), (.std u d a imm, 8)] →
        (adr % n = 0 → adr + n ≤ 524288 → Completes i s (fun t =>
          (∀ b, localByte t c b = if adr ≤ b ∧ b < adr + n then BitVec.ofNat 8 ((xget r d).data.toNat / 2 ^ (8 * (b - adr)))
            else localByte s c b) ∧
          (∀ b, localPoison t c b 1 = if b / 8 = adr / 8 then (xget r d).poison || (decide (n < 8) && localPoison s c b 1)
            else localPoison s c b 1) ∧
          t = CoreLeft s c (fun k => { k with rf := advance 4 r, ls := (getCore t c).ls, lp := (getCore t c).lp, le := (getCore t c).le }))) ∧
        (adr % n ≠ 0 → exec i s = .next (raiseExc (countIssue s u) u .misalign)) ∧
        (adr % n = 0 → 524288 < adr + n → exec i s = .next (raiseExc (countIssue s u) u .lsRange)))) ∧
  (
    ∀ (s : State) (c : Nat) (d a : BitVec 5), Runs s (.core c) 4 → Quiet s c →
      let u := Exu.core c
      let r := getRf s u
      let adr := (xget r a).data.toNat
      let bad := localPoison s c adr 32
      (d.toNat < 8 → adr % 32 = 0 → adr + 32 ≤ 524288 →
        exec (.tld u d a) s = .next (CoreLeft s c (fun k => { noteUe bad k with
          rf := advance 4 r,
          t := sput 0 k.t d.toNat (BitVec.ofNat 256 (natOf ((List.range 32).map (fun j => localByte s c (adr + j))))) })) ∧
        Completes (.tst u d a) s (fun t =>
          (∀ b, localByte t c b = if adr ≤ b ∧ b < adr + 32 then
            BitVec.ofNat 8 ((getTile s c d.toNat).toNat / 2 ^ (8 * (b - adr))) else localByte s c b) ∧
          (∀ b, localPoison t c b 1 = if adr ≤ b ∧ b < adr + 32 then false else localPoison s c b 1) ∧
          t = CoreLeft s c (fun k => { k with rf := advance 4 r, ls := (getCore t c).ls, lp := (getCore t c).lp, le := (getCore t c).le }))) ∧
      (d.toNat < 8 → ∀ i ∈ [Instr.tld u d a, .tst u d a],
        (adr % 32 ≠ 0 → exec i s = .next (raiseExc (countIssue s u) u .misalign)) ∧
        (adr % 32 = 0 → 524288 < adr + 32 → exec i s = .next (raiseExc (countIssue s u) u .lsRange))) ∧
      (d.toNat < 8 → exec (.tbase u d a) s = .next (CoreLeft s c (fun k => { k with
          rf := advance 4 r,
          t := sput 0 k.t d.toNat (BitVec.ofNat 256 ((getTile s c d.toNat).toNat / 2 ^ 19 * 2 ^ 19 + adr % 2 ^ 19)) }))) ∧
      (8 ≤ d.toNat → ∀ i ∈ [Instr.tld u d a, .tst u d a, .tbase u d a],
        exec i s = .next (raiseExc (countIssue s u) u .illegalInstr)) ∧
      (∀ n, getTile s c n = sget 0 (getCore s c).t n))

/-- R166 for VLD, VST, VLDS, VSTS, VGATHER and VSCATTER; the order of the two exceptions is log entry 22, and the
indices are zero-extended, log entry 23. -/
def Obligations.VectorLoadsAndStores : Prop :=
  ∀ (s : State) (c : Nat) (d a b : BitVec 5) (imm : BitVec 15), Runs s (.core c) 4 → Quiet s c →
    let u := Exu.core c
    let r := getRf s u
    let base := ((xget r a).data + imm.signExtend 64 * 16).toNat
    let strided (i : Nat) := ((xget r a).data + BitVec.ofNat 64 i * (xget r b).data).toNat
    let indexed (i : Nat) := ((xget r a).data + (vget r b i).1.setWidth 64).toNat
    let word (p : Nat) : Word := BitVec.ofNat 32 (natOf ((List.range 4).map (fun j => localByte s c (p + j))))
    let loads (i : Instr) (f : Nat → Nat) (p : Bool) := Completes i s (fun t =>
      (∀ k, k < 32 → vget (getRf t u) d k = (word (f k), localPoison s c (f k) 4 || p)) ∧
      (∀ n k, n ≠ d → k < 32 → vget (getRf t u) n k = vget r n k) ∧
      (getRf t u).x = r.x ∧ (getRf t u).p = r.p ∧ (getRf t u).pc = r.pc + 4 ∧
      t = CoreLeft s c (fun k => { noteUe ((List.range 32).any (fun i => localPoison s c (f i) 4)) k with rf := getRf t u }))
    let stores (i : Instr) (f : Nat → Nat) (whole : Bool) := Completes i s (fun t =>
      (∀ k j, k < 32 → j < 4 → (∀ m, k < m → m < 32 → f m ≠ f k) →
        localByte t c (f k + j) = BitVec.ofNat 8 ((vget r d k).1.toNat / 2 ^ (8 * j))) ∧
      (∀ adr, (∀ k, k < 32 → adr < f k ∨ f k + 4 ≤ adr) → localByte t c adr = localByte s c adr) ∧
      (∀ adr, localPoison t c adr 1 = ((List.range 32).any (fun k => f k / 8 == adr / 8 && (vget r d k).2) ||
        (localPoison s c adr 1 && !(whole && (List.range 32).any (fun k => f k / 8 == adr / 8))))) ∧
      t = CoreLeft s c (fun k => { k with rf := advance 4 r, ls := (getCore t c).ls, lp := (getCore t c).lp, le := (getCore t c).le }))
    let fits (f : Nat → Nat) := ∀ k, k < 32 → f k % 4 = 0 ∧ f k + 4 ≤ 524288
    let faults (i : Instr) (e : Exc) := exec i s = .next (raiseExc (countIssue s u) u e)
    (base % 16 = 0 → base + 128 ≤ 524288 → loads (.vld u d a imm) (fun k => base + 4 * k) (xget r a).poison ∧
      stores (.vst u d a imm) (fun k => base + 4 * k) true) ∧
    (fits strided → loads (.vlds u d a b) strided ((xget r a).poison || (xget r b).poison) ∧
      stores (.vsts u d a b) strided false) ∧
    (fits indexed → loads (.vgather u d a b) indexed ((xget r a).poison || (List.range 32).any (fun i => (vget r b i).2)) ∧
      stores (.vscatter u d a b) indexed false) ∧
    (base % 16 ≠ 0 → faults (.vld u d a imm) .misalign ∧ faults (.vst u d a imm) .misalign) ∧
    (base % 16 = 0 → 524288 < base + 128 → faults (.vld u d a imm) .lsRange ∧ faults (.vst u d a imm) .lsRange) ∧
    (∀ f i j, (f, i, j) ∈ [(strided, Instr.vlds u d a b, Instr.vsts u d a b),
        (indexed, Instr.vgather u d a b, Instr.vscatter u d a b)] →
      ((∃ k, k < 32 ∧ f k % 4 ≠ 0) → faults i .misalign ∧ faults j .misalign) ∧
      ((∀ k, k < 32 → f k % 4 = 0) → (∃ k, k < 32 ∧ 524288 < f k + 4) → faults i .lsRange ∧ faults j .lsRange))

/-- R167 and R168; the one-source forms have B = 0. Counter indices 7, 8 and 9 (R329). VRCP and VRSQRT within their
1 ulp are the model's own choice (log entry 80), as are VRSQRT of a zero (log entry 20) and the sign operations on a
NaN (log entry 23). -/
def Obligations.VectorLaneResults : Prop :=
  ∀ (s : State) (u : Exu) (d a b : BitVec 5) (p : BitVec 3) (pz : Bool), Runs s u 4 →
    let r := getRf s u
    let on := pget r p.toNat
    let x (i : Nat) := (vget r a i).1
    let y (i : Nat) := (vget r b i).1
    let z (i : Nat) := (vget r d i).1
    let taint (useB useD : Bool) := (List.range 32).any (fun i => on.getLsbD i &&
      ((vget r a i).2 || (useB && (vget r b i).2) || (useD && (vget r d i).2)))
    let gives (i : Instr) (kind per : Nat) (useB useD : Bool) (f : Nat → Word) :=
      ∃ r', LanesSet r r' d on pz f (taint useB useD) ∧ exec i s = .next (VecLeft s u r' kind (per * (lanesOn on).length))
    (∀ i f, (i, f) ∈ [(Instr.vadd u d a b p pz, fun i => x i + y i), (.vsub u d a b p pz, fun i => x i - y i),
        (.vmul u d a b p pz, fun i => x i * y i), (.vand u d a b p pz, fun i => x i &&& y i),
        (.vor u d a b p pz, fun i => x i ||| y i), (.vxor u d a b p pz, fun i => x i ^^^ y i),
        (.vsll u d a b p pz, fun i => x i <<< ((y i).toNat % 32)),
        (.vsra u d a b p pz, fun i => (x i).sshiftRight ((y i).toNat % 32)),
        (.vmin u d a b p pz, fun i => if (x i).toInt < (y i).toInt then x i else y i),
        (.vmax u d a b p pz, fun i => if (x i).toInt < (y i).toInt then y i else x i)] → gives i 9 1 true false f) ∧
    (∀ i f, (i, f) ∈ [(Instr.vfadd u d a b p pz, fun i => fadd (x i) (y i)), (.vfsub u d a b p pz, fun i => fsub (x i) (y i)),
        (.vfmul u d a b p pz, fun i => fmul (x i) (y i)), (.vfmin u d a b p pz, fun i => fmin (x i) (y i)),
        (.vfmax u d a b p pz, fun i => fmax (x i) (y i)), (.vfdiv u d a b p pz, fun i => fdiv (x i) (y i))] →
      gives i 7 1 true false f) ∧
    gives (.vfma u d a b p pz) 7 1 true true (fun i => ffma (x i) (y i) (z i)) ∧
    gives (.vfma2Bf16 u d a b p pz) 8 2 true true (fun i => halves2 fmtBF16 (x i) (y i) (z i)) ∧
    gives (.vfma2F16 u d a b p pz) 8 2 true true (fun i => halves2 fmtF16 (x i) (y i) (z i)) ∧
    (∀ i f, (i, f) ∈ [(Instr.vfabs u d a 0 p pz, fun i => vAbs (x i)), (.vfneg u d a 0 p pz, fun i => vNeg (x i)),
        (.vfsqrt u d a 0 p pz, fun i => fsqrt (x i)), (.vexp2 u d a 0 p pz, fun i => fexp2 (x i)),
        (.vrcp u d a 0 p pz, fun i => frcp (x i)), (.vrsqrt u d a 0 p pz, fun i => frsqrt (x i))] →
      gives i 7 1 false false f)

/-- R167 for results in predicates; p0 under R161; R163 for numbers above 7. -/
def Obligations.ComparesAndPredicates : Prop :=
  ∀ (s : State) (u : Exu) (d a b : BitVec 5) (p : BitVec 3) (pz : Bool), Runs s u 4 →
    let r := getRf s u
    let on := pget r p.toNat
    let x (i : Nat) := (vget r a i).1
    let y (i : Nat) := (vget r b i).1
    let pa := pget r a.toNat
    let pb := pget r b.toNat
    let gives (i : Instr) (kind : Nat) (f : Nat → Bool) := ∃ r',
      (∀ k, k < 32 → (pget r' d.toNat).getLsbD k =
        if d.toNat = 0 then true else if on.getLsbD k then f k else if pz then false else (pget r d.toNat).getLsbD k) ∧
      (∀ n, n ≠ d.toNat → pget r' n = pget r n) ∧
      r'.x = r.x ∧ r'.v = r.v ∧ r'.pc = r.pc + 4 ∧ exec i s = .next (VecLeft s u r' kind (lanesOn on).length)
    let faults (i : Instr) := exec i s = .next (raiseExc (countIssue s u) u .illegalInstr)
    (∀ i kind f, (i, kind, f) ∈ [(Instr.vfcmpEq u d a b p pz, 7, fun k => feq (x k) (y k)),
        (.vfcmpLt u d a b p pz, 7, fun k => flt (x k) (y k)), (.vfcmpLe u d a b p pz, 7, fun k => fle (x k) (y k)),
        (.vicmpEq u d a b p pz, 9, fun k => decide (x k = y k)),
        (.vicmpLt u d a b p pz, 9, fun k => decide ((x k).toInt < (y k).toInt))] →
      (d.toNat < 8 → gives i kind f) ∧ (8 ≤ d.toNat → faults i)) ∧
    (∀ i f, (i, f) ∈ [(Instr.pand u d a b p pz, fun k => pa.getLsbD k && pb.getLsbD k),
        (.por u d a b p pz, fun k => pa.getLsbD k || pb.getLsbD k), (.pxor u d a b p pz, fun k => pa.getLsbD k ^^ pb.getLsbD k),
        (.pnot u d a 0 p pz, fun k => !pa.getLsbD k)] →
      (d.toNat < 8 → a.toNat < 8 → b.toNat < 8 → gives i 9 f) ∧
      (8 ≤ d.toNat ∨ 8 ≤ a.toNat → faults i)) ∧
    (8 ≤ b.toNat → ∀ i ∈ [Instr.pand u d a b p pz, .por u d a b p pz, .pxor u d a b p pz], faults i)

/-- R167 to R170 for operations that do not stay within a lane. -/
def Obligations.AcrossLaneResults : Prop :=
  ∀ (s : State) (u : Exu) (d a b : BitVec 5) (p : BitVec 3) (pz : Bool), Runs s u 4 →
    let r := getRf s u
    let on := pget r p.toNat
    let n := (lanesOn on).length
    let all : Word := BitVec.allOnes 32
    let x (i : Nat) := (vget r a i).1
    let y (i : Nat) := (vget r b i).1
    let xs := (List.range 32).map x
    let dirty (n : BitVec 5) := (List.range 32).any (fun i => (vget r n i).2)
    let named (f : Nat → Bool) := (List.range 32).any (fun i => on.getLsbD i && f i)
    let sets (i : Instr) (kind n : Nat) (on : Word) (pz : Bool) (f : Nat → Word) (t : Bool) :=
      ∃ r', LanesSet r r' d on pz f t ∧ exec i s = .next (VecLeft s u r' kind n)
    sets (.vsel u d a b p false) 9 32 all false (fun i => if on.getLsbD i then x i else y i)
      ((List.range 32).any (fun i => if on.getLsbD i then (vget r a i).2 else (vget r b i).2)) ∧
    sets (.vbcast u d a b p pz) 9 n on pz (fun _ => (xget r a).data.setWidth 32) (xget r a).poison ∧
    sets (.vperm u d a b p pz) 9 n on pz (fun i => x ((y i).toNat % 32))
      (named (fun i => (vget r b i).2 || (vget r a ((y i).toNat % 32)).2)) ∧
    (let lane := vget r a ((xget r b).data.toNat % 32)
     exec (.vextr u d a b p pz) s = .next (VecLeft s u
       (advance 4 (xput r d ⟨lane.1.signExtend 64, lane.2 || (xget r b).poison⟩)) 9 0)) ∧
    sets (.vredsum u d a b 0 pz) 7 32 all false (fun i => if i = 0 then fsumTree 5 xs else 0) (dirty a) ∧
    sets (.vredmax u d a b 0 pz) 7 32 all false (fun i => if i = 0 then xs.tail.foldl fmax (x 0) else 0) (dirty a) ∧
    (b.toNat < 10 → sets (.vcvt u d a b p pz) 9 n on pz (fun i => cvtLane b.toNat (x i)) (named (fun i => (vget r a i).2))) ∧
    (10 ≤ b.toNat → b.toNat < 16 →
      sets (.vcvt u d a b 0 pz) 9 32 all false (fun i => (toBlock (cvtMx b.toNat) xs).getD i 0) (dirty a)) ∧
    (16 ≤ b.toNat → b.toNat < 22 →
      sets (.vcvt u d a b p pz) 9 n on pz (fun i => (fromBlock (cvtMx b.toNat) xs).getD i 0) (dirty a)) ∧
    (∃ r', LanesSet r r' d all false (fun i => (wideLanes (wideSums r a b)).getD i 0) (dirty a || dirty b) ∧
      exec (.vwadd u d a b 0 pz) s = .next (countLc (setRf (setAstat (countIssue s u) u (sumFlags (wideSums r a b))) u r')
        (workFor s u).1 (workFor s u).2 9 32)) ∧
    sets (.vwcvt u d a b 0 pz) 9 32 all false (fun i => if i % 4 = 0 then
      BitVec.ofNat 32 (accOut 11 ((xget r b).data.setWidth 10).toInt (wideAt r a (i / 4))).code else 0)
      (dirty a || (xget r b).poison)

/-- R140, R174 and R175. When a transfer reads and writes against other accesses, and what a column that touches nothing
leaves, are the model's own choices (log entries 25 and 26). -/
def Obligations.ColumnTransfers : Prop :=
  (∀ (s : State) (c : Nat) (l v n sh : BitVec 5) (tok : BitVec 4), Runs s (.core c) 8 →
    let u := Exu.core c
    let k := getCore s c
    ∀ i put, (i, put) ∈ [(Instr.get u l v n sh tok 0, false), (.put u l v n sh tok 0, true)] →
    let shape := if sh = 0 then 0 else (xget k.rf sh).data.toNat
    let o : DmaOp := { put := put, l := (xget k.rf l).data.toNat, va := (xget k.rf v).data, n := (xget k.rf n).data.toNat,
                       vstride := BitVec.ofNat 32 shape, lstride := shape / 2 ^ 32 % 2 ^ 16,
                       rows := shape / 2 ^ 48 % 2 ^ 16 + 1, tok := tok.toNat, ctx := (k.kernel.map (·.ctx)).getD 0,
                       seq := k.issued + 1, got := [], passed := [], kept := [], bad := [] }
    (dmaHeld k tok.toNat = true → exec i s = .next s) ∧
    (dmaHeld k tok.toNat = false →
      (dmaFault o = none → exec i s =
        .next (CoreLeft s c (fun k => { k with dma := k.dma ++ [o], rf := advance 8 k.rf }))) ∧
      (∀ e, dmaFault o = some e → exec i s = .next (raiseExc (countIssue s u) u e)))) ∧
  (∀ (s : State) (c tok : Nat) (o : DmaOp), ready s = true → memQuiet s = true → c < 1024 → tok < 16 →
    (getCore s c).dma.find? (fun o => o.tok == tok) = some o →
    let part := ((getCore s c).kernel.map (·.part)).getD 0
    let u := setCore s c { getCore s c with dma := (getCore s c).dma.erase o }
    let denied := getF s (F.MMU_CTX_VALID o.ctx) = 1 ∧ getF s (F.MMU_CTX_PART o.ctx) ≠ part
    (denied → exec (.dmaDone c tok) s = .next (restLayers (afterWork (recordExc u c o.seq (plainResult stPermission)) c))) ∧
    (¬ denied → ∀ t f, dmaCheck u o = (t, f) → exec (.dmaDone c tok) s = .next (restLayers (afterWork (match f with
      | some r => recordExc t c o.seq r
      | none => if o.put then putLand t c part o else getLand t c part o) c)))) ∧
  (∀ (s s0 s1 s2 : State) (c part : Nat) (o : DmaOp) (x y : PWord), Quiet s2 c → o.rows = 1 → o.n = 16 →
    o.kept = [] → o.bad = [] → o.va.toNat % 8 = 0 → dmaRead s o.ctx part o.va.toNat = (s1, some x) →
    dmaRead s1 o.ctx part (o.va.toNat + 8) = (s2, some y) → s0 = getLand s c part o →
      s0 = setCore s2 c { getCore s2 c with ls := (getCore s0 c).ls, lp := (getCore s0 c).lp, le := (getCore s0 c).le } ∧
      (∀ b, localByte s0 c b =
        if o.l ≤ b ∧ b < o.l + 8 then BitVec.ofNat 8 (x.data.toNat / 2 ^ (8 * (b - o.l)))
        else if o.l + 8 ≤ b ∧ b < o.l + 16 then BitVec.ofNat 8 (y.data.toNat / 2 ^ (8 * (b - o.l - 8)))
        else localByte s2 c b) ∧
      (o.l % 16 = 0 → localPoison s0 c o.l 1 = x.poison ∧ localPoison s0 c (o.l + 8) 1 = y.poison)) ∧
  (∀ (s s1 s2 : State) (c part dpa dpb : Nat) (o : DmaOp), Quiet s c → o.rows = 1 → o.n = 16 →
    o.got = [] → o.bad = [] → o.va.toNat % 8 = 0 →
    let word (k : Nat) : DWord := BitVec.ofNat 64 (natOf ((List.range 8).map (fun j => localByte s c (o.l + 8 * k + j))))
    let bad (k : Nat) : Bool := localPoison s c (o.l + 8 * k) 8
    translate (noteOut s c o) o.ctx o.va.toNat .write = (s1, .ok dpa) →
    let w := writeWord (countChan s1 part 23 (dpaCol dpa) 8) (dpa / 8 * 8) (word 0) 0xFF (bad 0)
    translate w.1 o.ctx (o.va.toNat + 8) .write = (s2, .ok dpb) →
    let x := writeWord (countChan s2 part 23 (dpaCol dpb) 8) (dpb / 8 * 8) (word 1) 0xFF (bad 1)
    w.2 = .ok → x.2 = .ok →
      putLand s c part o = if bad 0 || bad 1 then recordExc x.1 c o.seq (plainResult stUe) else x.1)

/-- R177. R176; `sigSet` is what CompletionsAndSignals says of it. -/
def Obligations.WaitsAndSignals : Prop :=
  (
    ∀ (s : State) (c : Nat) (a : BitVec 5), Runs s (.core c) 4 →
      let u := Exu.core c
      let k := getCore s c
      let m := (xget k.rf a).data.toNat
      ∀ i w met, (i, w, met) ∈ [(Instr.waitd u a, Wait.waitd (m % 2 ^ 16), dmaFree k (m % 2 ^ 16)),
        (.waita u a, .waita (m % 16), arrFree k (m % 16)), (.fence u, .fence, !inFlight k)] →
      (met = true → exec i s = .next (CoreLeft s c (fun k => { k with rf := advance 4 k.rf }))) ∧
      (met = false → exec i s = .next (CoreLeft s c (fun k => { k with wait := some w })))) ∧
  (
    ∀ (s : State) (c : Nat) (d a b : BitVec 5), Runs s (.core c) 4 →
      let u := Exu.core c
      let r := getRf s u
      let w := (xget r a).data.toNat
      let p := ((getCore s c).kernel.map (·.part)).getD 0
      let y := (xget r b).data.toNat
      let noPut := (getCore s c).dma.any (·.put) = false
      let goesOn := CoreLeft s c (fun k => { k with rf := advance 4 k.rf })
      (w < 4096 →
        (sigMet (sigGet s p w) (y % 2 ^ 32) = true → exec (.sigw u a b) s = .next goesOn) ∧
        (sigMet (sigGet s p w) (y % 2 ^ 32) = false → exec (.sigw u a b) s =
          .next (CoreLeft s c (fun k => { k with wait := some (.sigw w (BitVec.ofNat 32 y)) }))) ∧
        (noPut → exec (.sigpSet u a b) s = .next (sigSet goesOn p w y)) ∧
        (noPut → exec (.sigpAdd u a b) s = .next (sigSet goesOn p w (sigGet s p w + y % 2 ^ 32))) ∧
        (sigMet (sigGet s p w) (y % 2 ^ 32) = true ↔ (sigGet s p w + 2 ^ 32 - y % 2 ^ 32) % 2 ^ 32 < 2 ^ 31) ∧
        exec (.sigr u d a) s =
          .next (Issued s u (advance 4 (xput r d ⟨BitVec.ofNat 64 (sigGet s p w), (xget r a).poison⟩)))) ∧
      (¬ noPut → ∀ i ∈ [Instr.sigpSet u a b, .sigpAdd u a b], exec i s = .next s) ∧
      (4096 ≤ w → (∀ i ∈ [Instr.sigw u a b, .sigr u d a], exec i s = .next (raiseExc (countIssue s u) u .sigRange)) ∧
        (noPut → ∀ i ∈ [Instr.sigpSet u a b, .sigpAdd u a b], exec i s = .next (raiseExc (countIssue s u) u .sigRange))))

/-- R178 and R218, R179; the order among the kinds of R216 is log entry 98. The model's own choices: a stopped core
holds the barrier, and the members of a launch scope (log entry 27); a target both absent and outside the LAUNCH
answers 1, an order that R179 does not give (log entry 27). -/
def Obligations.BarriersAndDoorbells : Prop :=
  (∀ (s : State) (c : Nat) (d a b : BitVec 5) (scope : Bool) (id : BitVec 2), Runs s (.core c) 4 →
    let u := Exu.core c
    let k := getCore s c
    let target := (xget k.rf a).data.toNat % 1024
    let m : Word := (xget k.rf a).data.setWidth 32
    let v : Word := (xget k.rf b).data.setWidth 32
    let answers (n : Nat) : State := Issued s u
      (advance 4 (xput k.rf d ⟨BitVec.ofNat 64 n, (xget k.rf a).poison || (xget k.rf b).poison⟩))
    exec (.bar u d scope id) s = .next (CoreLeft s c (fun k => { k with wait := some (.bar scope id.toNat d.toNat) })) ∧
    (coreAbsent s target = true → exec (.dbell u d a b) s = .next (answers 1)) ∧
    (∀ n, coreAbsent s target = false → k.kernel = some n →
      (n.mask.getLsbD (target / 16) = false → exec (.dbell u d a b) s = .next (answers 2)) ∧
      (n.mask.getLsbD (target / 16) = true → exec (.dbell u d a b) s =
        .next { answers 0 with bells := s.bells ++ [{ core := target, val := v }] })) ∧
    (k.db &&& m ≠ 0 → exec (.dwait u d a) s = .next (CoreLeft s c (fun k => { k with
      db := k.db &&& ~~~m,
      rf := advance 4 (xput k.rf d ⟨(k.db &&& m).setWidth 64, (xget k.rf a).poison⟩) }))) ∧
    (k.db &&& m = 0 → exec (.dwait u d a) s =
      .next (CoreLeft s c (fun k => { k with wait := some (.dwait m d.toNat (xget k.rf a).poison) })))) ∧
  (∀ (s : State) (scope : Bool) (lc : Nat) (id : BitVec 2) (cs : List Nat), ready s = true → lc < 64 →
    (scope = false → cs = (List.range 16).map (fun i => 16 * lc + i)) →
    (scope = true → ∃ o, runningOn s lc = some o ∧ (lcsOf (BitVec.ofNat 64 (maskOf o.cmd))).head? = some lc ∧
      cs = (lcsOf (BitVec.ofNat 64 (maskOf o.cmd))).flatMap (fun l => (List.range 16).map (fun i => 16 * l + i))) →
    let arrived := (∀ c ∈ cs, barGone s c = true ∨ ((barAt (getCore s c) scope id.toNat).isSome = true ∧
      (getCore s c).stopped = false)) ∧ (∃ c ∈ cs, (barAt (getCore s c) scope id.toNat).isSome = true) ∧
      (∀ c ∈ cs, tokenDue s c = false)
    (arrived → Completes (.barrierRelease scope lc id) s (fun t =>
      (∀ c ∈ cs, ∀ d, barAt (getCore s c) scope id.toNat = some d → getCore t c = { getCore s c with
        wait := none,
        rf := advance 4 (xput (getCore s c).rf (BitVec.ofNat 5 d) ⟨if cs.any (barGone s) then 1 else 0, false⟩) }) ∧
      (∀ c, (c ∉ cs ∨ barAt (getCore s c) scope id.toNat = none) → getCore t c = getCore s c) ∧
      t = { s with cores := t.cores })) ∧
    (¬ arrived → exec (.barrierRelease scope lc id) s = .next s)) ∧
  (∀ (s : State) (c : Nat) (b : Bell), ready s = true → c < 1024 → s.bells.find? (fun b => b.core == c) = some b →
    (tokenDue s c = true ∨ releaseDue s c = true → exec (.doorbellArrival c) s = .next s) ∧
    (tokenDue s c = false → releaseDue s c = false →
      let k := getCore s c
      let lands (k : Core) := exec (.doorbellArrival c) s = .next (setCore { s with bells := s.bells.erase b } c k)
      (k.gone = true → lands k) ∧
      (k.gone = false →
        ((∀ m d p, k.wait ≠ some (.dwait m d p)) → lands { k with db := k.db ||| b.val }) ∧
        (∀ m d p, k.wait = some (.dwait m d p) →
          ((k.db ||| b.val) &&& m = 0 ∨ k.stopped = true → lands { k with db := k.db ||| b.val }) ∧
          ((k.db ||| b.val) &&& m ≠ 0 → k.stopped = false → lands { k with
            wait := none, db := (k.db ||| b.val) &&& ~~~m,
            rf := advance 4 (xput k.rf (BitVec.ofNat 5 d) ⟨((k.db ||| b.val) &&& m).setWidth 64, p⟩) })))))

/-- R24, both doorbells, both outcomes. -/
def Obligations.DoorbellTest : Prop :=
  ∀ (s : State) (fn n q : Nat) (v : BitVec 32),
    ready s = true → fn < 16 → n < 1024 → queueAt s fn n = some q →
    let k := getQueue s q
    let p := v.toNat % 2 ^ 17
    let on := getF s (F.QSTATE_STATE q) ≠ 0
    let passSq := on ∧ p < 2 * 2 ^ k.sq.log2n ∧
      (p + 2 * 2 ^ k.sq.log2n - getF s (F.SQ_PTR_FETCH q)) % (2 * 2 ^ k.sq.log2n) ≤ 2 ^ k.sq.log2n
    let passCq := on ∧ p < 2 * 2 ^ k.cq.log2n ∧
      (getF s (F.CQ_PTR_PRODUCER q) + 2 * 2 ^ k.cq.log2n - p) % (2 * 2 ^ k.cq.log2n) ≤ 2 ^ k.cq.log2n
    let t := Raised (setB s (F.QSTATE_DB_ERR q) true) 0x8001 sevWarn (some (partOf s q)) 0x20 q 0 p
    (passSq → exec (.sqDb fn n v) s = .next (setQueue s q { k with prod := p })) ∧
    (passCq → exec (.cqDb fn n v) s = .next (setQueue s q { k with cons := p })) ∧
    (¬ passSq → exec (.sqDb fn n v) s = .next t) ∧ (¬ passCq → exec (.cqDb fn n v) s = .next t) ∧
    getF t (F.QSTATE_DB_ERR q) = 1 ∧ getQueue t q = k ∧
    (∀ f ∈ [F.QSTATE_STATE q, F.SQ_PTR_FETCH q, F.CQ_PTR_PRODUCER q, F.NEXT_SEQ q, F.OUTSTANDING q],
      getF t f = getF s f) ∧
    KeepsFields s t [(F.QSTATE_DB_ERR q).key]

/-- R52 and R53 for START and STOP; a STOP while STATE is not RUNNING is the model's choice (log entry 93), as is
the layout of START_REFUSED's DATA (log entry 53). -/
def Obligations.StartAndStop : Prop :=
  ∀ (s : State) (fn n q : Nat) (v : BitVec 32),
    ready s = true → fn < 16 → n < 1024 → queueAt s fn n = some q →
    let st := getF s (F.QSTATE_STATE q)
    let a := getF s (F.SQ_CFG_LOG2N q)
    let b := getF s (F.CQ_CFG_LOG2N q)
    let fits := 6 ≤ a ∧ a ≤ 16 ∧ 6 ≤ b ∧ b ≤ 16 ∧ getF s (F.OUTSTANDING q) = 0
    let ring (base log2n : Nat) (dev : Bool) : Ring :=
      { base := base * 64, log2n := log2n, dev := dev, ctx := getF s (F.SQ_CFG_RING_CTX q) }
    (v.toNat.testBit 0 = true → v.toNat.testBit 1 = false → st = 0 ∨ st = 3 ∨ st = 4 →
      (fits → Completes (.start fn n v) s (fun t =>
        getF t (F.QSTATE_STATE q) = 1 ∧
        (∀ f ∈ [F.SQ_PTR_FETCH q, F.CQ_PTR_PRODUCER q, F.NEXT_SEQ q, F.QSTATE_FETCH_ERR q, F.QSTATE_CQ_ERR q],
          getF t f = 0) ∧
        KeepsFields s t [(F.QSTATE_STATE q).key, (F.SQ_PTR_FETCH q).key, (F.CQ_PTR_PRODUCER q).key, (F.NEXT_SEQ q).key,
          (F.QSTATE_FETCH_ERR q).key, (F.QSTATE_CQ_ERR q).key] ∧
        t = { setQueue s q
          { sq := ring (getF s (F.SQ_BASE_ADDR q)) a (getB s (F.SQ_CFG_LOC q)),
            cq := ring (getF s (F.CQ_BASE_ADDR q)) b (getB s (F.CQ_CFG_LOC q)),
            prod := 0, cons := 0, nextAbs := 0, fetched := [], waitSince := none } with fields := t.fields })) ∧
      (¬ fits → exec (.start fn n v) s = .next (Raised (setB s (F.QSTATE_CFG_ERR q) true) 0x8002 sevWarn
        (some (partOf s q)) 0x20 q (getF s (F.OUTSTANDING q)) (a + b * 2 ^ 8)))) ∧
    (v.toNat.testBit 0 = true → v.toNat.testBit 1 = false → ¬ (st = 0 ∨ st = 3 ∨ st = 4) →
      exec (.start fn n v) s = .next s) ∧
    (v.toNat.testBit 0 = v.toNat.testBit 1 → exec (.start fn n v) s = .next s ∧ exec (.stop fn n v) s = .next s) ∧
    (v.toNat.testBit 0 = false → v.toNat.testBit 1 = true →
      (st = 1 → ∃ u : State, exec (.stop fn n v) s = .next (recomputeAll u) ∧
        getF u (F.QSTATE_STATE q) = (if getF s (F.OUTSTANDING q) = 0 then 3 else 2) ∧
        KeepsFields s u [(F.QSTATE_STATE q).key] ∧
        u = { setQueue s q { getQueue s q with fetched := [], waitSince := none } with fields := u.fields }) ∧
      (st ≠ 1 → exec (.stop fn n v) s = .next s))

/-- R25 and R28; R54 for a read that fails. -/
def Obligations.FetchTakesPublishedCommand : Prop :=
  ∀ (s : State) (q : Nat),
    ready s = true → memQuiet s = true → q < 1024 → validQ s q = true → getF s (F.QSTATE_STATE q) = 1 →
    getF s (F.SQ_PTR_FETCH q) ≠ (getQueue s q).prod →
    let k := getQueue s q
    let addr := k.sq.base + 64 * (getF s (F.SQ_PTR_FETCH q) % 2 ^ k.sq.log2n)
    let owned := getF s (F.MMU_CTX_VALID k.sq.ctx) ≠ 0 ∧ getF s (F.MMU_CTX_PART k.sq.ctx) = partOf s q
    let dev := vreadBytes s k.sq.ctx addr 64 .read
    let takes (s : State) (bs : List Byte) : State :=
      let k := getQueue s q
      let cmd : CmdWord := BitVec.ofNat 512 (natOf bs)
      let u := setQueue s q { k with fetched := k.fetched ++ [{ abs := k.nextAbs, cmd := cmd }], nextAbs := k.nextAbs + 1 }
      recomputeAll (wakeNamed
        (setF (setF u (F.SQ_PTR_FETCH q) ((getF s (F.SQ_PTR_FETCH q) + 1) % (2 * 2 ^ k.sq.log2n))) (F.NEXT_SEQ q) (k.nextAbs + 1))
        q cmd)
    let fails (s : State) : Prop := ∃ u : State, exec (.commandFetch q) s = .next (restLayers (recomputeAll u)) ∧
      getF u (F.QSTATE_STATE q) = 4 ∧ getF u (F.QSTATE_FETCH_ERR q) = 1 ∧
      KeepsFields s u [(F.QSTATE_STATE q).key, (F.QSTATE_FETCH_ERR q).key] ∧
      Raises s u 0x8003 sevError (some (partOf s q)) 0x20 q 0 addr ∧
      u = { setQueue s q { getQueue s q with fetched := [], waitSince := none } with fields := u.fields, events := u.events }
    (k.sq.dev = false → s.pcie.up = false → exec (.commandFetch q) s = .next (restLayers s)) ∧
    (k.sq.dev = false → s.pcie.up = true →
      (∀ bs, hostRead s addr 64 = some bs → exec (.commandFetch q) s = .next (restLayers (takes s bs))) ∧
      (hostRead s addr 64 = none → fails s)) ∧
    (k.sq.dev = true → owned →
      (dev.2.fail = none → dev.2.poison = false →
        exec (.commandFetch q) s = .next (restLayers (takes dev.1 dev.2.bytes))) ∧
      (dev.2.fail ≠ none ∨ dev.2.poison = true →
        exec (.commandFetch q) s = .next (restLayers (fetchFailed dev.1 q (fetchAddr dev.1 q))))) ∧
    (k.sq.dev = true → ¬ owned → fails s)

/-- R27, R29 and R31; the order of R27, as codes of *Table: Front-end substatus codes*; the conditions of R29, and the
arbiter of R50 and R369, whose turn is the model's own state (log entry 48). -/
def Obligations.DispatchAndRejection : Prop :=
  (
    ∀ (s : State) (q : Nat) (f : Fetched),
      ready s = true → memQuiet s = true → q < 1024 → headOf s q = some f →
      (headReady s q = true → arbChoice s (engineOf s q) = some q →
        let t := recomputeAll (wakeNamed (dispatchHead s q f) q f.cmd)
        exec (.dispatch q) s = .next (restLayers t) ∧
        (cOpcode f.cmd = 0 → exec (.nop q) s = .next (restLayers t)) ∧
        (cOpcode f.cmd ≠ 0 → (dispatchHead s q f).open_ = s.open_ ++ [openFrom s q f] ∧
          (getQueue (dispatchHead s q f) q).fetched = (getQueue s q).fetched.drop 1 ∧
          (dispatchHead s q f).cores = s.cores ∧ (dispatchHead s q f).mem = s.mem)) ∧
      (∀ code, rejectCode s q f = some code → rejectConds s q f = true →
        exec (.frontEndReject q) s = .next (restLayers (recomputeAll
          (completeUndispatched (popHead s q) q (f.abs % 65536) f.cmd
            { status := stInvalid, sub := code, detail := 0, noSig := true })))) ∧
      (∀ t, (getQueue s q).waitSince = some t → heldByWait s q = true → getF s (F.QTMO_WAIT_US q) ≠ 0 →
        t + getF s (F.QTMO_WAIT_US q) * 1000 < s.time →
        exec (.waitTimeout q) s = .next (restLayers (recomputeAll
          (completeUndispatched (popHead s q) q (f.abs % 65536) f.cmd
            { status := stTimeout, sub := 0, detail := 0 }))))) ∧
  (
    ∀ (s : State) (q : Nat) (f : Fetched),
      (cTag f.cmd ≠ f.abs % 65536 → rejectCode s q f = some 1) ∧
      (cTag f.cmd = f.abs % 65536 → cReserved f.cmd = true → rejectCode s q f = some 2) ∧
      (cTag f.cmd = f.abs % 65536 → cReserved f.cmd = false → cEngine f.cmd ≠ engineOf s q → rejectCode s q f = some 3) ∧
      (cTag f.cmd = f.abs % 65536 → cReserved f.cmd = false → cEngine f.cmd = engineOf s q →
        (opDefined (engineOf s q) (cOpcode f.cmd) = false → rejectCode s q f = some 4) ∧
        (opDefined (engineOf s q) (cOpcode f.cmd) = true → rejectCode s q f = none)) ∧
      (∀ e, opDefined e 0 = true)) ∧
  (
    ∀ (s : State) (q : Nat) (f : Fetched),
      (headOf s q = some f ↔ validQ s q = true ∧ getF s (F.QSTATE_STATE q) = 1 ∧
        s.stop.feStopped.contains (engineOf s q) = false ∧ (getQueue s q).fetched.head? = some f) ∧
      (headOf s q = none → headReady s q = false) ∧
      (headOf s q = some f → (headReady s q = true ↔ rejectCode s q f = none ∧
        (cWaitEn f.cmd = true → (sigGet s (partOf s q) (cWaitIdx f.cmd) + 2 ^ 32 - cWaitVal f.cmd % 2 ^ 32) % 2 ^ 32 < 2 ^ 31) ∧
        cNotBefore f.cmd ≤ s.time ∧
        (cFence f.cmd = true → ∀ o ∈ s.open_, o.q ≠ q) ∧
        (∀ o ∈ s.open_, o.q = q → f.abs < o.abs + 32768) ∧
        (let n := 2 ^ (getQueue s q).cq.log2n
         (getF s (F.CQ_PTR_PRODUCER q) + 2 * n - (getQueue s q).cons) % (2 * n) +
           (s.open_.filter (fun o => o.q == q)).length < n) ∧
        (s.open_.filter (fun o => o.join == joinPoint s q f.cmd)).length < 256 ∧
        capoReleases s q f.cmd = true ∧
        (∀ l, l < 64 → (getCluster s l).hold = true → needsCluster s q f.cmd l = false))) ∧
      (expressQ s q = true → capoReleases s q f.cmd = true) ∧
      (let e := engineOf s q
       let T := sget .zero s.turns e
       let o := openFrom s q f
       let U := if expressQ s q then { T with lastExpress := q, lastSeq := o.tag }
         else if T.queue = q ∧ 0 < T.left then { T with left := T.left - 1, lastSeq := o.tag }
         else { T with queue := q, left := max 1 (getF s (F.QCTL_QOWN_WEIGHT q)) - 1, lastSeq := o.tag }
       sget .zero (dispatchHead s q f).turns e =
         if 0 < U.left ∧ headReady (dispatchHead s q f) U.queue = false then { U with left := 0 } else U)) ∧
  (
    ∀ (s : State) (e : Nat), (s.queues.map (·.1)).Pairwise (· < ·) →
      let T := sget .zero s.turns e
      let ready (x : Bool) (q : Nat) : Prop := q < 1024 ∧ engineOf s q = e ∧ expressQ s q = x ∧ headReady s q = true
      let next (x : Bool) (after q : Nat) : Prop := ready x q ∧
        ((after < q ∧ ∀ r, ready x r → r ≤ after ∨ q ≤ r) ∨ (∀ r, ready x r → r ≤ after ∧ q ≤ r))
      (∀ q, next true T.lastExpress q → arbChoice s e = some q) ∧
      ((∀ q, ¬ ready true q) →
        (ready false T.queue → 0 < T.left → arbChoice s e = some T.queue) ∧
        (¬ (ready false T.queue ∧ 0 < T.left) →
          (∀ q, next false T.queue q → arbChoice s e = some q) ∧
          ((∀ q, ¬ ready false q) → arbChoice s e = none))))

/-- R36 and R37. -/
def Obligations.JoinCompletesWithLowestFailure : Prop :=
  (∀ (s : State) (q tag seq : Nat) (o : OpenCmd) (r : Report),
    ready s = true → memQuiet s = true → q < 1024 → findCmd s q tag = some o → sentReport o seq = some r →
    let o' : OpenCmd := { o with sent := o.sent.erase r, got := o.got ++ [r] }
    (allIn o' = true →
      exec (.joinReport q tag seq) s = .next (restLayers (recomputeAll (complete s o' (joined o'))))) ∧
    (allIn o' = false →
      exec (.joinReport q tag seq) s = .next (restLayers (recomputeAll (updCmd s q tag (fun _ => o')))))) ∧
  (∀ o : OpenCmd,
    ((∀ r ∈ o.got, r.res.status = stOk) → (joined o).status = stOk ∧ (joined o).detail = o.okDetail) ∧
    ((∃ r ∈ o.got, r.res.status ≠ stOk) → ∃ r ∈ o.got, r.res.status ≠ stOk ∧ joined o = r.res ∧
      ∀ x ∈ o.got, x.res.status ≠ stOk → r.seq ≤ x.seq))

/-- R30, R32 to R34, R38 to R40, R201 and R368: the completion record in its ring, the interrupt, the signal, and what
an update of a signal word does; the enable and mask bits of MSI-X are log entries 102 and 103. -/
def Obligations.CompletionsAndSignals : Prop :=
  (∀ (s : State) (q tag dur en : Nat) (r : Result),
    (getQueue s q).cq.dev = false → s.pcie.up = true → tag < 65536 → r.status < 256 → q < 1024 →
    let k := getQueue s q
    let n := 2 ^ k.cq.log2n
    let p := getF s (F.CQ_PTR_PRODUCER q)
    let addr := k.cq.base + 32 * (p % n)
    let phase : Bool := decide (p < n)
    let v := record s q tag r dur en phase
    let t := putRecord s q tag r dur en
    let vec := getF s (F.CQ_CFG_VECTOR q)
    (v % 2 ^ 16 = tag ∧ v / 2 ^ 16 % 2 ^ 8 = r.status ∧ v / 2 ^ 24 % 2 ^ 3 = engineOf s q ∧
      v / 2 ^ 31 % 2 = phase.toNat ∧ v / 2 ^ 32 % 2 ^ 10 = q ∧ v / 2 ^ 42 % 2 ^ 4 = partOf s q ∧
      v / 2 ^ 48 % 2 ^ 16 = r.sub % 2 ^ 16 ∧ v / 2 ^ 64 % 2 ^ 64 = s.time % 2 ^ 64 ∧
      v / 2 ^ 128 % 2 ^ 32 = min dur (2 ^ 32 - 1) ∧ v / 2 ^ 160 % 2 ^ 32 = min en (2 ^ 32 - 1) ∧
      v / 2 ^ 192 = r.detail % 2 ^ 64) ∧
    (∀ a, slook t.hostMem a =
      if addr ≤ a ∧ a < addr + 32 then some (BitVec.ofNat 8 (v / 2 ^ (8 * (a - addr)))) else slook s.hostMem a) ∧
    getF t (F.CQ_PTR_PRODUCER q) = (p + 1) % (2 * n) % 2 ^ 17 ∧
    getF t (F.CNT (partOf s q) 30) = min (getF s (F.CNT (partOf s q) 30) + 1) (2 ^ 64 - 1) ∧
    KeepsFields s t [(F.CQ_PTR_PRODUCER q).key, (F.CNT (partOf s q) 30).key, (F.DBG_CNT_DEV 30).key] ∧
    t = { s with hostMem := t.hostMem, hostPoison := t.hostPoison, fields := t.fields, pcie := t.pcie } ∧
    (getF s (F.CQ_CFG_MSIX_EN q) = 0 → t.pcie = s.pcie) ∧
    (getF s (F.CQ_CFG_MSIX_EN q) = 1 → vec < msixVectors s (partOf s q) → msixMasked s (partOf s q) vec = false →
      msixEnabled s (partOf s q) = true → t.pcie = { s.pcie with msix := s.pcie.msix ++ [(partOf s q, vec)] })) ∧
  (∀ (s s1 : State) (q tag dur en : Nat) (r : Result), (getQueue s q).cq.dev = true →
    let k := getQueue s q
    let n := 2 ^ k.cq.log2n
    let p := getF s (F.CQ_PTR_PRODUCER q)
    let addr := k.cq.base + 32 * (p % n)
    let v := record s q tag r dur en (decide (p < n))
    let owned := getF s (F.MMU_CTX_VALID k.cq.ctx) = 1 ∧ getF s (F.MMU_CTX_PART k.cq.ctx) = partOf s q
    let t := putRecord s q tag r dur en
    ((¬ owned ∧ s1 = s) ∨ (owned ∧ ∃ x, translate s k.cq.ctx addr .write = (s1, .error x)) ∨
      (owned ∧ ∃ dpa, translate s k.cq.ctx addr .write = (s1, .ok dpa) ∧ colGone s1 (dpaCol dpa) = true) → devState s1 ≠ 0 →
      getF t (F.CQ_PTR_PRODUCER q) = (p + 1) % (2 * n) % 2 ^ 17 ∧ getF t (F.QSTATE_CQ_ERR q) = 1 ∧
      getF t (F.QSTATE_STATE q) = 4 ∧
      KeepsFields s1 t [(F.CQ_PTR_PRODUCER q).key, (F.QSTATE_CQ_ERR q).key, (F.QSTATE_STATE q).key] ∧
      Raises s1 t 0x8005 sevError (some (partOf s q)) 0x20 q 0 addr ∧
      t = { setQueue s1 q { getQueue s1 q with fetched := [], waitSince := none } with
        fields := t.fields, events := t.events }) ∧
    (∀ dpa, owned → translate s k.cq.ctx addr .write = (s1, .ok dpa) → colGone s1 (dpaCol dpa) = false →
      let w := (List.range 4).foldl (fun u i => (writeWord (countVa u 23 k.cq.ctx dpa) (dpa + 8 * i)
        (BitVec.ofNat 64 (v / 2 ^ (64 * i))) 0xFF false).1) s1
      let u := setF w (F.CQ_PTR_PRODUCER q) ((p + 1) % (2 * n))
      let u := countOp u (partOf u q) 30 1
      t = if getB u (F.CQ_CFG_MSIX_EN q) then sendMsix u (partOf u q) (getF u (F.CQ_CFG_VECTOR q)) else u)) ∧
  (∀ (s : State) (q : Nat) (c : CmdWord) (r : Result),
    let applies := cSigEn c = true ∧ r.noSig = false ∧ (r.status = stOk ∨ cSigAny c = true)
    let p := partOf s q
    (applies → applySignal s q c r =
      sigSet s p (cSigIdx c) (if cSigAdd c then sigGet s p (cSigIdx c) + cSigVal c else cSigVal c)) ∧
    (¬ applies → applySignal s q c r = s)) ∧
  (∀ (s : State) (q tag : Nat) (c : CmdWord) (r : Result),
    completeUndispatched s q tag c r = traceComplete (applySignal (putRecord s q tag r 0 0) q c r) q tag r 0 0) ∧
  (∀ (s : State) (o : OpenCmd) (r : Result), r.status = stOk →
    let s1 := if engineOf s o.q = 4 ∧ cOpcode o.cmd = 0x40 then
        (match findUpd s o.q o.tag with
         | some x => flip (dropUpd s o.q o.tag) x
         | none => s)
      else s
    let d := s1.time - o.tDispatch
    let u := { s1 with open_ := s1.open_.filter (fun x => !(x.q == o.q && x.tag == o.tag)) }
    let u := traceComplete (applySignal (putRecord u o.q o.tag r d o.attributed) o.q o.cmd r) o.q o.tag r d o.attributed
    let u := if o.express = false ∧ o.energy * 5 < o.attributed * 4 then incF u (F.CAPO_UNDER_CNT (partOf u o.q)) else u
    let u := setF u F.CAPO_STATE_PLAN_W (planW u)
    complete s o r = settlePart (settleStop
      (setF u (F.OUTSTANDING o.q) (u.open_.filter (fun x => x.q == o.q)).length) o.q) (partOf u o.q)) ∧
  (∀ (s : State) (q tag d : Nat) (o : OpenCmd) (r : Result), findCmd s q tag = some o →
    findCmd (answer s q tag r d) q tag = some { o with
      begun := true, items := some 1, okDetail := d, sent := o.sent ++ [{ seq := 0, res := r }] }) ∧
  (∀ (s : State) (fn w p x v : Nat),
    let t := sigSet s p w v
    sigGet t p w = v % 2 ^ 32 ∧
    (w < 4096 → ∀ p' w', w' < 4096 → (p', w') ≠ (p, w) → sigGet t p' w' = sigGet s p' w') ∧
    (∀ c, let k := getCore s c
      let released := k.stopped = false ∧ ∃ n w' v', k.kernel = some n ∧ n.part = p ∧ k.wait = some (.sigw w' v') ∧
        w' = w ∧ (v % 2 ^ 32 + 2 ^ 32 - v'.toNat) % 2 ^ 32 < 2 ^ 31
      (released → getCore t c = { k with wait := none, rf := { k.rf with pc := k.rf.pc + 4 } }) ∧
      (¬ released → getCore t c = k)) ∧
    t = { s with sigs := t.sigs, cores := t.cores } ∧
    sigAdd s p w x = sigSet s p w (sigGet s p w + x) ∧
    (∀ value : BitVec 32, ready s = true → fn < 16 → w < 4096 →
      (bar2On s fn = true → exec (.sigWrite fn w value) s = .next (sigSet s fn w value.toNat)) ∧
      (bar2On s fn = false → exec (.sigWrite fn w value) s = .next s)))

/-- R55 on its four registers. -/
def Obligations.RingConfigurationIsLockedWhileRunning : Prop :=
  ∀ (s : State) (fn n q : Nat) (v : BitVec 64),
    ready s = true → fn < 16 → n < 1024 → queueAt s fn n = some q →
    let st := getF s (F.QSTATE_STATE q)
    let x := v.toNat
    let sets (i : Instr) (l : List (Fld × Nat)) : Prop :=
      Completes i s (fun t => (∀ p ∈ l, getF t p.1 = p.2) ∧ OnlyFields s t (l.map (fun p => p.1.key)))
    let locked (i : Instr) (off : Nat) : Prop :=
      exec i s = .next (Raised s 0x8004 sevWarn (some (partOf s q)) 0x20 q 0 off)
    (st ≠ 1 → st ≠ 2 →
      sets (.ringConfigWrite fn n 0x18 4 v) [(F.SQ_CFG_LOG2N q, x % 2 ^ 5), (F.SQ_CFG_LOC q, x / 2 ^ 8 % 2),
        (F.SQ_CFG_RING_CTX q, x / 2 ^ 16 % 2 ^ 12)] ∧
      sets (.ringConfigWrite fn n 0x28 4 v) [(F.CQ_CFG_LOG2N q, x % 2 ^ 5), (F.CQ_CFG_LOC q, x / 2 ^ 8 % 2),
        (F.CQ_CFG_MSIX_EN q, x / 2 ^ 9 % 2), (F.CQ_CFG_VECTOR q, x / 2 ^ 16 % 2 ^ 11)] ∧
      sets (.ringConfigWrite fn n 0x10 8 v) [(F.SQ_BASE_ADDR q, x / 2 ^ 6)] ∧
      sets (.ringConfigWrite fn n 0x20 8 v) [(F.CQ_BASE_ADDR q, x / 2 ^ 6)]) ∧
    (st = 1 ∨ st = 2 →
      locked (.ringConfigWrite fn n 0x18 4 v) 0x18 ∧ locked (.ringConfigWrite fn n 0x28 4 v) 0x28 ∧
      locked (.ringConfigWrite fn n 0x10 8 v) 0x10 ∧ locked (.ringConfigWrite fn n 0x20 8 v) 0x20)

/-- R43 to R47 where nothing is refused; which number the item of a cluster has is log entry 12, and that each cluster
starts by itself log entry 109. -/
def Obligations.ProgramLoadAndLaunch : Prop :=
  ∀ (s : State) (q tag lc : Nat) (o : OpenCmd), ready s = true → q < 1024 →
    (memQuiet s = true → toBegin s q tag 0x01 = some o → loadFields o.cmd = true → foreignCtx s q (cCtx o.cmd) = false →
      absentMask s (maskOf o.cmd) = 0 →
      let r := vreadBytes s (cCtx o.cmd) (cmdField o.cmd 48 8) (cWord44 o.cmd) .read
      r.2.fail = none → r.2.poison = false →
      let lcs := lcsOf (BitVec.ofNat 64 (maskOf o.cmd))
      let t := updCmd r.1 q tag (fun o => { o with begun := true, items := some lcs.length })
      exec (.loadProgram q tag) s = .next (restLayers { t with loads := t.loads ++
        [{ q := q, tag := tag, slot := cSlot o.cmd, off := cmdField o.cmd 56 4, bytes := r.2.bytes, left := lcs }] })) ∧
    (∀ l, lc < 64 → s.loads.find? (fun l => l.q == q && l.tag == tag && l.left.contains lc) = some l →
      findCmd s q tag = some o → rangeInUse s lc l.off l.bytes.length = false →
      Completes (.loadProgramWrite q tag lc) s (fun t =>
        let k := getCluster t lc
        sget .zero k.slots l.slot = { off := l.off, len := l.bytes.length, loaded := true, undef := false } ∧
        (∀ a, sget 0 k.istore a = if l.off ≤ a ∧ a < l.off + l.bytes.length then l.bytes.getD (a - l.off) 0
          else sget 0 (getCluster s lc).istore a) ∧
        (∀ j x, j ≠ l.slot → slook k.slots j = some x → rangesMeet x.off x.len l.off l.bytes.length = false) ∧
        k = { getCluster s lc with slots := k.slots, istore := k.istore } ∧
        (∀ l', l' ≠ lc → getCluster t l' = getCluster s l') ∧
        findCmd t q tag = some { o with sent := o.sent ++ [{ seq := lcItem (maskOf o.cmd) lc, res := okResult }] } ∧
        t.loads = (s.loads.map (fun x => if x.q = q ∧ x.tag = tag then
          { x with left := x.left.filter (fun y => y != lc) } else x)).filter (fun x => !x.left.isEmpty) ∧
        t = { s with clusters := t.clusters, open_ := t.open_, loads := t.loads })) ∧
    (toLaunch s q tag = some o →
      let lcs := lcsOf (BitVec.ofNat 64 (maskOf o.cmd))
      (o.begun = false → computeFields o.cmd = true → entryBad s o.cmd = false →
        foreignCtx s q (cCtx o.cmd) = false → absentMask s (maskOf o.cmd) = 0 → ctxDead s (cCtx o.cmd) = false →
        slotEmpty s o.cmd = false → (∃ l ∈ lcs, launchMayStart s o l = true) →
        exec (.launch q tag) s =
          .next (launchStart (launchBegin (drawn s) o) o (lcs.filter (launchMayStart s o)))) ∧
      (o.begun = true → (∃ l ∈ o.starts, launchMayStart s o l = true) →
        exec (.launch q tag) s = .next (launchStart s o (o.starts.filter (launchMayStart s o)))))

/-- R43 and R161: the registers at a LAUNCH, and the end at END; R179 for the doorbells. The sixteen items of a cluster
(log entry 12) and the start of each cluster by itself (log entry 109) are the model's own choices. -/
def Obligations.LaunchRegisters : Prop :=
  (∀ (s : State) (o : OpenCmd) (c : Nat), coreAbsent s c = false →
    let t := startCore s o c
    let k := getCore t c
    k.rf.pc = cmdField o.cmd 44 4 ∧
    (∀ i : BitVec 5, (xget k.rf i).poison = false ∧ (xget k.rf i).data =
      if i = 10 then BitVec.ofNat 64 (cmdField o.cmd 48 8)
      else if i = 11 then BitVec.ofNat 64 (cmdField o.cmd 56 8)
      else if i = 12 then BitVec.ofNat 64 c else 0) ∧
    (∀ n i, vget k.rf n i = (0, false)) ∧ (∀ n, n ≠ 0 → pget k.rf n = 0) ∧
    k.t = [] ∧ k.astat = 0 ∧ k.exc = none ∧ k.wait = none ∧ k.issued = 0 ∧
    k.kernel.map (·.slot) = some (cSlot o.cmd) ∧
    (∀ c', c' ≠ c → getCore t c' = getCore s c') ∧ t = { s with cores := t.cores }) ∧
  (∀ (s : State) (o : OpenCmd),
    let lcs := lcsOf (BitVec.ofNat 64 (maskOf o.cmd))
    let t := launchBegin s o
    (∀ c ∈ lcs.flatMap coresOf, getCore t c = { getCore s c with gone := false, db := 0 }) ∧
    (∀ c, c ∉ lcs.flatMap coresOf → getCore t c = getCore s c) ∧
    t.bells = s.bells.filter (fun b => !(lcs.flatMap coresOf).contains b.core) ∧
    t.open_ = (updCmd s o.q o.tag (fun o => { o with begun := true, items := some (16 * lcs.length), starts := lcs })).open_ ∧
    t = { s with cores := t.cores, bells := t.bells, open_ := t.open_ }) ∧
  (∀ (s : State) (o : OpenCmd) (lcs : List Nat),
    let u := updCmd s o.q o.tag (fun o => { o with starts := o.starts.filter (fun l => !lcs.contains l) })
    let u := lcs.foldl (fun s l => setCluster s l { getCluster s l with lastSlot := some (cSlot o.cmd) }) u
    launchStart s o lcs = (lcs.flatMap coresOf).foldl (fun t c => startCore t o c) u) ∧
  (∀ (s : State) (c : Nat), Runs s (.core c) 4 →
    exec (.endKernel (.core c)) s = .next (finish (pass (countIssue s (.core c)) c) c))

/-- R10, R12, R13, R15 and R17; input voltages in 0.1 V, temperatures in 0.125 °C, flow in 0.001 L/min. What the
failure of a service trunk channel does is the model's choice (log entry 83), as is the packing of COOLANT_REVERSED's
DATA (log entry 53). -/
def Obligations.StackAndInput : Prop :=
  (∀ (s : State) (p mv : Nat), ready s = true → p < 9 →
    let u (ok : Bool) : State := setB (setF s (F.PDM_THRU_MV p) (Nat.min mv 4095)) (F.PDM_THRU_OK p) ok
    (mv < 950 → exec (.thruSlice p mv) s = .next (Raised (u false) 0x1001 sevFatal none 4 0 0 p)) ∧
    (950 ≤ mv → exec (.thruSlice p mv) s = .next (u true)) ∧
    (∀ ok, getF (u ok) (F.PDM_THRU_MV p) = Nat.min mv 4095 ∧ getF (u ok) (F.PDM_THRU_OK p) = ok.toNat ∧
      OnlyFields s (u ok) [(F.PDM_THRU_MV p).key, (F.PDM_THRU_OK p).key])) ∧
  (∀ (s : State) (chan b : Nat) (down : Bool), ready s = true →
    let coils := sput 0 s.spareCoils ((chan * 16 + b) * 2 + down.toNat) 4
    (chan < 1224 → b < 9 →
      let u := { s with spareCoils := coils, luthier := { s.luthier with colBad := s.luthier.colBad ++ [chan] } }
      (∀ col, colOfPcol s chan = some col →
        exec (.couplerFail chan b down) s = .next (setB (fence u 2 col 10) (F.MEM_COLMAP_VALID col) false)) ∧
      (colOfPcol s chan = none → exec (.couplerFail chan b down) s = .next u)) ∧
    (1224 ≤ chan → chan < 1308 → b < 10 →
      let pool := s.luthier.trunkPool.filter (· != chan - 1224)
      exec (.couplerFail chan b down) s = .next (setF { s with
        spareCoils := coils,
        luthier := { s.luthier with trunkPool := pool, trunkBad := s.luthier.trunkBad ++ [chan - 1224] } }
        F.LNK_TRUNK_CHANNELS pool.length))) ∧
  (∀ (s : State) (inlet outlet : Int) (flow ms : Nat), ready s = true →
    let cond := outlet + 16 < inlet ∧ 1000 < ms ∧ 20 * s.therm.flowNom < flow ∧ getF s F.THM_STATUS_OUTLET_LOST = 0
    let t (on : Bool) : State := { s with therm := { s.therm with reversed := on } }
    (cond → s.therm.reversed = false → exec (.coolantReversed inlet outlet flow ms) s = .next (Raised (t true)
      0x2001 sevWarn none 0 0 0 ((inlet % 2 ^ 32).toNat + (outlet % 2 ^ 32).toNat * 2 ^ 32))) ∧
    (cond → s.therm.reversed = true → exec (.coolantReversed inlet outlet flow ms) s = .next s) ∧
    (¬ cond → exec (.coolantReversed inlet outlet flow ms) s = .next (t false))) ∧
  (∀ (s : State) (vin : Nat), s.pins.vinOk = true →
    (vin < 2350 ∨ 4300 < vin →
      let u := if s.power = .on ∨ s.power = .rising then removePower s .off else s
      let t := { u with pins := { u.pins with vinOk := false, vinHigh := decide (4300 < vin) } }
      exec (.inputVoltageStop vin) s = .next t ∧ t.power ≠ .on ∧ t.power ≠ .rising ∧ t.pins.pwrEn = s.pins.pwrEn ∧
      t.hostMem = s.hostMem ∧ t.pending = s.pending ∧ (s.power = .on → t.fields = [] ∧ t.cores = [] ∧ t.mem = [])) ∧
    (2450 ≤ vin → vin ≤ 4150 → exec (.inputVoltageStop vin) s = .next s)) ∧
  (∀ (s : State) (vin : Nat), s.pins.vinOk = false → s.pins.pwrEn = true → s.power = .off → 2600 ≤ vin → vin ≤ 4000 →
    exec (.inputVoltageRestart vin) s =
      .next { s with power := .rising, pins := { s.pins with vinOk := true, vinHigh := false } })

/-- R60; the through slices carry the channels while their switches are closed (R11). The words that a failed
transfer poisons for their consumers are the model's choice (log entry 88). -/
def Obligations.ChannelRetriesThenPoison : Prop :=
  (∀ (s : State) (col : Nat) (up : Bool) (words : List PWord) (fails : Nat),
    s.power = .on → halted s = false → col < 1224 →
    let open_ := s.thruOpen = false ∧ (devState s ≠ 0 ∨ 3 < getF s F.LUT_STATE_STAGE)
    let key := 2 * col + up.toNat
    let counted := addF s F.MEM_CRC_RETRY_CNT (Nat.min fails 4)
    (¬ open_ → exec (.channelTransfer col up words fails) s = .next s) ∧
    (open_ → fails ≤ 4 → exec (.channelTransfer col up words fails) s =
      .next { counted with channelOut := sput [] s.channelOut key words }) ∧
    (open_ → 5 ≤ fails → Completes (.channelTransfer col up words fails) s (fun t =>
      getF t F.MEM_CRC_RETRY_CNT = Nat.min (getF s F.MEM_CRC_RETRY_CNT + 4) (2 ^ 64 - 1) ∧
      getF t F.MEM_CRC_FAIL_CNT = Nat.min (getF s F.MEM_CRC_FAIL_CNT + 1) (2 ^ 64 - 1) ∧
      KeepsFields s t [F.MEM_CRC_RETRY_CNT.key, F.MEM_CRC_FAIL_CNT.key, (F.LUT_STAGE_EVENTS (getF s F.LUT_STATE_STAGE)).key] ∧
      (devState s ≠ 0 → KeepsFields s t [F.MEM_CRC_RETRY_CNT.key, F.MEM_CRC_FAIL_CNT.key]) ∧
      Raises s t 0x3001 sevError none 3 col 0 ((colOfPcol s col).getD 0) ∧
      t = { s with
        channelOut := sput [] s.channelOut key (words.map (fun w => { data := w.data, poison := true })),
        channelBad := sput 0 s.channelBad key (sget 0 s.channelBad key + words.length),
        fields := t.fields, events := t.events }))) ∧
  (∀ (s u : State) (a n : Nat) (w : PWord), readBank s a = (u, some w) →
    let key := 2 * getF u (F.MEM_COLMAP_PCOL (dpaCol a)) + 1
    (sget 0 u.channelBad key = 0 → readWord s a = (u, some w)) ∧
    (sget 0 u.channelBad key = n + 1 →
      readWord s a = ({ u with channelBad := sput 0 u.channelBad key n }, some { w with poison := true })))

/-- R63, R65 and R78: a full write, then a read, and the frame of both; a masked write; an access that waits (R72,
R82), as log entry 86 has it wait; the outcomes of a read (R63, R64); the spread hash (R57). -/
def Obligations.WrittenWordReadsBack : Prop :=
  (∀ (s : State) (a : Nat) (d : BitVec 64) (p : Bool),
    ready s = true → memQuiet s = true → a < 2 ^ 37 → colGone s (dpaCol a) = false →
    let layers := writeLayers s (dpaLayer a) (dpaCol a) (dpaBank a) (dpaByte a / 8 / 8)
    (∀ l ∈ layers, s.layerDead.contains l = false) →
    let pcol := getF s (F.MEM_COLMAP_PCOL (dpaCol a))
    let down : Bool := decide (0 < sget 0 s.channelBad (2 * pcol))
    let up : Bool := decide (0 < sget 0 s.channelBad (2 * pcol + 1))
    Completes (.bankWrite a d 0xFF p) s (fun t =>
      (readBank t (a / 8 * 8)).2 = some { data := d, poison := p || down } ∧
      (readWord t (a / 8 * 8)).2 = some { data := d, poison := p || down || up } ∧
      (∀ l ∈ layers, cwAt t (physWord s l pcol (dpaBank a) (dpaByte a / 8)) = encodeWord d (p || down)) ∧
      (∀ pw, (∀ l ∈ layers, pw ≠ physWord s l pcol (dpaBank a) (dpaByte a / 8)) → slook t.mem pw = slook s.mem pw) ∧
      t = { s with mem := t.mem, channelBad := t.channelBad, fields := t.fields, scopes := t.scopes, trace := t.trace,
                   woken := t.woken, drones := t.drones } ∧
      Completes (.bankRead a) t (fun u =>
        sget [] u.channelOut (2 * pcol + 1) = [{ data := d, poison := p || down || up }] ∧
        u = { t with channelOut := u.channelOut, channelBad := u.channelBad, fields := u.fields, scopes := u.scopes,
                     trace := u.trace, woken := u.woken, drones := u.drones }))) ∧
  (∀ (s : State) (a : Nat) (d : BitVec 64) (m : BitVec 8) (p : Bool), ready s = true → a < 2 ^ 37 →
    (memQuiet s = true → exec (.bankWrite a d m p) s = .next (restLayers (writeWord s (a / 8 * 8) d m p).1)) ∧
    (colGone s (dpaCol a) = false →
      let col := dpaCol a
      let bank := dpaBank a
      let line := dpaByte a / 64
      let pcol := getF s (F.MEM_COLMAP_PCOL col)
      let waits (l : Nat) : Prop := s.layerRst = some l ∨
        ∃ e h, e < 8 ∧ slook s.saddleHolds (bankIndex l pcol bank * 8 + e) = some h ∧ h.line = line
      (waits (readLayer s (dpaLayer a) col bank) →
        exec (.bankRead a) s = .next { s with waiting := s.waiting ++ [.bankRead a] }) ∧
      ((∃ l ∈ writeLayers s (dpaLayer a) col bank line, waits l) →
        exec (.bankWrite a d m p) s = .next { s with waiting := s.waiting ++ [.bankWrite a d m p] }))) ∧
  (∀ (s : State) (pcol pw dpa : Nat) (d : BitVec 64) (m : BitVec 8) (p : Bool), m ≠ 0xFF →
    let old := (readPhys s pcol pw dpa).2
    let t := (writePhys s pcol pw dpa d m p).1
    ∃ w, cwAt t pw = encodeWord w (old.poison || p) ∧
      (∀ i, i < 8 → w.extractLsb' (8 * i) 8 = if m.getLsbD i then d.extractLsb' (8 * i) 8 else old.data.extractLsb' (8 * i) 8) ∧
      (∀ qw, qw ≠ pw → slook t.mem qw = slook s.mem qw) ∧
      (writePhys s pcol pw dpa d m p).2 = (if old.poison then .ue else .ok)) ∧
  (∀ (s : State) (a : Nat), ready s = true → memQuiet s = true → a < 2 ^ 37 → colGone s (dpaCol a) = false →
    let pl := readLayer s (dpaLayer a) (dpaCol a) (dpaBank a)
    let pcol := getF s (F.MEM_COLMAP_PCOL (dpaCol a))
    let pw := physWord s pl pcol (dpaBank a) (dpaByte a / 8)
    let up : Bool := decide (0 < sget 0 s.channelBad (2 * pcol + 1))
    s.layerDead.contains pl = false →
    Completes (.bankRead a) s (fun t =>
      t = { s with channelOut := t.channelOut, channelBad := t.channelBad, fields := t.fields, scopes := t.scopes,
                   trace := t.trace, woken := t.woken, drones := t.drones, events := t.events, freeCtr := t.freeCtr } ∧
      let gives (w : PWord) : Prop := sget [] t.channelOut (2 * pcol + 1) = [w]
      let counts (f : Fld) (n : Nat) : Prop := getF t f = Nat.min (getF s f + n) (2 ^ 64 - 1)
      match decodeWord (cwAt s pw) with
      | .clean => gives { data := cwData (cwAt s pw), poison := cwPoison (cwAt s pw) || up } ∧
          counts F.MEM_CE_CNT 0 ∧ counts F.MEM_UE_CNT 0 ∧ t.events = s.events
      | .corrected c => gives { data := cwData c, poison := cwPoison c || up } ∧
          counts F.MEM_CE_CNT (slook s.mem pw).isSome.toNat ∧ counts F.MEM_UE_CNT 0 ∧ t.events = s.events
      | .uncorrectable => (∃ d, gives { data := d, poison := true }) ∧
          counts F.MEM_CE_CNT 0 ∧ counts F.MEM_UE_CNT 1 ∧ Raises s t 0x3002 sevError none 3 pcol 0 (a / 8 * 8))) ∧
  (∀ a : Nat, a < 2 ^ 37 → toLocal a = a) ∧
  (∀ x : BitVec 37,
    let l := toLocal (2 ^ 39 + x.toNat)
    l < 2 ^ 37 ∧ localToSpread l = x.toNat ∧
    BitVec.ofNat 10 (dpaCol l) =
      x.extractLsb' 12 10 ^^^ x.extractLsb' 22 10 ^^^ (x.extractLsb' 32 5).setWidth 10 ∧
    dpaLayer l = (x.extractLsb' 22 3).toNat ∧ dpaBank l = (x.extractLsb' 25 2).toNat ∧
    dpaByte l = (x.extractLsb' 27 10).toNat * 2 ^ 12 + (x.extractLsb' 0 12).toNat) ∧
  (∀ l : Nat, l < 2 ^ 37 → localToSpread l < 2 ^ 37 ∧ toLocal (2 ^ 39 + localToSpread l) = l)

/-- R61 to R63: one flipped bit of data or check bits is corrected; the parity bit or the poison bit flipped alone
makes the word uncorrectable. -/
def Obligations.CodewordCorrectsOneError : Prop :=
  ∀ (d : BitVec 64) (p : Bool),
    decodeWord (encodeWord d p) = .clean ∧ cwData (encodeWord d p) = d ∧ cwPoison (encodeWord d p) = p ∧
    (∀ b, b < 78 → decodeWord (flipBit (encodeWord d p) b) = .corrected (encodeWord d p)) ∧
    (∀ b, b = 78 ∨ b = 79 → decodeWord (flipBit (encodeWord d p) b) = .uncorrectable)

/-- R67 to R70, in the order of the model's checks; the words of a FILL in ascending address. -/
def Obligations.FillAndCopyOutcomes : Prop :=
  (∀ (s : State) (q tag : Nat) (o : OpenCmd), ready s = true → memQuiet s = true → q < 1024 →
    (toBegin s q tag 0x31 = some o → fillFields o.cmd = true →
      let a := cmdField o.cmd 32 8
      let n := cmdField o.cmd 40 8
      let dpaMode := (cmdField o.cmd 58 1).testBit 1
      let ends (t : State) : Prop := exec (.fill q tag) s = .next (restLayers t)
      (a % 8 ≠ 0 ∨ n % 8 ≠ 0 ∨ n = 0 → ends (answer s q tag (codeResult stInvalid 0x0100) 0)) ∧
      (a % 8 = 0 → n % 8 = 0 → n ≠ 0 → dpaMode = true → partOf s q ≠ 0 →
        ends (answer s q tag (codeResult stPermission 0) 0)) ∧
      (a % 8 = 0 → n % 8 = 0 → n ≠ 0 →
        (if dpaMode then partOf s q = 0 ∧ dpaRangeBad a n = false else foreignCtx s q (cCtx56 o.cmd) = false) →
        (fillTargets s o.cmd).2.2 = none →
        let words := (fillTargets s o.cmd).2.1
        let wrote := words.foldl (fun s w => (writeWord s w (BitVec.ofNat 64 (cmdField o.cmd 48 8)) 0xFF false).1)
          (fillTargets s o.cmd).1
        let counted := words.foldl (fun s w => countChan s (partOf s o.q) 23 (dpaCol w) 8) wrote
        ends (answer (if (cmdField o.cmd 58 1).testBit 0 then words.foldl scrubSet counted else counted)
          o.q o.tag okResult 0))) ∧
    (toBegin s q tag 0x30 = some o → copyFields o.cmd = true →
      let n := cmdField o.cmd 48 8
      let src := cmdField o.cmd 32 8
      let dst := cmdField o.cmd 40 8
      let same := cpSrcHost o.cmd = false ∧ cpDstHost o.cmd = false ∧ cCtx56 o.cmd = cCtx58 o.cmd
      let ends (t : State) : Prop := exec (.copy q tag) s = .next (restLayers t)
      (n = 0 → ends (answer s o.q o.tag (codeResult stInvalid 0x0100) 0)) ∧
      (n ≠ 0 → same → rangesMeet src n dst n = true → ends (answer s o.q o.tag (codeResult stInvalid 0x0101) 0)) ∧
      (n ≠ 0 → (same → rangesMeet src n dst n = false) →
        (cpSrcHost o.cmd = false → foreignCtx s o.q (cCtx56 o.cmd) = false) →
        (cpDstHost o.cmd = false → foreignCtx s o.q (cCtx58 o.cmd) = false) →
        s.pcie.up = true ∨ (cpSrcHost o.cmd = false ∧ cpDstHost o.cmd = false) →
        let rs := copySrc s (cpSrcHost o.cmd) (cCtx56 o.cmd) src n
        let rd := copyDst rs.1 (cpDstHost o.cmd) (cCtx58 o.cmd) dst n
        let r := copyStores rd.1 src dst n rs.2 rd.2
        ends (copyNow s o) ∧
        (copyFault rs.2 rd.2 = none →
          copyAliased (copyCount r.1 o rd.2) (cpSrcHost o.cmd) (cpDstHost o.cmd) (cCtx56 o.cmd) src dst n rd.2 = false →
          ends (answerOr (copyCount r.1 o rd.2) o r.2 0)) ∧
        (cpSrcHost o.cmd = true → cpDstHost o.cmd = true → rangesMeet src n dst n = false →
          (∀ i, i < n → (slook s.hostMem (src + i)).isSome = true ∧ sget false s.hostPoison (src + i) = false) →
          ∃ u, ends u ∧
            (∀ a, slook u.hostMem a = slook s.hostMem (if dst ≤ a ∧ a < dst + n then src + (a - dst) else a)) ∧
            u = { answer s o.q o.tag okResult 0 with hostMem := u.hostMem, hostPoison := u.hostPoison })))) ∧
  (∀ (src dst n w : Nat) (l : List SrcWord), w % 8 = 0 → dst < w + 8 → w < dst + n →
    (∀ x ∈ srcOf src dst n w, ∃ p, l[x / 8 - src / 8]? = some (.word p)) →
    ∃ data mask poison, copyWord src dst n w l = .write data mask poison ∧
      (∀ i, i < 8 → mask.getLsbD i = decide (dst ≤ w + i ∧ w + i < dst + n)) ∧
      (∀ i, i < 8 → dst ≤ w + i → w + i < dst + n →
        let x := src + (w + i - dst)
        ∀ p, l[x / 8 - src / 8]? = some (.word p) → data.extractLsb' (8 * i) 8 = p.data.extractLsb' (8 * (x % 8)) 8) ∧
      (poison = true ↔ ∃ x ∈ srcOf src dst n w, ∃ p, l[x / 8 - src / 8]? = some (.word p) ∧ p.poison = true) ∧
      (∀ (s : State) (a : Nat), (copyStore s dst n w (.dpa a) (.write data mask poison)).1 = (writeWord s a data mask poison).1))

/-- R71 to R74; a MiB of a layer that failed its check counts as scrubbed by the model's choice (log entry 90). The
model's own choices too: the lowest-numbered free saddle entry (log entry 28), the sources of SADDLE_INSTALL,
FRAME_RETIRED and RETIRE_FULL (log entry 53), and how what waited comes back (log entry 86). -/
def Obligations.ScrubAndHardFaults : Prop :=
  (∀ (s : State) (m : Nat), ready s = true → memQuiet s = true → m < 2 ^ 17 → getB s F.MEM_SCRUB_CTRL_EN = true →
    mibMapped s m = true → s.scrubbed.contains m = false → expressAt s (m * 2 ^ 20) = false →
    let a := m * 2 ^ 20
    let pl := readLayer s (dpaLayer a) (dpaCol a) (dpaBank a)
    let pcol := getF s (F.MEM_COLMAP_PCOL (dpaCol a))
    let u := if colGone s (dpaCol a) ∨ s.layerDead.contains pl then s
      else (List.range 131072).foldl
        (fun s i => scrubWord s pl pcol (dpaBank a) (dpaByte a / 8 + i) (a + 8 * i))
        (wakeLayer { s with drones := sput 0 s.drones (8 + pl) s.time } pl)
    let t := { u with scrubbed := u.scrubbed ++ [m] }
    exec (.scrub m) s = .next (restLayers (
      if (List.range 131072).all (fun k => !mibMapped t k || t.scrubbed.contains k) then
        wrapF { t with scrubbed := [] } F.MEM_SCRUB_STATUS_PASSES 1
      else t))) ∧
  (∀ (s : State) (pl pcol bank w dpa : Nat), memQuiet s = true →
    let pw := physWord s pl pcol bank w
    (decodeWord (cwAt s pw) = .clean → scrubWord s pl pcol bank w dpa = s) ∧
    (∀ c, decodeWord (cwAt s pw) = .corrected c → scrubWord s pl pcol bank w dpa =
      cwPut (if (slook s.mem pw).isSome then incF s F.MEM_CE_CNT else s) pw c) ∧
    (decodeWord (cwAt s pw) = .uncorrectable →
      let t := scrubWord s pl pcol bank w dpa
      decodeWord (cwAt t pw) = .clean ∧ cwData (cwAt t pw) = cwData (cwAt s pw) ∧ cwPoison (cwAt t pw) = true ∧
      Raises s t 0x3002 sevError none 3 pcol 0 dpa ∧
      (devState s ≠ 0 → KeepsFields s t [F.MEM_UE_CNT.key]) ∧
      (∀ qw, qw ≠ pw → slook t.mem qw = slook s.mem qw) ∧
      t = { s with mem := t.mem, fields := t.fields, events := t.events })) ∧
  (∀ (s : State) (dpa : Nat), ready s = true → dpa < 2 ^ 37 → colGone s (dpaCol dpa) = false →
    let pcol := getF s (F.MEM_COLMAP_PCOL (dpaCol dpa))
    let bi := bankIndex (readLayer s (dpaLayer dpa) (dpaCol dpa) (dpaBank dpa)) pcol (dpaBank dpa)
    let free (e : Nat) : Prop := slook s.saddles (bi * 8 + e) = none ∧ slook s.saddleHolds (bi * 8 + e) = none
    (lineHeld s bi (dpaByte dpa / 64) = true → exec (.hardFault dpa) s = .next s) ∧
    (lineHeld s bi (dpaByte dpa / 64) = false →
      (∀ e, e < 8 → free e → (∀ x, x < e → ¬ free x) → exec (.hardFault dpa) s = .next
        { s with saddleHolds := sins s.saddleHolds (bi * 8 + e) { line := dpaByte dpa / 64, dpa := dpa } }) ∧
      ((∀ e, e < 8 → ¬ free e) →
        (∀ i, i < 256 → getF s (F.MEM_RETIRED_VALID i) = 0 → (∀ j, j < i → getF s (F.MEM_RETIRED_VALID j) ≠ 0) →
          exec (.hardFault dpa) s = .next (retirePage (Raised
            (setF (setB s (F.MEM_RETIRED_VALID i) true) (F.MEM_RETIRED_FRAME i) (dpa / 2 ^ 12 % 2 ^ 25))
            0x3004 sevWarn none 3 pcol 0 dpa) dpa)) ∧
        ((∀ i, i < 256 → getF s (F.MEM_RETIRED_VALID i) ≠ 0) →
          exec (.hardFault dpa) s = .next (Raised s 0x3005 sevError none 3 pcol 0 dpa))))) ∧
  (∀ (s : State) (player pcol bank e : Nat) (h : SaddleHold), ready s = true → player < 9 → pcol < 1224 → bank < 4 →
    let bi := bankIndex player pcol bank
    let spare (i : Nat) : Nat := bi * bankWords + 2 ^ 19 + 8 * e + i
    heldEntry s bi = some (e, h) →
    (s.layerRst = some player → exec (.saddleInstall player pcol bank) s = .next s) ∧
    (s.layerRst ≠ some player → Completes (.saddleInstall player pcol bank) s (fun t =>
      t.saddleHolds = sdel s.saddleHolds (bi * 8 + e) ∧
      (∃ d, t.saddles = sins s.saddles (bi * 8 + e) d ∧ d.line = h.line ∧ d.origin = true ∧
        (d.poisoned = true ↔ ∃ i, i < 8 ∧ cwPoison (cwAt t (spare i)) = true)) ∧
      (s.layerDead.contains player = false → ∀ i, i < 8 →
        match decodeWord (cwAt s (physWord s player pcol bank (8 * h.line + i))) with
        | .clean => cwAt t (spare i) = (let c := cwAt s (physWord s player pcol bank (8 * h.line + i))
            encodeWord (cwData c) (cwPoison c))
        | .corrected c => cwAt t (spare i) = encodeWord (cwData c) (cwPoison c)
        | .uncorrectable => cwPoison (cwAt t (spare i)) = true) ∧
      (∀ pw, (∀ i, i < 8 → pw ≠ spare i) → slook t.mem pw = slook s.mem pw) ∧
      (∃ evs, t.events.waiting = s.events.waiting ++ evs ++ [{
        time := s.time, famCode := 0x3003, sev := sevInfo, part := none, srcKind := 3, srcIndex := pcol, suppressed := 0, aux := 0, data := h.dpa }]) ∧
      (e < 8 → (∀ x, e < x → x < 8 → ∀ d, slook s.saddles (bi * 8 + x) = some d → d.line ≠ h.line) →
        ∀ i, i < 8 → physWord t player pcol bank (8 * h.line + i) = spare i) ∧
      t = { s with mem := t.mem, saddles := t.saddles, saddleHolds := t.saddleHolds, fields := t.fields,
                   events := t.events, freeCtr := t.freeCtr, pending := s.waiting ++ s.pending, waiting := [] })))

/-- R77 to R80, R81 and R82; a PLAYER of 9 to 15 is log entry 91, the sources of EVAC_REFUSED, EVAC_DONE and
LAYER_RESET_FAIL log entry 53, and the return of what waited log entry 86. -/
def Obligations.EvacuationAndLayerResets : Prop :=
  (
    (∀ (s : State) (v : BitVec 32), ready s = true →
      let st := getF s F.MEM_EVAC_STATUS_STATE
      let l := v.toNat % 8
      let named := setF s F.MEM_EVAC_CTRL_LLAYER l
      let may := (st = 0 ∨ st = 3) ∧ getF s F.MEM_SPARE_AVAIL ≠ 0
      let src := getF s (layerFld l)
      let dst := getF s F.MEM_SPARE_PHYS
      (v.toNat.testBit 8 = false → exec (.evacStart v) s = .next named) ∧
      (v.toNat.testBit 8 = true → may → Completes (.evacStart v) s (fun t =>
        getF t F.MEM_EVAC_STATUS_STATE = (if s.layerRst = some src ∨ s.layerRst = some dst then 2 else 1) ∧
        getF t F.MEM_EVAC_CTRL_LLAYER = l ∧ getF t F.MEM_EVAC_MARK_COLUMN = 0 ∧ getF t F.MEM_EVAC_MARK_BANK = 0 ∧
        getF t F.MEM_EVAC_MARK_LINE = 0 ∧
        KeepsFields s t [F.MEM_EVAC_CTRL_LLAYER.key, F.MEM_EVAC_STATUS_STATE.key, F.MEM_EVAC_MARK_COLUMN.key,
          F.MEM_EVAC_MARK_BANK.key, F.MEM_EVAC_MARK_LINE.key] ∧
        t = { s with fields := t.fields, evac := some { layer := l, src := src, dst := dst, copied := false } })) ∧
      (v.toNat.testBit 8 = true → ¬ may → exec (.evacStart v) s =
        .next (Raised (setB named F.MEM_EVAC_STATUS_REFUSED true) 0x3006 sevWarn none 0x23 0x300014 0
          (st + 4 + getF s F.MEM_EVAC_STATUS_UE_WORDS * 2 ^ 16)))) ∧
    (∀ (s : State) (e : Evac), ready s = true → memQuiet s = true → s.evac = some e → e.copied = false → e.layer < 8 →
      getF s F.MEM_EVAC_STATUS_STATE = 1 → expressAt s (markDpa s e) = false →
      let line := getF s F.MEM_EVAC_MARK_LINE
      let col := getF s F.MEM_EVAC_MARK_COLUMN
      let bank := getF s F.MEM_EVAC_MARK_BANK
      let pcol := getF s (F.MEM_COLMAP_PCOL col)
      let from_ (i : Nat) : Nat := physWord s e.src pcol bank (8 * line + i)
      let goal (i : Nat) : Nat := physWord s e.dst pcol bank (8 * line + i)
      Completes .evacLineCopy s (fun t =>
        (if line = 65535 then t.evac = some { e with copied := true } ∧ getF t F.MEM_EVAC_MARK_LINE = line
         else getF t F.MEM_EVAC_MARK_LINE = line + 1 ∧ t.evac = s.evac) ∧
        (colGone s col = false → e.src ≠ e.dst → s.layerDead.contains e.dst = false → s.layerDead.contains e.src = false →
          ∀ i, i < 8 → match decodeWord (cwAt s (from_ i)) with
            | .clean => cwAt t (goal i) = cwAt s (from_ i)
            | .corrected c => cwAt t (goal i) = c
            | .uncorrectable => cwAt t (goal i) = encodeWord (cwData (cwAt s (from_ i))) true) ∧
        (∀ pw, (∀ i, i < 8 → pw ≠ goal i) → slook t.mem pw = slook s.mem pw) ∧
        t.hostMem = s.hostMem ∧ t.cores = s.cores ∧ t.saddles = s.saddles)) ∧
    (∀ (s : State) (e : Evac), ready s = true → s.evac = some e → e.copied = true → getF s F.MEM_EVAC_STATUS_STATE = 1 →
      let col := getF s F.MEM_EVAC_MARK_COLUMN
      let bank := getF s F.MEM_EVAC_MARK_BANK
      (¬ (bank = 3 ∧ col = 1023) → Completes .evacBankSwitch s (fun t =>
        t = { s with fields := t.fields, evac := some { e with copied := false } } ∧
        KeepsFields s t [F.MEM_EVAC_MARK_COLUMN.key, F.MEM_EVAC_MARK_BANK.key, F.MEM_EVAC_MARK_LINE.key] ∧
        getF t F.MEM_EVAC_MARK_COLUMN = (4 * col + bank + 1) / 4 % 1024 ∧
        getF t F.MEM_EVAC_MARK_BANK = (4 * col + bank + 1) % 4 ∧ getF t F.MEM_EVAC_MARK_LINE = 0)) ∧
      (bank = 3 → col = 1023 → e.layer < 8 → e.src < 9 → e.dst < 9 → e.src ≠ e.dst → Completes .evacBankSwitch s (fun t =>
        t.evac = none ∧ getF t (layerFld e.layer) = e.dst ∧ getF t F.MEM_EVAC_STATUS_STATE = 3 ∧
        getF t F.MEM_SPARE_PHYS = e.src ∧ getF t F.MEM_SPARE_FAILED = e.src ∧ getF t F.MEM_SPARE_FAILED_VALID = 1 ∧
        getF t F.MEM_SPARE_AVAIL = 0 ∧ Raises s t 0x3008 sevInfo none 4 0 0 e.src ∧
        t = { s with evac := none, fields := t.fields, events := t.events, trace := t.trace })))) ∧
  (
    (∀ (s : State) (v : BitVec 32), ready s = true →
      let p := v.toNat % 16
      let may := v.toNat.testBit 8 = true ∧ getF s F.MEM_LRST_STATUS_BUSY = 0 ∧ p < 9
      (may → Completes (.layerReset v) s (fun t =>
        t.layerRst = some p ∧ getF t F.MEM_LRST_STATUS_BUSY = 1 ∧ getF t F.MEM_LRST_CTRL_PLAYER = p ∧
        getF t (layerSleepFld p) = 2 ∧ getScope t (8 + p) = .zero ∧
        (∀ e, s.evac = some e → e.src = p ∨ e.dst = p → getF s F.MEM_EVAC_STATUS_STATE = 1 →
          getF t F.MEM_EVAC_STATUS_STATE = 2) ∧
        t = { s with fields := t.fields, layerRst := t.layerRst, scopes := t.scopes, trace := t.trace })) ∧
      (¬ may → exec (.layerReset v) s = .next (setF s F.MEM_LRST_CTRL_PLAYER p))) ∧
    (∀ (s : State) (p : Nat) (pass : Bool), ready s = true → s.layerRst = some p →
      ∃ u : State,
        getF u F.MEM_LRST_STATUS_BUSY = 0 ∧ getF u F.MEM_LRST_STATUS_FAILED = (!pass).toNat ∧
        getF u F.MEM_LRST_STATUS_COUNT = Nat.min (getF s F.MEM_LRST_STATUS_COUNT + 1) 65535 ∧
        KeepsFields s u [F.MEM_LRST_STATUS_BUSY.key, F.MEM_LRST_STATUS_FAILED.key, F.MEM_LRST_STATUS_COUNT.key,
          F.MEM_EVAC_STATUS_STATE.key] ∧
        u = { s with fields := u.fields, layerRst := none } ∧
        (∀ e, s.evac = some e → e.src = p ∨ e.dst = p → getF s F.MEM_EVAC_STATUS_STATE = 2 →
          getF u F.MEM_EVAC_STATUS_STATE = 1) ∧
        (let w : State := { recompute u (8 + p) with pending := s.waiting ++ s.pending, waiting := [] }
         exec (.layerResetDone pass) s = .next (if pass then w
           else Raised { w with layerDead := p :: s.layerDead.filter (· != p) } 0x3009 sevError none 4 0 0 p))))

/-- R83, R85 to R88 and R90: one level of the walk, the walk, the cache, permissions, and reads of bytes. A leaf in
an unaligned slot is log entry 87; an entry that is no KV leaf of the page size is log entry 45. A cached address that counts no walk is the
model's choice, log entry 110. -/
def Obligations.AddressTranslation : Prop :=
  (∀ (s : State) (ctx va : Nat),
    (getF s (F.MMU_CTX_VALID ctx) = 0 → walk s ctx va = (s, .error .ctxInvalid)) ∧
    (getF s (F.MMU_CTX_VALID ctx) ≠ 0 → 2 ^ 52 ≤ va → walk s ctx va = (s, .error .notMapped)) ∧
    (getF s (F.MMU_CTX_VALID ctx) ≠ 0 → va < 2 ^ 52 →
      walk s ctx va = walkFrom s (getF s (F.MMU_CTX_ROOT ctx) * 2 ^ 13) va [3, 2, 1, 0])) ∧
  (∀ (s u : State) (t va lvl : Nat) (rest : List Nat),
    (∀ f, walkLevel s t lvl va = (u, .fault f) → walkFrom s t va (lvl :: rest) = (u, .error f)) ∧
    (∀ e, walkLevel s t lvl va = (u, .leaf e) → walkFrom s t va (lvl :: rest) = (u, .ok e)) ∧
    (∀ n, walkLevel s t lvl va = (u, .table n) → walkFrom s t va (lvl :: rest) = walkFrom u n va rest)) ∧
  (∀ (s u : State) (a : Nat),
    (dpaValid a = false → readPte s a = (s, .error .badEntry)) ∧
    (dpaValid a = true → readWord s (toLocal a) = (u, none) → readPte s a = (u, .error .fenced)) ∧
    (∀ w, dpaValid a = true → readWord s (toLocal a) = (u, some w) →
      readPte s a = (u, if w.poison then .error .tablePoison else .ok w.data.toNat))) ∧
  (∀ (s u : State) (t lvl va e : Nat), lvl < 4 → e < 2 ^ 64 →
    let i := va / 2 ^ (12 + 10 * lvl) % 2 ^ 10
    let sz (e : Nat) := e / 2 ^ 6 % 2 ^ 5
    let frame (e : Nat) := e / 2 ^ 12 % 2 ^ 28 * 2 ^ 12
    let leaf (e : Nat) : Prop := e < 2 ^ 40 ∧ e / 2 ^ 5 % 2 = 0 ∧ e / 2 ^ 11 % 2 = 0 ∧ lvl ≤ 1 ∧ 10 * lvl ≤ sz e ∧
      sz e ≤ 10 * lvl + 9 ∧ sz e ≤ 18 ∧ frame e % 2 ^ (12 + sz e) = 0 ∧ dpaValid (frame e) = true ∧
      (e / 2 ^ 4 % 2 = 1 → frame e < 2 ^ 37 ∧ sz e ≤ 10)
    let k := e / 4 % 16
    (∀ f, readPte s (t + 8 * i) = (u, .error f) → walkLevel s t lvl va = (u, .fault f)) ∧
    (readPte s (t + 8 * i) = (u, .ok e) →
      (e % 4 = 0 → walkLevel s t lvl va = (u, .fault .notMapped)) ∧
      (e % 4 = 1 → lvl ≠ 0 → e < 2 ^ 40 → e / 4 % 2 ^ 11 = 0 →
        walkLevel s t lvl va = (u, .table (e / 2 ^ 13 % 2 ^ 27 * 2 ^ 13))) ∧
      (e % 4 = 1 → ¬ (lvl ≠ 0 ∧ e < 2 ^ 40 ∧ e / 4 % 2 ^ 11 = 0) → walkLevel s t lvl va = (u, .fault .badEntry)) ∧
      (e % 4 = 2 → leaf e → walkLevel s t lvl va = (u, .leaf e)) ∧
      (e % 4 = 2 → ¬ leaf e → walkLevel s t lvl va = (u, .fault .badEntry)) ∧
      (e % 4 = 3 → ¬ (e < 2 ^ 6 ∧ lvl ≤ 1 ∧ k ≠ 0) → walkLevel s t lvl va = (u, .fault .badEntry)) ∧
      (e % 4 = 3 → e < 2 ^ 6 → lvl ≤ 1 → k ≠ 0 → ∀ v,
        (∀ f, readPte u (t + 8 * (i / 2 ^ k * 2 ^ k)) = (v, .error f) → walkLevel s t lvl va = (v, .fault f)) ∧
        (∀ h, readPte u (t + 8 * (i / 2 ^ k * 2 ^ k)) = (v, .ok h) →
          (h % 4 = 2 → sz h = k + 10 * lvl → leaf h → walkLevel s t lvl va = (v, .leaf h)) ∧
          (¬ (h % 4 = 2 ∧ sz h = k + 10 * lvl ∧ leaf h) → walkLevel s t lvl va = (v, .fault .badEntry)))))) ∧
  (∀ (s u : State) (ctx va e : Nat) (a : Access),
    let allows : Prop := match a with
      | .read | .engine => e.testBit 2 = true
      | .write => e.testBit 3 = true ∧ e.testBit 4 = false
      | .kv => e.testBit 4 = true ∧ e.testBit 2 = true
    let at_ := toLocal (e / 2 ^ 12 % 2 ^ 28 * 2 ^ 12 + va % 2 ^ (12 + e / 2 ^ 6 % 2 ^ 5))
    OnlyFields s (countWalk s ctx va) ((F.CNT (getF s (F.MMU_CTX_PART ctx)) 22).key :: (F.DBG_CNT_DEV 22).key ::
      (List.range 64).map (fun l => (F.DBG_CNT_LC l 22).key)) ∧
    (tlbFind s ctx va = none →
      (∀ f, walk (countWalk s ctx va) ctx va = (u, .error f) →
        translate s ctx va a = ((if f = .fenced then u else incF u F.MMU_FAULT_CNT), .error f)) ∧
      (walk (countWalk s ctx va) ctx va = (u, .ok e) →
        (allows → translate s ctx va a = (tlbFill u ctx va e, .ok at_)) ∧
        (¬ allows → ∃ f, translate s ctx va a = (incF (tlbFill u ctx va e) F.MMU_FAULT_CNT, .error f) ∧
          f = (match a with
            | .read | .engine => .readDenied
            | .write => .writeDenied
            | .kv => if e.testBit 4 then .readDenied else .notKv)))) ∧
    (∀ t, tlbFind s ctx va = some t → walk s ctx va = (u, .ok e) →
      (t.leaf.toNat = e → lookupLeaf s ctx va = (u, .ok e)) ∧
      (t.leaf.toNat ≠ e → getF s (F.MMU_CTX_VALID ctx) ≠ 0 →
        lookupLeaf s ctx va = (drawn u, .ok e) ∨ lookupLeaf s ctx va = (drawn s, .ok t.leaf.toNat)))) ∧
  (∀ (s u v : State) (ctx va : Nat) (a : Access),
    (∀ f, translate s ctx va a = (u, .error f) → vread s ctx va a = (u, .fail f va)) ∧
    (∀ dpa, translate s ctx va .read = (u, .ok dpa) →
      (readWord u (dpa / 8 * 8) = (v, none) → vread s ctx va .read = (v, .fail .fenced va)) ∧
      (∀ w, readWord u (dpa / 8 * 8) = (v, some w) → rewritten v (dpa / 8 * 8) = 0 →
        vread s ctx va .read = (countVa v 22 ctx dpa, .word w)))) ∧
  (∀ (s u v : State) (ctx va n w : Nat) (a : Access) (rest : List Nat),
    vreadWords s ctx va a [] = (s, [], none) ∧
    (∀ f x, vread s ctx (firstByte va w) a = (u, .fail f x) → vreadWords s ctx va a (w :: rest) = (u, [], some (xResult f x))) ∧
    (∀ p l r, vread s ctx (firstByte va w) a = (u, .word p) → vreadWords u ctx va a rest = (v, l, r) →
      vreadWords s ctx va a (w :: rest) = (v, p :: l, r)) ∧
    (∀ ws, vreadWords s ctx va a (wordAddrs va n) = (u, ws, none) → 
      ∃ bytes, vreadBytes s ctx va n a = (u, { bytes := bytes, poison := ws.any (·.poison), fail := none }) ∧
        ∀ i, i < n → bytes[i]? = (ws[(va + i) / 8 - va / 8]?).map (fun p => p.data.extractLsb' (8 * ((va + i) % 8)) 8))) ∧
  (∀ (s : State) (ctx va n : Nat) (a : Access),
    checkRange s ctx va 0 a = (s, none) ∧
    (n ≠ 0 → (va + n - 1) / 4096 = va / 4096 →
      (∀ u f, translate s ctx va a = (u, .error f) → checkRange s ctx va n a = (u, some (xResult f va))) ∧
      (∀ u dpa, translate s ctx va a = (u, .ok dpa) →
        checkRange s ctx va n a = (u, if colGone u (dpaCol dpa) then some (xResult .fenced va) else none)))) ∧
  (∀ (s u v : State) (e : Seq) (i a w : Nat) (rest : List Nat),
    (slotAt s e.ctx (e.va i) e.pageLog2 = (u, .ok a) → readPte u a = (v, .ok w) → w < 2 ^ 64 →
      let holds : Prop := w % 4 = 2 ∧ pteReserved w = false ∧ w / 2 ^ 6 % 2 ^ 5 + 12 = e.pageLog2 ∧ w.testBit 4 = true ∧
        leafOk (if e.pageLog2 < 22 then 0 else 1) w = true
      (holds → slotOf s e i = (v, .ok { slot := a, page := some (w / 2 ^ 12 % 2 ^ 28 * 2 ^ 12) })) ∧
      (¬ holds → slotOf s e i = (v, .ok { slot := a, page := none }))) ∧
    slotsOf s e [] = (s, .ok []) ∧
    (∀ f, slotOf (countSlot s e i) e i = (u, .error f) → slotsOf s e (i :: rest) = (u, .error (f, e.va i))) ∧
    (∀ x l, slotOf (countSlot s e i) e i = (u, .ok x) → slotsOf u e rest = (v, .ok l) → slotsOf s e (i :: rest) = (v, .ok ((i, x) :: l))))

/-- R88, R89 and R93; a write while BUSY is log entry 21, a LOG2LEN above 18 log entry 85, what the region holds log
entry 106. -/
def Obligations.InvalidationAndGrants : Prop :=
  (∀ (s : State) (v : BitVec 64), ready s = true →
    let x := v.toNat
    let keys := [F.MMU_INVAL_CTX.key, F.MMU_INVAL_ALL.key, F.MMU_INVAL_LOG2LEN.key, F.MMU_INVAL_VA.key]
    Completes (.mmuInval v) s (fun t =>
      getF t F.MMU_INVAL_CTX = x % 2 ^ 12 ∧ getF t F.MMU_INVAL_ALL = x / 2 ^ 12 % 2 ∧
      getF t F.MMU_INVAL_LOG2LEN = x / 2 ^ 13 % 2 ^ 5 ∧ getF t F.MMU_INVAL_VA = x / 2 ^ 18 ∧
      (getF s F.MMU_INVAL_STATUS_BUSY = 1 → OnlyFields s t keys) ∧
      (getF s F.MMU_INVAL_STATUS_BUSY = 0 → getF t F.MMU_INVAL_STATUS_BUSY = 1 ∧
        KeepsFields s t (F.MMU_INVAL_STATUS_BUSY.key :: keys) ∧
        t = { s with fields := t.fields,
                     inval := some { ctx := x % 2 ^ 12, all := x.testBit 12, va := x / 2 ^ 18 * 64,
                                     len := 2 ^ (12 + Nat.min 18 (x / 2 ^ 13 % 2 ^ 5)) } }))) ∧
  (∀ (s : State) (iv : Inval), ready s = true → s.inval = some iv →
    Completes .mmuInvalDone s (fun t => getF t F.MMU_INVAL_STATUS_BUSY = 0 ∧
      KeepsFields s t [F.MMU_INVAL_STATUS_BUSY.key] ∧
      (∀ e, e ∈ t.tlb ↔ e ∈ s.tlb ∧ ¬ (e.ctx = iv.ctx ∧ (iv.all = true ∨ (e.va < iv.va + iv.len ∧ iv.va < e.va + 2 ^ e.size)))) ∧
      t = { s with fields := t.fields, inval := none, tlb := t.tlb })) ∧
  (∀ (s : State) (v : BitVec 64), ready s = true →
    let x := v.toNat
    let g : Grant := { part := x / 2 ^ 27 % 16, layer := x / 2 ^ 24 % 8, colLo := x % 2 ^ 10,
                       colHi := x / 2 ^ 10 % 2 ^ 10, banks := BitVec.ofNat 4 (x / 2 ^ 20 % 16),
                       lo := getF s F.MMU_POOL_GRANT0_BYTE_LO, hi := getF s F.MMU_POOL_GRANT0_BYTE_HI,
                       log2 := getF s (F.MMU_PART_KV_PAGE_LOG2 (x / 2 ^ 27 % 16)) }
    Completes (.poolGrant v) s (fun t =>
      let keys := [F.MMU_POOL_GRANT1_COL_LO.key, F.MMU_POOL_GRANT1_COL_HI.key, F.MMU_POOL_GRANT1_BANK_MASK.key,
        F.MMU_POOL_GRANT1_LAYER.key, F.MMU_POOL_GRANT1_PART.key]
      getF t F.MMU_POOL_GRANT1_COL_LO = g.colLo ∧ getF t F.MMU_POOL_GRANT1_COL_HI = g.colHi ∧
      getF t F.MMU_POOL_GRANT1_BANK_MASK = x / 2 ^ 20 % 16 ∧ getF t F.MMU_POOL_GRANT1_LAYER = g.layer ∧
      getF t F.MMU_POOL_GRANT1_PART = g.part ∧
      (x.testBit 31 = false ∨ grantEmpty g = true → OnlyFields s t keys) ∧
      (x.testBit 31 = true → grantEmpty g = false →
        (grantRefused s g = false → ∃ u, OnlyFields s u keys ∧ t = tablesOut u { u with grants := s.grants ++ [g] } 0 ∧
          t.grants = s.grants ++ [g]) ∧
        (grantRefused s g = true → getF t F.MMU_POOL_STATUS_GRANT_ERR = 1 ∧
          OnlyFields s t (F.MMU_POOL_STATUS_GRANT_ERR.key :: keys)))))

/-- R22, R42, R92 and R100, for the commands that name a sequence. -/
def Obligations.PageCommandChecks : Prop :=
  (∀ (s : State) (q tag : Nat) (o : OpenCmd) (i : Instr) (op : Nat) (fieldsOk : Bool), ready s = true → q < 1024 →
    memQuiet s = true → toBegin s q tag op = some o →
    (i, op, fieldsOk) ∈ [(Instr.append q tag, 0x21, appendFields o.cmd), (.prefixLookup q tag, 0x22, lookupFields o.cmd 0),
      (.prefixInsert q tag, 0x23, lookupFields o.cmd 1), (.migrate q tag, 0x24, migrateFields o.cmd),
      (.release q tag, 0x25, releaseFields o.cmd), (.seqDestroy q tag, 0x26, decide (cmdField o.cmd 34 30 = 0))] →
    let n := cmdField o.cmd 32 2
    let ends (t : State) : Prop := exec i s = .next (restLayers t)
    let same (t : State) : Prop := (t.seqs = s.seqs ∧ t.nodes = s.nodes ∧ t.pages = s.pages ∧ t.grants = s.grants) ∧ ends t
    (earlierOnSeq s o = true → ends s) ∧
    (earlierOnSeq s o = false → getF s F.MMU_POOL_STATUS_PE_OFF = 1 → ends (answer s q tag (codeResult stNotReady 0) 0)) ∧
    (earlierOnSeq s o = false → getF s F.MMU_POOL_STATUS_PE_OFF = 0 → fieldsOk = false →
      same (answer s o.q o.tag (codeResult stInvalid 0x0306) 0)) ∧
    (earlierOnSeq s o = false → getF s F.MMU_POOL_STATUS_PE_OFF = 0 → fieldsOk = true →
      (slook s.seqs n = none → same (answer s o.q o.tag (codeResult stInvalid 0x0300) 0)) ∧
      (∀ e, slook s.seqs n = some e → e.part ≠ partOf s o.q → same (deny s o.q o.tag)) ∧
      (∀ e, slook s.seqs n = some e → e.part = partOf s o.q → getF s (F.MMU_CTX_VALID e.ctx) = 1 →
        getF s (F.MMU_CTX_PART e.ctx) ≠ e.part → same (answer s o.q o.tag { status := stPermission, sub := 0, detail := 0 } 0)))) ∧
  (∀ (s : State) (q tag : Nat), deny s q tag = answer (countOp s (partOf s q) 31 1) q tag
    { status := stPermission, sub := 0, detail := 0, noSig := true } 0)

/-- R95 to R98, for sequences without summaries; when an invalid context is found is log entry 46.
What the region of memory then holds of the tables (`tablesOut`) is log entry 106. -/
def Obligations.SequencesAreCreatedAndExtended : Prop :=
  (∀ (s : State) (q tag n : Nat) (o : OpenCmd), ready s = true → memQuiet s = true → q < 1024 →
    toBegin s q tag 0x20 = some o →
    earlierOnSeq s o = false → getF s F.MMU_POOL_STATUS_PE_OFF = 0 → createFields o.cmd = true →
    (cmdField o.cmd 34 1).testBit 0 = false → (cmdField o.cmd 34 1).testBit 1 = false →
    layoutOk (createEntry s o none) = true →
    foreignCtx s o.q (createEntry s o none).ctx = false → freeSeq s = some n →
    (getF s (F.MMU_CTX_VALID (createEntry s o none).ctx) = 1 → ∃ u, exec (.seqCreate q tag) s = .next (restLayers u) ∧
      (createEntry s o none).pos = 0 ∧ slook s.seqs n = none ∧ (∀ i, i < n → slook s.seqs i ≠ none) ∧
      u = tablesOut s (answer (countOp { s with seqs := sins s.seqs n (createEntry s o none) } (partOf s q) 27 0)
        q tag okResult n) (partOf s q) ∧ u.seqs = sins s.seqs n (createEntry s o none)) ∧
    (getF s (F.MMU_CTX_VALID (createEntry s o none).ctx) = 0 → exec (.seqCreate q tag) s = .next (restLayers
      (answer (incF s F.MMU_FAULT_CNT) o.q o.tag { status := stXlate, sub := 0x0205, detail := (createEntry s o none).base } 0)))) ∧
  (∀ (s s1 s2 s3 : State) (q tag : Nat) (o : OpenCmd) (e : Seq) (l : List (Nat × SlotInfo)) (pages : List Nat),
    ready s = true → memQuiet s = true → q < 1024 → toBegin s q tag 0x21 = some o →
    earlierOnSeq s o = false → getF s F.MMU_POOL_STATUS_PE_OFF = 0 → appendFields o.cmd = true →
    slook s.seqs (cSeq o.cmd) = some e → e.part = partOf s o.q → ctxForeign s e.part e.ctx = false →
    foreignCtx s q (cSrcCtx o.cmd) = false →
    e.pos + cN o.cmd ≤ e.maxTokens → cLayer o.cmd < e.layers →
    (cN o.cmd = 0 → getF s (F.MMU_CTX_VALID (cSrcCtx o.cmd)) = 0 → exec (.append q tag) s =
      .next (restLayers (answer (drawn (incF s F.MMU_FAULT_CNT)) q tag
        { status := stXlate, sub := 0x0205, detail := (Config.freeWord s.freeCtr).toNat } 0))) ∧
    (cN o.cmd ≠ 0 ∨ getF s (F.MMU_CTX_VALID (cSrcCtx o.cmd)) ≠ 0 → e.sumEn = false →
      slotsOf s e (appendIdx e (cLayer o.cmd) (cN o.cmd)) = (s1, .ok l) →
      let need := (l.filter (fun x => needsPage s1 x.2)).length
      let bytes := cN o.cmd * e.heads * 4 * e.d
      (takeMany (fun s => takePage s e.part) need s1 = none →
        exec (.append q tag) s = .next (restLayers (answer s1 o.q o.tag (codeResult stPageExhausted 0) 0))) ∧
      (takeMany (fun s => takePage s e.part) need s1 = some (s2, pages) →
        checkRange s1 (cSrcCtx o.cmd) (cSrc o.cmd) bytes .read = (s3, none) →
        let r := vreadBytes s3 (cSrcCtx o.cmd) (cSrc o.cmd) bytes .read
        r.2.fail = none → r.2.poison = false → (halves r.2.bytes).any (fun h => nonfinite (decBF16 h)) = false →
        let u := countOp { r.1 with pages := s2.pages, poolLast := s2.poolLast } e.part 26 pages.length
        exec (.append q tag) s =
          .next (restLayers (tablesOut s (appendNow u o (cSeq o.cmd) e l pages (halves r.2.bytes)) e.part)) ∧
        let placed := placePages u e (l.filter (fun x => needsPage u x.2)) pages
        let written := writeRecords placed.1 e (cLayer o.cmd) (halves r.2.bytes) (cN o.cmd)
        let pos := if (cmdField o.cmd 35 1).testBit 0 then e.pos + cN o.cmd else e.pos
        (placed.2 = false → written.2 = none →
          appendNow u o (cSeq o.cmd) e l pages (halves r.2.bytes) =
            answer { written.1 with seqs := sins written.1.seqs (cSeq o.cmd) { e with pos := pos } } o.q o.tag okResult pos))))

/-- R103 and R104; `matchBlocks` and `insertBlocks` walk the tree of R101 and R102. What the region of memory then
holds of the tables (`tablesOut`) is log entry 106. -/
def Obligations.PrefixCommands : Prop :=
  (∀ (s s1 : State) (q tag op : Nat) (o : OpenCmd) (e : Seq), ready s = true → memQuiet s = true → q < 1024 →
    toBegin s q tag op = some o → earlierOnSeq s o = false → getF s F.MMU_POOL_STATUS_PE_OFF = 0 →
    slook s.seqs (cSeq o.cmd) = some e → e.part = partOf s o.q → ctxForeign s e.part e.ctx = false →
    foreignCtx s q (cSrcCtx o.cmd) = false → e.sumEn = false →
    let blocks := cN o.cmd / e.p
    (4 * e.p * blocks = 0 → getF s (F.MMU_CTX_VALID (cSrcCtx o.cmd)) ≠ 0) →
    checkRange s (cSrcCtx o.cmd) (cSrc o.cmd) (4 * e.p * blocks) .read = (s1, none) →
    let r := vreadBytes s1 (cSrcCtx o.cmd) (cSrc o.cmd) (4 * e.p * blocks) .read
    r.2.fail = none → r.2.poison = false →
    let hashes := blockHashes r.1 e r.2.bytes blocks 0
    (op = 0x22 → lookupFields o.cmd 0 = true → e.pos = 0 → cN o.cmd ≤ e.maxTokens →
      let hits := matchBlocks r.1 e none hashes
      let pages := hitPages r.1 e hits
      (hits = [] → exec (.prefixLookup q tag) s =
        .next (restLayers (answer (countOp r.1 e.part 27 0) o.q o.tag okResult 0))) ∧
      (∀ s2 slots, sharesFull r.1 (pages.map (·.2)) = false → slotsOf r.1 e (pages.map (·.1)) = (s2, .ok slots) →
        exec (.prefixLookup q tag) s =
          .next (restLayers (tablesOut s (lookupNow s2 o (cSeq o.cmd) e hits slots pages) e.part)) ∧
        (∀ b, hits.getLast? = some b →
          let m := countOp (mapShared s2 e slots pages) e.part 27 pages.length
          let u := setNode m (cSeq o.cmd) e (some b)
          lookupNow s2 o (cSeq o.cmd) e hits slots pages =
            answer { u with seqs := sins u.seqs (cSeq o.cmd) { e with node := some b, pos := e.p * hits.length } }
              o.q o.tag okResult (e.p * hits.length)))) ∧
    (op = 0x23 → lookupFields o.cmd 1 = true → cN o.cmd ≤ e.pos →
      let idx := (List.range (e.layers * e.heads)).flatMap (fun i => (List.range blocks).map (fun b => i * e.nblk + b))
      ∀ s2 slots vecs, slotsOf r.1 e idx = (s2, .ok slots) → (List.range blocks).mapM (blockPages e slots) = some vecs →
        (∀ s3 made b, insertBlocks s2 e ((cmdField o.cmd 35 1).testBit 0) 0 none
            ((blockHashes s2 e r.2.bytes blocks 0).zip vecs.zipIdx) = some (s3, made, some b) →
          exec (.prefixInsert q tag) s =
            .next (restLayers (tablesOut s
              (answer (setNode s3 (cSeq o.cmd) e (some b)) o.q o.tag okResult (made + b * 2 ^ 32)) e.part))) ∧
        (insertBlocks s2 e ((cmdField o.cmd 35 1).testBit 0) 0 none
            ((blockHashes s2 e r.2.bytes blocks 0).zip vecs.zipIdx) = none →
          exec (.prefixInsert q tag) s = .next (restLayers (answer s2 o.q o.tag (codeResult stTableFull 0) 0))))) ∧
  (∀ (s : State) (e : Seq) (parent : Option Nat) (h : DWord) (rest : List DWord),
    matchBlocks s e parent [] = [] ∧
    (∀ b, findNode s e h parent = some b → matchBlocks s e parent (h :: rest) = b :: matchBlocks s e (some b) rest ∧
      ∃ n, slook s.nodes b = some n ∧ n.hash = h ∧ n.parent = parent ∧ n.layout = e.layoutWord ∧ n.domain = e.domain) ∧
    (findNode s e h parent = none → matchBlocks s e parent (h :: rest) = []))

/-- R99, R105, R109 and R110. R111, with what log entry 57 settles of steering. What
the region of memory then holds of the tables (`tablesOut`) is log entry 106. -/
def Obligations.PagesMoveAndReturn : Prop :=
  (
    (∀ (s s1 : State) (q tag op : Nat) (o : OpenCmd) (e : Seq) (slots : List (Nat × SlotInfo)), ready s = true → memQuiet s = true → q < 1024 →
      toBegin s q tag op = some o → earlierOnSeq s o = false → getF s F.MMU_POOL_STATUS_PE_OFF = 0 →
      slook s.seqs (cSeq o.cmd) = some e → e.part = partOf s o.q → ctxForeign s e.part e.ctx = false →
      let mapped := (slots.filterMap (fun x => x.2.page)).length
      (op = 0x24 → migrateFields o.cmd = true → cLayer o.cmd < e.layers → cN o.cmd + cmdField o.cmd 40 4 ≤ e.nblk →
        cmdField o.cmd 35 1 ≤ 7 ∨ cmdField o.cmd 35 1 = 0xFF → slotsOf s e (migrateIdx e o.cmd) = (s1, .ok slots) →
        let move := slots.filter (fun x => (movable s1 e x.1 x.2).isSome)
        let pick (s : State) := if cmdField o.cmd 35 1 = 0xFF then takePage s e.part else takeFrom s e.part (cmdField o.cmd 35 1)
        ∀ s2 pages, takeMany pick move.length s1 = some (s2, pages) →
          exec (.migrate q tag) s =
            .next (restLayers (tablesOut s (answer (movePages s2 e move pages) o.q o.tag okResult move.length) e.part))) ∧
      (op = 0x25 → releaseFields o.cmd = true → (cmdField o.cmd 35 1).testBit 0 = false → cN o.cmd ≤ e.pos →
        slotsOf s e ((List.range e.pageCount).filter (fun i => decide (cN o.cmd ≤ e.block i * e.p))) = (s1, .ok slots) →
        let e' := { e with pos := cN o.cmd }
        exec (.release q tag) s = .next (restLayers (tablesOut s
          (answer (releaseRef (unmapAll { s1 with seqs := sins s1.seqs (cSeq o.cmd) e' } e slots) (cSeq o.cmd) e'
            (cN o.cmd)) o.q o.tag okResult mapped) e.part))) ∧
      (op = 0x25 → releaseFields o.cmd = true → (cmdField o.cmd 35 1).testBit 0 = true →
        ∀ n, slook s.nodes (cmdField o.cmd 40 4) = some n → n.hold = true →
          exec (.release q tag) s = .next (restLayers (tablesOut s (answer
            (dropRef { s with nodes := sins s.nodes (cmdField o.cmd 40 4) { n with hold := false } } (some (cmdField o.cmd 40 4)))
            o.q o.tag okResult 0) e.part))) ∧
      (op = 0x26 → cmdField o.cmd 34 30 = 0 → slotsOf s e (List.range e.pageCount) = (s1, .ok slots) →
        let u := unmapAll s1 e slots
        exec (.seqDestroy q tag) s =
          .next (restLayers (tablesOut s
            (answer (dropRef { u with seqs := sdel u.seqs (cSeq o.cmd) } e.node) o.q o.tag okResult mapped) e.part)))) ∧
    (∀ (s : State) (n : Nat) (u : PageUse), ready s = true → memQuiet s = true → n < 2 ^ 23 → slook s.pages n = some u →
      let may := u.refs = 0 ∧ u.quarantined = false ∧ ∃ l, u.returning = some l ∧ ∀ o ∈ s.open_, (o.q, o.abs) ∉ l
      let part := match pageOfDpa s (n * 2 ^ 14) with | some (g, _) => g.part | none => 0
      (may → u.withhold = false →
        exec (.pageReturn n) s = .next (restLayers (tablesOut s { s with pages := sdel s.pages n } part))) ∧
      (may → u.withhold = true → exec (.pageReturn n) s = .next (restLayers (tablesOut s (incF { s with
        pages := sins s.pages n { refs := 0, withhold := true, quarantined := true, returning := none } } F.MMU_QUAR_CNT)
        part))) ∧
      (¬ may → exec (.pageReturn n) s = .next (restLayers s)))) ∧
  (
    (∀ (s : State) (n i : Nat), ready s = true → memQuiet s = true → n < 65536 →
      getF s F.MMU_STEER_CTRL_EN = 0 ∨ getF s F.MMU_STEER_CTRL_RATE ≤ (steeredNow s).length → exec (.thermalSteering n i) s = .next (restLayers s)) ∧
    (∀ (s s1 : State) (n i p : Nat) (e : Seq) (x : SlotInfo), ready s = true → memQuiet s = true → n < 65536 →
      getF s F.MMU_STEER_CTRL_EN = 1 → (steeredNow s).length < getF s F.MMU_STEER_CTRL_RATE → slook s.seqs n = some e → i < e.pageCount →
      slotOf (countSlot s e i) e i = (s1, .ok x) → movable s1 e i x = some p → layerHot s1 (dpaLayer p) = true →
      (∀ l s2 new, coolest s1 e.part = some l → takeFrom s1 e.part l = some (s2, new) →
        exec (.thermalSteering n i) s =
          .next (restLayers (tablesOut s1 { movePage s2 e i x.slot p new with steered := s1.time :: steeredNow s1 } e.part))) ∧
      (coolest s1 e.part = none → exec (.thermalSteering n i) s = .next (restLayers s1))) ∧
    (∀ (s : State) (p l : Nat), coolest s p = some l → l < 8 ∧ layerHot s l = false ∧ poolFree s p l ≠ 0 ∧
      ∀ m, m < 8 → layerHot s m = false → poolFree s p m ≠ 0 → layerTemp s l ≤ layerTemp s m))

/-- R115 to R118, R127 and R128; R22 and R38 for what fails. The order of the checks is log entry 29. -/
def Obligations.AttendCommands : Prop :=
  (∀ (s : State) (q tag op : Nat) (o : OpenCmd) (i : Instr), ready s = true → memQuiet s = true → q < 1024 →
    toBegin s q tag op = some o →
    (i, op) ∈ [(Instr.attend q tag, 0x10), (.select q tag, 0x11), (.attendSelected q tag, 0x12)] →
    let ends (t : State) : Prop := exec i s = .next (restLayers t)
    let bad (t : State) (sub : Nat) : State := answer t o.q o.tag (codeResult stInvalid sub) 0
    (o.fretOn = false → ends (answer s q tag (codeResult stNotReady 0) 0)) ∧
    (o.fretOn = true → attendFields o.cmd = false → ends (bad s 0x0402)) ∧
    (o.fretOn = true → attendFields o.cmd = true →
      (o.entry = none → ends (bad s 0x0400)) ∧
      (∀ e, o.entry = some e →
        (e.part ≠ partOf s q ∨ foreignCtx s q (atCtx o.cmd) = true → ends (deny s q tag)) ∧
        (e.part = partOf s q → foreignCtx s q (atCtx o.cmd) = false →
        (attendRange e o.cmd = false → ends (bad s 0x0401)) ∧
        (attendRange e o.cmd = true → op = 0x11 → e.sumEn = false → ends (bad s 0x0403)) ∧
        (attendRange e o.cmd = true → (op = 0x11 → e.sumEn = true) →
          (coreAbsent s (atCore o.cmd) = true → ends (answer s q tag (plainResult stFenced) 0)) ∧
          (coreAbsent s (atCore o.cmd) = false →
            let r := vreadBytes s (atCtx o.cmd) (atQdesc o.cmd) (qLen e o.cmd) .read
            let a := attendOf o e r.2.bytes
            let sel := word64 r.2.bytes 16
            (∀ f, r.2.fail = some f → ends (answer r.1 o.q o.tag f 0)) ∧
            (r.2.fail = none → r.2.poison = true → ends (answer r.1 o.q o.tag (codeResult stUe 0) 0)) ∧
            (r.2.fail = none → r.2.poison = false → descFields a.headCount a.nq r.2.bytes = false → ends (bad r.1 0x0402)) ∧
            (r.2.fail = none → r.2.poison = false → descFields a.headCount a.nq r.2.bytes = true → attendParam a = true →
              ends (bad r.1 0x0404)) ∧
            (r.2.fail = none → r.2.poison = false → descFields a.headCount a.nq r.2.bytes = true → attendParam a = false →
            (op = 0x10 → ends (attendIssue r.1 o a (fun _ _ => true))) ∧
            (op = 0x12 → ends (withLists r.1 o a sel []
              (fun s lists => attendIssue s o a (listedIn lists)) (headsOf a))) ∧
            (op = 0x11 →
              (∀ t f, selectHeads r.1 o a (cmdField o.cmd 60 2) (cmdField o.cmd 62 2) [] (headsOf a) = (t, .error f) →
                ends (answer (selectFail t a sel f) q tag f 0)) ∧
              (∀ t lists, selectHeads r.1 o a (cmdField o.cmd 60 2) (cmdField o.cmd 62 2) [] (headsOf a)
                  = (t, .ok lists) →
                let w := writeLists t a sel lists
                (w.2 = none → ends (answer w.1 o.q o.tag okResult
                  (a.headCount * (fullBlocks a).length + (lists.map (fun x => x.2.length)).sum * 2 ^ 32))) ∧
                (∀ f, w.2 = some f → ends (answer w.1 o.q o.tag f 0))))))))))) ∧
  (∀ (s : State) (o : OpenCmd) (a : Attend) (listed : Nat → Nat → Bool),
    let b := { a with items := itemsOf a listed }
    let w := writeOuts s b (fun _ _ => Softmax.empty a.entry.d)
    (itemsOf a listed = [] → w.2 = none → attendIssue s o a listed = answer w.1 o.q o.tag okResult 0) ∧
    (∀ f, itemsOf a listed = [] → w.2 = some f → attendIssue s o a listed = answer w.1 o.q o.tag f 0) ∧
    (itemsOf a listed ≠ [] → attendIssue s o a listed =
      issueItems { updCmd s o.q o.tag (fun o => { o with begun := true, items := some b.items.length,
                                                           okDetail := b.items.length }) with attends := s.attends ++ [b] } b)) ∧
  (∀ (s : State) (a : Attend), ∃ items : List AttItem,
    let t := { s with attends := s.attends.map (fun (x : Attend) =>
      if x.q == a.q && x.tag == a.tag then { a with items := items } else x) }
    issueItems s a = { t with capo := { t.capo with fretSeen := (t.capo.fretSeen ++ fretLayers t).eraseDups } } ∧
    items = issueUpTo a (partialBuffer - bufferUsed s (a.core / 16)) (nextArrival s) a.items) ∧
  (∀ (a : Attend) (room n : Nat) (i : AttItem) (l : List AttItem),
    (i.issued = true → issueUpTo a room n (i :: l) = i :: issueUpTo a room n l) ∧
    (i.issued = false → partialBytes a i ≤ room → issueUpTo a room n (i :: l) =
      { i with issued := true, arr := n } :: issueUpTo a (room - partialBytes a i) (n + 1) l) ∧
    (i.issued = false → room < partialBytes a i → issueUpTo a room n (i :: l) = i :: l)) ∧
  (∀ (s : State) (q tag : Nat) (a : Attend), ready s = true → memQuiet s = true → q < 1024 → findAttend s q tag = some a →
    (feStopped s 1 = false → exec (.attendIssueResume q tag) s = .next (restLayers (issueItems s a))) ∧
    (feStopped s 1 = true → exec (.attendIssueResume q tag) s = .next (restLayers s)))

/-- R60, R114, R121 to R124, R133 and R136; R38 for the outputs of a command that failed. -/
def Obligations.FretsServeAndMerge : Prop :=
  (∀ (s : State) (q tag seq : Nat) (a : Attend) (i : AttItem), ready s = true → memQuiet s = true → q < 1024 →
    findAttend s q tag = some a → findItem a seq = some i →
    (i.issued = true → i.served = false →
      (∀ x ∈ queuedItems s, fretOf s x.1 x.2 = fretOf s a i → attendExpress s a = attendExpress s x.1 → x.2.arr < i.arr →
        exec (.fretWork q tag seq) s = .next (restLayers s)) ∧
      (∀ x ∈ queuedItems s, attendExpress s x.1 = true → attendExpress s a = false →
        (fretOf s x.1 x.2 = fretOf s a i ∨ (∃ l ∈ s.capo.fretHold, itemLayer s a i = some l ∧ itemLayer s x.1 x.2 = some l)) →
        exec (.fretWork q tag seq) s = .next (restLayers s)) ∧
      (isNext s a i = true → admitted s a i = true →
        let empty := (groupVecs a i.group).map (fun _ => Softmax.empty a.entry.d)
        (∀ t l, serveRecords s a i empty (seenRecords a i) = (t, .ok l) → exec (.fretWork q tag seq) s =
          .next (restLayers (settleHold
            (setItem (countItem (incF t F.FRET_ITEMS) a i (itemDpa s a i)) a { i with served := true, partials := l })))) ∧
        (∀ t f, serveRecords s a i empty (seenRecords a i) = (t, .error f) →
          let u := incF t F.FRET_ITEMS
          exec (.fretWork q tag seq) s = .next (restLayers (settleHold
            (itemDone (if f.status = stUe then incF u F.FRET_UE_ITEMS else u) a { i with served := true, res := f })))))) ∧
    (i.issued = false ∨ i.served = true → exec (.fretWork q tag seq) s = .next (restLayers s)) ∧
    (i.served = false ∨ i.merged = true → exec (.fretPartial q tag seq) s = .next (restLayers s)) ∧
    (i.served = true → i.merged = false →
      (itemDpa s a i = none → exec (.fretPartial q tag seq) s = .next (restLayers (itemDone s a i))) ∧
      (∀ p, itemDpa s a i = some p →
        let key := 2 * getF s (F.MEM_COLMAP_PCOL (dpaCol p)) + 1
        let words := (partialBytes a i + 7) / 8
        (sget 0 s.channelBad key = 0 → exec (.fretPartial q tag seq) s = .next (restLayers (itemDone s a i))) ∧
        (0 < sget 0 s.channelBad key → 0 < words →
          let u := { s with channelBad := sput 0 s.channelBad key (sget 0 s.channelBad key - words) }
          exec (.fretPartial q tag seq) s =
            .next (restLayers (itemDone (incF u F.FRET_UE_ITEMS) a { i with res := plainResult stUe })))))) ∧
  (∀ (s : State) (a : Attend) (i : AttItem),
    let b := { a with items := a.items.map (fun x => if x.seq = i.seq then { i with merged := true } else x) }
    let u := { s with attends := s.attends.map (fun x => if x.q == a.q && x.tag == a.tag then b else x) }
    let gone (t : State) : State := { t with attends := t.attends.filter (fun x => !(x.q == a.q && x.tag == a.tag)) }
    let w := writeOuts u b (rootOf b)
    (b.items.all (·.merged) = false → itemDone s a i = sendReport u a.q a.tag i.seq i.res) ∧
    (b.items.all (·.merged) = true →
      (b.items.all (fun x => x.res.status == stOk) = true → itemDone s a i = sendReport (gone w.1) a.q a.tag i.seq
        (match w.2 with | some x => x | none => i.res)) ∧
      (b.items.all (fun x => x.res.status == stOk) = false →
        itemDone s a i = sendReport (gone (undefOuts u b)) a.q a.tag i.seq i.res))) ∧
  (∀ (s : State) (v : BitVec 32), ready s = true →
    let n := v.toNat / 2 ^ 8 % 2 ^ 8
    let set (t : State) (tbps : Nat) := getF t F.FRET_MODE_EN = v.toNat % 2 ∧ getF t F.FRET_MODE_FIXED = v.toNat / 2 % 2 ∧
      getF t F.FRET_MODE_FIXED_TBPS = tbps ∧
      (getF t F.FRET_STATUS_FIXED_ACTIVE = 1 ↔ getF t F.FRET_MODE_FIXED = 1 ∧ fretHard t = false) ∧
      KeepsFields s t [F.FRET_MODE_EN.key, F.FRET_MODE_FIXED.key, F.FRET_MODE_FIXED_TBPS.key, F.FRET_STATUS_FIXED_ACTIVE.key]
    (8 ≤ n → n ≤ 200 → Completes (.fretModeWrite v) s (fun t => set t n ∧ SameOutsideFields s t)) ∧
    (n < 8 ∨ 200 < n → Completes (.fretModeWrite v) s (fun t => set t 120 ∧
      Raises s t 0x6002 sevWarn none 0x23 0x400004 0 v.toNat ∧ t = { s with fields := t.fields, events := t.events })))

/-- R186 to R188, R191, R203 and R328; that the engine's table is the one the commands read is log entry 94, the source of
the events log entry 53. -/
def Obligations.GroupsAndCurves : Prop :=
  (∀ (s : State) (v : BitVec 32), ready s = true → memQuiet s = true →
    let n := getF s F.UPD_GROUP_SEL_GROUP
    let g : Group := { Group.zero with data := s.groupStage, valid := true }
    let refused (t : State) (code : Nat) : State :=
      raiseEv (setF (setB t F.UPD_GROUP_STATUS_ERR true) F.UPD_GROUP_STATUS_ERR_CODE code) 0x6005 sevWarn none 0x23 0x500018 0 code
    let define (t : State) : State := match groupError t n g with
      | some e => refused { t with groupStaged := false } e
      | none =>
        let u := setGroup { t with groupStaged := false } n g
        regionPut u (grpOwner g) (curveAddr t n 0) (List.replicate 256 0)
    let invalidate (t : State) : State :=
      let n := getF t F.UPD_GROUP_SEL_GROUP
      if (getGroup t n).busy then refused t 6 else setGroup t n { getGroup t n with valid := false }
    let t := if v.toNat.testBit 0 then define s else s
    let u := if v.toNat.testBit 1 then invalidate t else t
    exec (.groupWrite v) s = .next (restLayers u) ∧ exec (.groupInvalidate v) s = .next (restLayers u)) ∧
  (∀ (s : State) (v : BitVec 32), ready s = true →
    let off := getF s F.UPD_CFG_EN = 0 ∧ ∀ u, u < 72 → getF s (F.UPD_UNIT_STATUS_STATE u) ≠ 2
    let a := getF s F.UPD_PSTORE_ADDR_ADDR
    (off → Completes (.pstoreWrite v) s (fun t => sget 0 t.pstore a = v ∧ (∀ b, b ≠ a → sget 0 t.pstore b = sget 0 s.pstore b) ∧
      getF t F.UPD_PSTORE_ADDR_ADDR = (a + 1) % 2 ^ F.UPD_PSTORE_ADDR_ADDR.width ∧
      t = setF { s with pstore := sput 0 s.pstore a v } F.UPD_PSTORE_ADDR_ADDR (a + 1))) ∧
    (¬ off → exec (.pstoreWrite v) s = .next (Raised s 0x6005 sevWarn none 0x23 0x500024 0 0))) ∧
  (∀ (s : State) (q tag : Nat) (o : OpenCmd), ready s = true → memQuiet s = true → q < 1024 →
    toBegin s q tag 0x41 = some o →
    let ends (t : State) : Prop := exec (.scheduleSet q tag) s = .next (restLayers t)
    (∀ t r, updChecks s q o.cmd = some (t, r) → ends (answer t q tag r 0)) ∧
    (updChecks s q o.cmd = none →
      (schedFields o.cmd = false → ends (answer s q tag { status := stInvalid, sub := 0x0601, detail := 0, noSig := true } 0)) ∧
      (schedFields o.cmd = true →
        (foreignCtx s q (cSrcCtx48 o.cmd) = true → ends (deny s q tag)) ∧
        (foreignCtx s q (cSrcCtx48 o.cmd) = false →
          (earlierOfGroup s o = true → ends s) ∧
          (earlierOfGroup s o = false → cNpts o.cmd = 0 → ctxDead s (cSrcCtx48 o.cmd) = true → ends (ctxFault s q tag)) ∧
          (earlierOfGroup s o = false → (cNpts o.cmd ≠ 0 ∨ ctxDead s (cSrcCtx48 o.cmd) = false) →
            let r := vreadBytes s (cSrcCtx48 o.cmd) (cmdField o.cmd 40 8) (8 * cmdField o.cmd 35 1) .read
            let pts := pointsOf r.2.bytes
            let g := getGroup r.1 (cGroup o.cmd)
            let u := setGroup r.1 (cGroup o.cmd) { g with curves := g.curves.set (cCurve o.cmd) pts }
            (∀ f, r.2.fail = some f → ends (answer r.1 q tag f 0)) ∧
            (r.2.fail = none → r.2.poison = true → ends (answer r.1 q tag (plainResult stUe) 0)) ∧
            (r.2.fail = none → r.2.poison = false →
              (pointsOk pts = true → ends (answer (regionPut u (partOf u q) (curveAddr u (cGroup o.cmd) (cCurve o.cmd))
                (pts.map (fun p => p.1 + p.2.toNat * 2 ^ 32))) q tag okResult 0)) ∧
              (pointsOk pts = false → ends (answer r.1 q tag (codeResult stInvalid 0x0604) 0)))))))) ∧
  (∀ (s : State) (u : Nat), ready s = true → memQuiet s = true → u < 72 →
    (∀ lc, (List.range 64).find? (fun lc => unitOfLc s lc == some u) = some lc →
      exec (.updateUnitCheckFail u) s = .next (restLayers (fence s 10 lc 328))) ∧
    ((List.range 64).find? (fun lc => unitOfLc s lc == some u) = none →
      exec (.updateUnitCheckFail u) s = .next (restLayers s)))

/-- R191 to R202; R22 for rights, R339 for a stopped engine. The numbers of the items are log entry 13; that an
invocation reads its block when it starts and writes it when it ends is log entry 60. -/
def Obligations.UpdatePasses : Prop :=
  (∀ (s : State) (q tag : Nat) (o : OpenCmd), ready s = true → memQuiet s = true → q < 1024 →
    toBegin s q tag 0x40 = some o →
    let g := getGroup s (cGroup o.cmd)
    let p := partOf s q
    let ends (t : State) : Prop := exec (.update q tag) s = .next (restLayers t)
    let no (st sub : Nat) : Result := { status := st, sub := sub, detail := 0, noSig := true }
    (getF s F.UPD_CFG_EN = 0 → ends (answer s q tag (no stNotReady 0) 0)) ∧
    (getF s F.UPD_CFG_EN = 1 → g.valid = false → ends (answer s q tag (no stInvalid 0x0600) 0)) ∧
    (getF s F.UPD_CFG_EN = 1 → g.valid = true →
      (p ≠ grpOwner g → (grpShare g).testBit p = false → ends (answer (countOp s p 31 1) q tag (no stPermission 0) 0)) ∧
      (p = grpOwner g ∨ (grpShare g).testBit p = true →
        (grpServed g = true → p ≠ 0 → ends (answer (incF s F.UPD_FROZEN_CNT) q tag (no stFrozen 0) 0)) ∧
        (grpServed g = false ∨ p = 0 →
          (p ≠ grpOwner g → ends (answer (countOp s p 31 1) q tag (no stPermission 0) 0)) ∧
          (p = grpOwner g →
            (updFields o.cmd = false → ends (answer s q tag (no stInvalid 0x0601) 0)) ∧
            (updFields o.cmd = true →
              let x : Upd := { q := q, tag := tag, group := cGroup o.cmd, step := 0, pass := .hold, todo := [], frozen := 0,
                               stats := [], pro := [], fails := [], bad := [] }
              let u := updCmd s q tag (fun o => { o with begun := true })
              ends (syncBusy { u with upds := u.upds ++ [x] } (cGroup o.cmd)))))))) ∧
  (∀ (s : State) (q tag : Nat) (x : Upd) (o : OpenCmd), ready s = true → memQuiet s = true → q < 1024 →
    findUpd s q tag = some x → findCmd s q tag = some o →
    let g := getGroup s x.group
    let y := { x with step := g.version }
    let starts (t : State) : Prop := exec (.updateStart q tag) s = .next (restLayers t)
    (o.items = none → feStopped s 4 = false →
      (x.pass = .hold → earlierOfGroup s o = false → drained s g x.group = true →
        (cExpectEn o.cmd = true → g.version ≠ cExpect o.cmd →
          starts (answer s q tag { status := stInvalid, sub := 0x0602, detail := 0, noSig := true } 0)) ∧
        ((cExpectEn o.cmd = true → g.version = cExpect o.cmd) →
          (grpStat g = noEntry → starts (putUpd s { y with pass := .statsDone })) ∧
          (grpStat g ≠ noEntry → starts (beginPass s g y .stats)))) ∧
      (x.pass = .hold → earlierOfGroup s o = true ∨ drained s g x.group = false → starts s) ∧
      (x.pass = .statsDone → grpPro g ≠ noEntry →
        (∀ u, activeUnit s (o.join % 64) = some u → exec (.prologueStart q tag) s =
          .next (restLayers (pumpAll (putUpd s { x with pass := .prologue, todo := [(u, [proBlock])] })))) ∧
        (activeUnit s (o.join % 64) = none → exec (.prologueStart q tag) s = .next (restLayers (settleUpds
          (putUpd s (failBlk { x with pass := .prologue, todo := [] } proBlock (plainResult stFenced))))))) ∧
      (x.pass = .prologueDone ∨ (x.pass = .statsDone ∧ grpPro g = noEntry) →
        exec (.applyPassStart q tag) s = .next (restLayers (beginPass s g x .apply)))) ∧
    (o.items ≠ none ∨ feStopped s 4 = true → starts s ∧ exec (.prologueStart q tag) s = .next (restLayers s) ∧
      exec (.applyPassStart q tag) s = .next (restLayers s))) ∧
  (∀ (s : State) (u : Nat) (i : Invocation), ready s = true → memQuiet s = true → u < 72 → (getUnit s u).inv = some i →
    (i.ended = false → i.limit ≤ i.count → exec (.ruleLimit u) s = .next (restLayers
      (endInvocation s u { status := stInvalid, sub := 0x0603, detail := unitDetail s u }))) ∧
    (i.ended = true ∨ i.count < i.limit → exec (.ruleLimit u) s = .next (restLayers s)) ∧
    (i.ended = false → exec (.updateInvocationEnd u) s = .next (restLayers s)) ∧
    (i.ended = true → ∀ x o, findUpd s i.q i.tag = some x → findCmd s i.q i.tag = some o →
      let t := takeOutputs s x i (getUnit s u).rf
      exec (.updateInvocationEnd u) s =
        .next (restLayers (pumpAll (setInv (if i.block = proBlock then t else incF t F.UPD_BLOCKS) u none))))) ∧
  (∀ (s : State) (x : Upd),
    (passOver s x = false → settlePass s x = s) ∧
    (passOver s x = true → x.fails = [] →
      (x.pass = .stats → settlePass s x = putUpd s { x with pass := .statsDone, todo := [] }) ∧
      (x.pass = .prologue → settlePass s x = putUpd s { x with pass := .prologueDone, todo := [] })) ∧
    (passOver s x = true → x.fails ≠ [] ∨ x.pass = .apply → ∀ o, findCmd s x.q x.tag = some o →
      let g := getGroup s x.group
      let n := grpNblk g + (if grpPro g = 0xFFFF then 0 else 1)
      let frozen := min x.frozen (2 ^ 32 - 1)
      let failed (i : Nat) := x.fails.find? (fun r => (if r.seq = 0xFFFFFFFF then grpNblk g else r.seq) == i)
      findCmd (settlePass s x) x.q x.tag = some { o with
        items := some n, okDetail := frozen + (x.step + 1) % 2 ^ 32 * 2 ^ 32,
        sent := o.sent ++ (List.range n).map (fun i => match failed i with
          | none => { seq := i, res := okResult }
          | some r => { seq := i, res := if r.res.status = 0x05 then { r.res with detail := frozen + i * 2 ^ 32 } else r.res }) })) ∧
  (∀ (s : State) (q tag : Nat) (x : Upd), findUpd s q tag = some x →
    let t := dropUpd s q tag
    let g := getGroup t x.group
    findUpd t q tag = none ∧ (∀ u ∈ unitsOn s q tag, (getUnit t u).inv = none) ∧
    g = { getGroup s x.group with busy := s.upds.any (fun u => u.group == x.group && !(u.q == q && u.tag == tag)) } ∧
    (∀ k, k ≠ x.group → getGroup t k = getGroup s k) ∧ t.sigs = s.sigs) ∧
  (∀ (s : State) (x : Upd), (∀ e, s.evac = some e → e.src < 9 ∧ e.dst < 9) →
    let t := flip s x
    let g := getGroup s x.group
    let told (p : Nat) : Prop := p = grpOwner g ∨ (grpShare g).testBit p = true
    (∃ l, getGroup t x.group = { g with version := (x.step + 1) % 2 ^ 32, drain := l } ∧
      ∀ q a, (q, a) ∈ l ↔ ∃ o ∈ s.open_, o.q = q ∧ o.abs = a ∧ partOf s o.q < 16 ∧ told (partOf s o.q) ∧
        ¬ (o.q = x.q ∧ o.tag = x.tag)) ∧
    (∀ k, k ≠ x.group → getGroup t k = getGroup s k) ∧
    (∀ p w, p < 16 → w < 4096 → (told p ∧ w = grpVerSig g → sigGet t p w = (x.step + 1) % 2 ^ 32) ∧
      (¬ (told p ∧ w = grpVerSig g) → sigGet t p w = sigGet s p w)) ∧
    getF t F.UPD_FLIPS = min (getF s F.UPD_FLIPS + 1) (2 ^ 64 - 1)) ∧
  (∀ (s : State) (o : OpenCmd) (r : Result), (∀ e, s.evac = some e → e.src < 9 ∧ e.dst < 9) → engineOf s o.q = 4 → cOpcode o.cmd = 0x40 → r.status ≠ stOk →
    let t := settleUpdate s o r
    (∀ k, (getGroup t k).version = (getGroup s k).version) ∧ t.sigs = s.sigs ∧ findUpd t o.q o.tag = none ∧
    getF t F.UPD_NOFLIP = min (getF s F.UPD_NOFLIP + 1) (2 ^ 32 - 1))

/-- R206 to R214, R223 and R311. Of routes of equal length the one taken is log entry 30, the cluster fenced when two
cannot reach each other log entry 31, the names of a change in its event log entry 32, its source log entry 53, the
order of waiting packets log entry 61, the distance of a pair without a route log entry 62, a sleeping port log
entry 108, the words that a poisoned packet carried log entry 112. -/
def Obligations.NocForwardingAndRoutes : Prop :=
  (∀ (s : State) (r port retries : Nat) (arrivals : List (Nat × Packet)) (ecc : BufEcc), ready s = true → r < 72 → port < 7 →
    (∀ a ∈ arrivals, localPortOk a.1 = true) →
    let u := forEach arrivals s (fun s a => arrive s r a.1 a.2)
    let ends (t : State) : Prop := exec (.nocPacket r port arrivals retries ecc) s = .next (releaseHeld t)
    (outputOpen u r port = false → ends u) ∧
    (outputOpen u r port = true →
      (nextPacket u r port = none → ends u) ∧
      (∀ w, nextPacket u r port = some w →
        let asleep := port = 4 ∧ portServes u (regionOf r) = false ∧ destGone u w.pkt = false
        (asleep → ends (wakePort u (regionOf r))) ∧ (¬ asleep → ends (forward u r port w retries ecc))))) ∧
  (∀ (s : State) (r inPort : Nat) (p : Packet),
    let waits := (∃ h ∈ s.nocHeld, samePair' h.2.2 p = true) ∨ bypassed s r = true ∨
      (getF s F.NOC_STATUS_ROUTE_BUSY = 1 ∧ ∃ w ∈ nocPackets s, samePair' w.pkt p = true)
    let k := (outputOf s r p).getD 7
    let o := getOut s r k
    (waits → arrive s r inPort p = { s with nocHeld := s.nocHeld ++ [(r, inPort, p)] }) ∧
    (¬ waits → arrive s r inPort p = setOut { s with nocNext := s.nocNext + 1 } r k { o with waiting := o.waiting ++
      [{ no := s.nocNext, pkt := p, inPort := inPort, aged := false, since := s.time, cycles := 0 }] })) ∧
  (∀ (s : State) (r port retries : Nat) (w : NocWait),
    let rest : NocOut := { waiting := (getOut s r port).waiting.filter (fun x => x.no != w.no),
                           rr := if thFlag w.pkt 3 then (getOut s r port).rr else w.inPort }
    let u := setOut s r port rest
    (∀ n, port < 4 → neighbour r port = some n →
      forward s r port w retries .clean = enter (addF u (F.NOC_LINK_RETRY_CNT (4 * r + port)) retries) n
        { w with inPort := (port + 2) % 4 }) ∧
    (4 ≤ port → destGone u w.pkt = false →
      forward s r port w retries .clean = { consumePoison u w.pkt with delivered := (consumePoison u w.pkt).delivered ++ [w.pkt] }) ∧
    (4 ≤ port → destGone u w.pkt = true → forward s r port w retries .clean = reportItem u w.pkt stFenced) ∧
    (thFlag w.pkt 2 = false ∨ thDst w.pkt / 4096 ≠ getF u F.LNK_DEVID_DEVID ∨ thClass w.pkt = 7 ∨ thClass w.pkt = 10 →
      consumePoison u w.pkt = u) ∧
    (∀ x, thFlag w.pkt 2 = true → thDst w.pkt / 4096 = getF u F.LNK_DEVID_DEVID → thClass w.pkt ≠ 7 → thClass w.pkt ≠ 10 →
      findCmd u (thQueue w.pkt) (thTag w.pkt) = some x →
      (thClass w.pkt = 6 ∨ engineOf u x.q ≠ 0 → consumePoison u w.pkt = reportItem u w.pkt stUe) ∧
      (thClass w.pkt ≠ 6 → engineOf u x.q = 0 → cOpcode x.cmd = 0x01 → consumePoison u w.pkt = poisonLoad u x w.pkt) ∧
      (thClass w.pkt ≠ 6 → engineOf u x.q = 0 → cOpcode x.cmd = 0x02 → consumePoison u w.pkt = poisonData u x w.pkt))) ∧
  (∀ (s : State) (r port : Nat), ready s = true → r < 72 → port < 7 →
    let old (w : NocWait) : Bool := !w.aged && !thFlag w.pkt 3 &&
      decide (256 * 40 ≤ w.cycles + (s.time - w.since) * getF s (F.CLK_HALF_CUR_STEP (halfOf r)))
    (∀ w, (getOut s r port).waiting.find? old = some w →
      exec (.packetAged r port) s = .next (setOut s r port { getOut s r port with
        waiting := (getOut s r port).waiting.map (fun x => if x.no = w.no then { x with aged := true } else x) })) ∧
    ((getOut s r port).waiting.find? old = none → exec (.packetAged r port) s = .next s)) ∧
  (∀ (s : State) (r d n : Nat), ready s = true → r < 72 → neighbour r d = some n →
    (meshFailed s r d = true → exec (.meshLinkFailed r d) s = .next s) ∧
    (meshFailed s r d = false →
      let u := setF (setF s (F.NOC_LINK_FAIL (4 * r + d)) 1) (F.NOC_LINK_FAIL (4 * n + (d + 2) % 4)) 1
      let u := setB (if isSeam r d then setF u (F.NOC_SEAM_WIDTH (r / 8)) 2 else u) F.NOC_STATUS_ROUTE_BUSY true
      exec (.meshLinkFailed r d) s = .next (fallback { u with
        routeChanges := u.routeChanges ++ [{ router := r, dir := some d, since := s.time }] }))) ∧
  (∀ (s : State) (r : Nat), ready s = true → r < 72 →
    (getF s (F.NOC_ROUTER_STATE r) = 0 →
      let u := setB (wrapF (setF s (F.NOC_ROUTER_STATE r) 3) F.NOC_STATUS_BYPASSED 1) F.NOC_STATUS_ROUTE_BUSY true
      exec (.routerBypass r) s = .next (fallback { u with
        routeChanges := u.routeChanges ++ [{ router := r, dir := none, since := s.time }] })) ∧
    (getF s (F.NOC_ROUTER_STATE r) ≠ 0 → exec (.routerBypass r) s = .next s) ∧
    (let stuck := (∃ c ∈ s.routeChanges, c.since + 10000 ≤ s.time) ∧ ∃ p, p < 8 ∧ (getOut s r p).waiting ≠ [] ∧
       (getF s (F.NOC_ROUTER_STATE r) ≠ 0 ∨ p = 7 ∨ outputOpen s r p = false)
     (stuck → exec (.nocDrainTimeout r) s = .next (Raised s 0x5004 sevFatal none 6 r 0 r)) ∧
     (¬ stuck → exec (.nocDrainTimeout r) s = .next s)) ∧
    (getF s F.NOC_STATUS_ROUTE_BUSY = 0 → exec .routeChangeDone s = .next s) ∧
    (getF s F.NOC_STATUS_ROUTE_BUSY = 1 →
      let v := reroute (fillRoutes s)
      (drainedAll v = false → exec .routeChangeDone s = .next v) ∧
      (drainedAll v = true →
        let u := v.routeChanges.foldl (fun s c => raiseEv s 0x5004 sevWarn none 6 c.router 0 (changeData c)) (writeDist v)
        exec .routeChangeDone s = .next (releaseHeld (dropGone (fallback (fenceUnreachable
          (setB { u with routeChanges := [] } F.NOC_STATUS_ROUTE_BUSY false)))))))) ∧
  (∀ (s : State),
    let u := setB s F.NOC_FALLBACK_HALF (getF s (F.CLK_HALF_CUR_STEP 0) != getF s (F.CLK_HALF_CUR_STEP 1))
    let u := setB (setB u F.NOC_FALLBACK_ROW (rowTrigger u)) F.NOC_FALLBACK_SEAM (seamTrigger u)
    let on := setB { u with fallbackClear := none } F.NOC_STATUS_FALLBACK true
    (triggerBits u ≠ 0 → getF u F.NOC_STATUS_FALLBACK = 1 → fallback s = { u with fallbackClear := none }) ∧
    (triggerBits u ≠ 0 → getF u F.NOC_STATUS_FALLBACK = 0 →
      fallback s = raiseEv (incF on F.NOC_FB_CNT) 0x5005 sevWarn none 0 0 1 (triggerBits (incF on F.NOC_FB_CNT))) ∧
    (triggerBits u = 0 → getF u F.NOC_STATUS_FALLBACK = 1 → u.fallbackClear = none →
      fallback s = { u with fallbackClear := some s.time }) ∧
    (triggerBits u = 0 → getF u F.NOC_STATUS_FALLBACK = 0 ∨ u.fallbackClear ≠ none → fallback s = u)) ∧
  (∀ (s : State) (v : BitVec 32) (half : Nat), ready s = true →
    exec (.nocFallbackWrite v) s = .next (fallback (setB s F.NOC_FALLBACK_FORCE (v.toNat.testBit 8))) ∧
    (let u := fallback s
     let over_ := ∃ t0, u.fallbackClear = some t0 ∧ t0 + 100000 ≤ u.time
     (over_ → exec .fallbackExit s = .next (
       let w := setB { u with fallbackClear := none } F.NOC_STATUS_FALLBACK false
       raiseEv w 0x5005 sevWarn none 0 0 0 (triggerBits w))) ∧
     (¬ over_ → exec .fallbackExit s = .next u)) ∧
    (half < 2 → exec (.pllLock half) s = .next (Raised
      (setB s (if half = 0 then F.CLK_PLL_STATUS_EAST_LOCK else F.CLK_PLL_STATUS_WEST_LOCK) false)
      0x1006 sevFatal none 0 0 0 half)))

/-- R224 to R234, R296 for the lanes reported. When a link acknowledges is log entry 33; the formats of notices and
reports are log entry 34; the parts of an event's DATA are log entry 53; that a packet counts its 248 bytes is log
entry 63; lanes 0 and 1 before 2 and 3, and the lowest single lane, are log entry 107. -/
def Obligations.LinkFlitsAndReplay : Prop :=
  (∀ (s : State) (l : Nat) (f : FlitWord) (corr : Nat) (bad : Bool), ready s = true → l < 48 →
    let c : Coded := { flit := f, corr := corr, fecBad := bad }
    let u := addF (addF (wakeLink s l) (F.LNK_FEC_CORR l) corr) (F.LNK_FEC_UNCORR l) bad.toNat
    let lost := bad = true ∨ flitOk f = false
    let missing := (getLink u l).nakSent = true
    (linkHears s l = false → exec (.dataFlit l f corr bad) s = .next s ∧ exec (.nak l c) s = .next s ∧
      exec (.idleFlit l c) s = .next s) ∧
    (linkHears s l = true →
      (lost → exec (.dataFlit l f corr bad) s = .next (discardFlit u l) ∧ exec (.nak l c) s = .next (discardFlit u l) ∧
        exec (.idleFlit l c) s = .next (discardFlit u l)) ∧
      (¬ lost →
        (flKind f = 0 → flSeq f = (getLink u l).rxSeq → exec (.dataFlit l f corr bad) s = .next (acceptFlit u l f)) ∧
        (flKind f ≠ 0 ∨ flSeq f ≠ (getLink u l).rxSeq → exec (.dataFlit l f corr bad) s = .next (discardFlit u l)) ∧
        (flKind f = 2 → ¬ missing → exec (.nak l c) s =
          .next (flushLink (resendAll (setLink (takeHeader u l f) l (ackTo (getLink (takeHeader u l f) l) (flAck f))) l) l)) ∧
        (flKind f ≠ 2 ∨ missing → exec (.nak l c) s = .next u) ∧
        (flKind f = 1 → ¬ missing → exec (.idleFlit l c) s = .next (flushLink (takeHeader u l f) l)) ∧
        (flKind f ≠ 1 ∨ missing → exec (.idleFlit l c) s = .next u)))) ∧
  (∀ (s : State) (l : Nat) (f : FlitWord),
    let k := getLink s l
    (k.nakSent = true → discardFlit s l = s) ∧
    (k.nakSent = false → discardFlit s l = sendFlit (setLink s l { k with nakSent := true }) l
      (mkFlit 2 0 0 0 (some ((k.rxSeq + 4095) % 4096)) 0 0 0)) ∧
    (let p := flPacket f
     let u := takeHeader (setLink s l { k with nakSent := false, rxSeq := (k.rxSeq + 1) % 4096, ackOwed := some (flSeq f),
                                               lastData := s.time, sleepSent := false }) l f
     let u := traceLink u 5 l (flSeq f) (flEpoch f) p false (dstDev p != ownDev u)
     let u := addF (countOp u (thPart p) 25 packetBytes) (F.DBG_CNT_LINK_RX l) packetBytes
     acceptFlit s l f = flushLink { u with switch := u.switch ++
       [{ pkt := p, vc := flVc f, epoch := flEpoch f, fromLink := some l, fwd := true }] } l) ∧
    (∀ a, (ackTo k a).replay = k.replay.filter (fun r => decide (2048 ≤ (a + 4096 - r.seq) % 4096)))) ∧
  (∀ (s : State) (l vc : Nat) (lanes : BitVec 4) (sup : Bool), ready s = true → l < 48 →
    let k := getLink s l
    let used := usedLanes s l
    let width := getF s (F.LNK_STATUS_WIDTH l)
    let begin_ (over_ : BitVec 4) : State := setLink s l { k with retraining := some s.time, lanes := over_, cap := width }
    let done_ : Trained := { lanes := lanes, supported := sup }
    let many := ∃ r ∈ k.replay, 8 ≤ r.resends
    (inUse s l = true → many → exec (.replayLimit l) s = .next (begin_ used)) ∧
    (inUse s l = false ∨ ¬ many → exec (.replayLimit l) s = .next s) ∧
    (inUse s l = true → used &&& ~~~lanes ≠ 0 → exec (.linkDegrade l lanes) s = .next (begin_ lanes)) ∧
    (inUse s l = false ∨ used &&& ~~~lanes = 0 → exec (.linkDegrade l lanes) s = .next s) ∧
    (∀ since, k.retraining = some since → exec (.linkRetrainDone l done_) s = .next (retrainEnd s l lanes sup since)) ∧
    (∀ since, k.retraining = none → k.heldSince = some since → exec (.linkRetrainDone l done_) s =
      .next (retrainEnd (setLink s l { k with lanes := 0xF, cap := 0 }) l lanes sup since)) ∧
    (k.retraining = none → k.heldSince = none → exec (.linkRetrainDone l done_) s = .next s) ∧
    (vc < 4 →
      let stuck := k.queues.getD vc [] ≠ [] ∧ linkState s l = 3 ∧ k.progress.getD vc 0 + 10000000 ≤ s.time
      (stuck → exec (.linkWatchdog l vc) s = .next (Raised (setB (setLink s l { k with progress := k.progress.set vc s.time })
        (F.LNK_STATUS_WATCHDOG l) true) 0x4003 sevError none 0x22 l 0 vc)) ∧
      (¬ stuck → exec (.linkWatchdog l vc) s = .next s))) ∧
  (∀ (s : State) (l since : Nat) (lanes : BitVec 4),
    let k := getLink s l
    let ok := lanes &&& ~~~(namedLanes s l)
    let failed (t : State) (result : Nat) : State := linksSettle (linkDown (trainRegs t l ok.toNat 0 result since) l 6)
    let said := if devState s = 0 ∧ linkState s l = 1 then reportUnits s
        (((List.range 4).filter (fun i => !lanes.getLsbD i)).map (fun i => { kind := 12, index := l, sub := i }))
      else s
    let counted (t : State) (width : Nat) : State :=
      if getF s (F.LNK_STATUS_WIDTH l) < width then incF t (F.LNK_DEGRADE_CNT l) else t
    retrainEnd s l lanes false since = failed s 6 ∧
    (pickLanes (ok &&& k.lanes) k.cap = none → retrainEnd s l lanes true since = failed said 3) ∧
    (∀ used width, pickLanes (ok &&& k.lanes) k.cap = some (used, width) → linkState s l = 1 →
      retrainEnd s l lanes true since =
        let u := trainRegs (setF (counted said width) (F.LNK_STATUS_WIDTH l) width) l ok.toNat used (trainResult width) since
        setF (setLink u l { k with retraining := none }) (F.LNK_STATUS_STATE l) 2) ∧
    (∀ used width, pickLanes (ok &&& k.lanes) k.cap = some (used, width) → linkState s l = 3 →
      let u := trainRegs (setF (counted s width) (F.LNK_STATUS_WIDTH l) width) l ok.toNat used (trainResult width) since
      retrainEnd s l lanes true since = flushLink (resendAll (setLink (raiseEv u 0x4001 sevWarn none 0x22 l 0 width) l { k with
        retraining := none, heldSince := none, lastData := s.time,
        replay := k.replay.map (fun r => { r with resends := 0 }) }) l) l)) ∧
  (∀ (good : BitVec 4) (cap : Nat), pickLanes good cap =
    if good = 0xF ∧ cap = 0 then some (0xF, 0)
    else if good &&& 3 = 3 ∧ cap ≤ 1 then some (3, 1)
    else if good &&& 0xC = 0xC ∧ cap ≤ 1 then some (0xC, 1)
    else if good.getLsbD 0 then some (1, 2) else if good.getLsbD 1 then some (2, 2)
    else if good.getLsbD 2 then some (4, 2) else if good.getLsbD 3 then some (8, 2) else none) ∧
  (∀ (s : State) (n : Nat) (th : TagHeader), ready s = true →
    (∀ x, s.switch[n]? = some x → exec (.linkSwitchPacket n) s =
      .next (returnCredit (routeSwitch { s with switch := s.switch.eraseIdx n } x) x)) ∧
    (s.switch[n]? = none → exec (.linkSwitchPacket n) s = .next s) ∧
    (let p : Packet := { th := th, data := [] }
     (srcDev p = ownDev s → exec (.unreachableNotice th) s = .next (packetLost s p)) ∧
     (srcDev p ≠ ownDev s → exec (.unreachableNotice th) s = .next s))) ∧
  (∀ (s : State) (x : SwPkt),
    let d := dstDev x.pkt
    (d = ownDev s → trunkOpen s = true → routeSwitch s x = deliverLocal s x.pkt) ∧
    (d = ownDev s → trunkOpen s = false → routeSwitch s x = unreachable s x.pkt) ∧
    (d ≠ ownDev s → epochTable s x.epoch = none → routeSwitch s x = unreachable (incF s F.LNK_STALE_CNT) x.pkt) ∧
    (∀ tbl, d ≠ ownDev s → epochTable s x.epoch = some tbl →
      let u := forEach ((candidates s tbl d).filter (fun l => decide (l < 48))) s wakeLink
      (∀ l, pickLink u x.pkt x.vc (usable u tbl d) = some l →
        routeSwitch s x = enqueueLink u l x.vc { pkt := x.pkt, epoch := x.epoch, fwd := x.fwd }) ∧
      (pickLink u x.pkt x.vc (usable u tbl d) = none → routeSwitch s x = unreachable u x.pkt))) ∧
  (∀ (s : State) (p : Packet),
    let u := incF s F.LNK_UNREACH_CNT
    let mine := srcDev p = ownDev u
    (isNotice p = true → unreachable s p = u) ∧
    (isNotice p = false → mine → unreachable s p = packetLost u p) ∧
    (isNotice p = false → ¬ mine → reachable u (srcDev p) = true → u.luthier.ioRst = false →
      unreachable s p = switchPut u (noticeOf u p) 0) ∧
    (isNotice p = false → ¬ mine → reachable u (srcDev p) = false ∨ u.luthier.ioRst = true → unreachable s p = u) ∧
    (thClass p = 4 → packetLost s p = reportOnce s (thQueue p) (thTag p) (thSeq p) (codeResult stPeerLost 0x0115)) ∧
    (∀ v g, thClass p = 5 → slook s.colTags (colTagOf s p) = some v → groupOfKey s v = some g →
      packetLost s p = losePeer s g (dstDev p)) ∧
    (thClass p ≠ 4 → thClass p ≠ 5 → packetLost s p = s))

/-- R224, R228, R229, R235, R237, R293 and R304; how the numbers of a link start is log entry 33, the parts of an
event's DATA log entry 53. -/
def Obligations.LinkLifecycle : Prop :=
  (∀ (s : State) (v : BitVec 32), ready s = true →
    let new := v.toNat % 2 ^ 8
    let old := getF s F.LNK_EPOCH_CUR
    exec (.activate v) s = exec (.retire v) s ∧
    (v.toNat.testBit 8 = true → v.toNat.testBit 9 = false → v.toNat.testBit 10 = false →
      (getF s F.LNK_EPOCH_PREV_VALID = 0 →
        let u := copyTable (copyTable (setF s F.LNK_EPOCH_CTRL_NEXT new) 1 2) 0 1
        exec (.activate v) s = .next (Raised (setB (setF (setF u F.LNK_EPOCH_PREV old) F.LNK_EPOCH_CUR new)
          F.LNK_EPOCH_PREV_VALID true) 0x4004 sevInfo none 0 0 0 (new + old * 2 ^ 8))) ∧
      (getF s F.LNK_EPOCH_PREV_VALID = 1 → exec (.activate v) s =
        .next (setB (setF s F.LNK_EPOCH_CTRL_NEXT new) F.LNK_EPOCH_CTRL_REFUSED true))) ∧
    (v.toNat.testBit 8 = false → v.toNat.testBit 10 = false →
      let u := setF s F.LNK_EPOCH_CTRL_NEXT new
      (v.toNat.testBit 9 = true → getF s F.LNK_EPOCH_PREV_VALID = 1 →
        exec (.retire v) s = .next (setB u F.LNK_EPOCH_CTRL_RETIRE true)) ∧
      (v.toNat.testBit 9 = false ∨ getF s F.LNK_EPOCH_PREV_VALID = 0 → exec (.retire v) s = .next u)) ∧
    (getF s F.LNK_EPOCH_CTRL_RETIRE = 1 → prevDrained s = true → exec .prevRetired s =
      .next (setB (setB s F.LNK_EPOCH_PREV_VALID false) F.LNK_EPOCH_CTRL_RETIRE false)) ∧
    (getF s F.LNK_EPOCH_CTRL_RETIRE = 0 ∨ prevDrained s = false → exec .prevRetired s = .next s)) ∧
  (∀ (s : State) (src dst k w reset : Nat), src < 3 → dst < 3 → src ≠ dst →
    let lo (tbl : Nat) : Nat := (0x720000 + 0x10000 * tbl) * 128
    SameOutsideFields s (copyTable s src dst) ∧
    (k < 0x4000 * 128 → getF (copyTable s src dst) ⟨lo dst + k, w, reset⟩ = getF s ⟨lo src + k, w, reset⟩) ∧
    (k < lo dst ∨ lo dst + 0x4000 * 128 ≤ k → getF (copyTable s src dst) ⟨k, w, reset⟩ = getF s ⟨k, w, reset⟩)) ∧
  (∀ (s : State) (l dev peer : Nat) (lanes : BitVec 4) (sup : Bool), ready s = true → l < 48 → dev < 4096 → peer < 48 →
    let st := linkState s l
    let join : Instr := .peerJoin l dev peer { lanes := lanes, supported := sup }
    let ok := lanes &&& ~~~(namedLanes s l)
    let named (t : State) : State := setB (setF (setF t (F.LNK_STATUS_PEER_DEV l) dev) (F.LNK_STATUS_PEER_LINK l) peer)
      (F.LNK_STATUS_PEER_VALID l) true
    let may := (st = 0 ∨ st = 1 ∨ st = 2 ∨ st = 6) ∧ getF s (F.LNK_CTRL_PLUG_EN l) = 1 ∧ getF s (F.LNK_CTRL_DISABLE l) = 0 ∧
      s.luthier.ioRst = false
    (¬ may → exec join s = .next s) ∧
    (may → sup = false → exec join s = .next (linksSettle (linkDown (trainRegs (named s) l ok.toNat 0 6 s.time) l 6))) ∧
    (may → sup = true → pickLanes ok 0 = none →
      exec join s = .next (linksSettle (linkDown (trainRegs (named s) l ok.toNat 0 3 s.time) l 6))) ∧
    (∀ used width, may → sup = true → pickLanes ok 0 = some (used, width) →
      let u := trainRegs (named (setF s (F.LNK_STATUS_WIDTH l) width)) l ok.toNat used (trainResult width) s.time
      exec join s = .next (raiseEv (linkUp (setB (setB u (F.LNK_QUAL_DONE l) true) (F.LNK_QUAL_PASS l) true) l)
        0x4005 sevInfo none 0x22 l 0 (dev + peer * 2 ^ 16))) ∧
    (∀ t, linkState (linkUp t l) l = 3)) ∧
  (∀ (s : State) (l : Nat) (v : BitVec 32), ready s = true → l < 48 →
    let u := setB s (F.LNK_CTRL_PLUG_EN l) (v.toNat.testBit 2)
    exec (.linkCtrlRetrain l v) s = exec (.linkDisable l v) s ∧
    (v.toNat.testBit 0 = true → v.toNat.testBit 1 = false → getF s (F.LNK_CTRL_DISABLE l) = 0 → inUse s l = true →
      exec (.linkCtrlRetrain l v) s = .next (setLink (setB u (F.LNK_CTRL_DISABLE l) false) l
        { getLink s l with retraining := some s.time, lanes := 0xF, cap := 0 })) ∧
    (v.toNat.testBit 1 = true → getF s (F.LNK_CTRL_DISABLE l) = 0 →
      exec (.linkDisable l v) s = .next (linkDown (setB u (F.LNK_CTRL_DISABLE l) true) l 0)) ∧
    (v.toNat.testBit 0 = false → v.toNat.testBit 1 = false → getF s (F.LNK_CTRL_DISABLE l) = 0 →
      exec (.linkDisable l v) s = .next (setB u (F.LNK_CTRL_DISABLE l) false)) ∧
    (v.toNat.testBit 0 = false → v.toNat.testBit 1 = false → getF s (F.LNK_CTRL_DISABLE l) = 1 →
      let w := setB u (F.LNK_CTRL_DISABLE l) false
      (getF s (F.LNK_STATUS_PEER_VALID l) = 1 → exec (.linkDisable l v) s = .next (trainSaved w l)) ∧
      (getF s (F.LNK_STATUS_PEER_VALID l) = 0 → exec (.linkDisable l v) s = .next
        (setLink (setF w (F.LNK_STATUS_STATE l) 1) l
          { getLink s l with retraining := some s.time, lanes := 0xF, cap := 0 })))) ∧
  (∀ (s : State) (l : Nat),
    let saved := BitVec.ofNat 4 (getF s (F.LNK_TRAIN_LANE_OK l)) &&& ~~~(namedLanes s l)
    let t := trainSaved s l
    (pickLanes saved 0 = none → t = setLink (setF s (F.LNK_STATUS_STATE l) 1) l
      { getLink s l with retraining := some s.time, lanes := 0xF, cap := 0 }) ∧
    (∀ used width, l < 48 → pickLanes saved 0 = some (used, width) →
      linkState t l = 2 ∧ getF t (F.LNK_TRAIN_LANE_USED l) = used ∧ getF t (F.LNK_STATUS_WIDTH l) = width ∧
      getF t (F.LNK_STATUS_SAVED l) = 1 ∧ getF t (F.LNK_QUAL_DONE l) = 0 ∧ getF t (F.LNK_QUAL_PASS l) = 0 ∧
      KeepsFields s t [(F.LNK_STATUS_STATE l).key, (F.LNK_TRAIN_LANE_USED l).key, (F.LNK_STATUS_WIDTH l).key,
        (F.LNK_STATUS_SAVED l).key, (F.LNK_QUAL_DONE l).key, (F.LNK_QUAL_PASS l).key] ∧
      t = { s with fields := t.fields, luthier := { s.luthier with qualStep := sdel s.luthier.qualStep l } })) ∧
  (∀ (s : State) (l st : Nat),
    let k := getLink s l
    let u := setLink (setF s (F.LNK_STATUS_STATE l) st) l { Link.zero with outbox := k.outbox, probe := k.probe, lastProbe := k.lastProbe }
    let u := setF (setF (setF (setF u (creditFld l 0) 0) (creditFld l 1) 0) (creditFld l 2) 0) (creditFld l 3) 0
    let u := raiseEv u 0x4002 sevError none 0x22 l 0 (linkStatusWord u l)
    linkDown s l st = forEach k.replay (forEach (queuedOf k) u routeSwitch) (fun s r => unreachable s (flPacket r.flit))) ∧
  (∀ (s : State) (l : Nat), ready s = true → l < 48 →
    let u := wakeLink s l
    (linkHears s l = false → exec (.hold l) s = .next s) ∧
    (linkHears s l = true → (getLink u l).nakSent = true → exec (.hold l) s = .next u) ∧
    (linkHears s l = true → (getLink u l).nakSent = false →
      exec (.hold l) s = .next (setLink u l { getLink u l with heldSince := some u.time })) ∧
    ((getLink s l).heldSince = none → exec (.holdTimeout l) s = .next s) ∧
    (∀ t0, (getLink s l).heldSince = some t0 →
      (t0 + 100000000 ≤ s.time → exec (.holdTimeout l) s = .next (linkDown s l 6)) ∧
      (s.time < t0 + 100000000 → exec (.holdTimeout l) s = .next s)))

/-- R238 to R240; that a group takes the lowest free entry is log entry 28, the formats of packets are log entry 34,
how the remote signal travels is log entry 35. -/
def Obligations.SendsAndGroups : Prop :=
  (∀ (s : State) (q tag : Nat) (o : OpenCmd), ready s = true → memQuiet s = true → q < 1024 →
    toBegin s q tag 0x32 = some o →
    let ends (t : State) : Prop := exec (.linkSend q tag) s = .next (restLayers t)
    (lsFields s o.cmd = false → ends (answer s q tag (codeResult stInvalid 0x0110) 0)) ∧
    (lsFields s o.cmd = true → foreignCtx s q (lsSrcCtx o.cmd) = true → ends (deny s q tag)) ∧
    (lsFields s o.cmd = true → foreignCtx s q (lsSrcCtx o.cmd) = false →
      (s.luthier.ioRst = false → reachable s (lsDev o.cmd) = false →
        ends (answer s q tag (codeResult stPeerLost 0x0115) 0)) ∧
      (s.luthier.ioRst = true ∨ reachable s (lsDev o.cmd) = true →
        let n := (cmdField o.cmd 48 4 + 215) / 216
        ends ((List.range n).foldl (fun s k => lsSegment s o k)
          (updCmd s q tag (fun o => { o with begun := true, items := some n, okDetail := 0 })))))) ∧
  (∀ (s : State) (o : OpenCmd) (k : Nat),
    let r := vreadOwned s (partOf s o.q) (lsSrcCtx o.cmd) (cmdField o.cmd 32 8 + 216 * k) (min 216 (lsLen o.cmd - 216 * k))
    (r.2.2 = none → lsSegment s o k = switchInject r.1 (lsPacket s o k r.2.1) 1) ∧
    (∀ f, r.2.2 = some f → lsSegment s o k = sendReport r.1 o.q o.tag k f)) ∧
  (∀ (s : State) (p : Packet) (rsig : Option Nat), ready s = true → memQuiet s = true →
    let u := { s with delivered := s.delivered.erase p }
    let r := segmentWrite u p
    (r.2 = none → exec (.linkSendSegment p rsig) s =
      .next (restLayers (switchInject (recvSegment r.1 p rsig) (joinPacket u p okResult) 2))) ∧
    (∀ f, r.2 = some f → exec (.linkSendSegment p rsig) s = .next (restLayers (switchInject r.1 (joinPacket u p f) 2)))) ∧
  (∀ (s : State) (q tag : Nat) (o : OpenCmd), ready s = true → memQuiet s = true → q < 1024 →
    toBegin s q tag 0x34 = some o →
    let ends (t : State) : Prop := exec (.groupCreate q tag) s = .next (restLayers t)
    (gcFields o.cmd = false → ends (answer s q tag (codeResult stInvalid 0x0110) 0)) ∧
    (gcFields o.cmd = true → gcNmem o.cmd = 0 ∨ 4096 < gcNmem o.cmd → ends (answer s q tag (codeResult stInvalid 0x0113) 0)) ∧
    (gcFields o.cmd = true → 1 ≤ gcNmem o.cmd → gcNmem o.cmd ≤ 4096 →
      (foreignCtx s q (gcCtx o.cmd) = true → ends (deny s q tag)) ∧
      (foreignCtx s q (gcCtx o.cmd) = false →
        let r := vreadBytes s (gcCtx o.cmd) (cmdField o.cmd 40 8) (2 * gcNmem o.cmd) .read
        let ids := memberIds r.2.bytes
        let own := ids[gcRank o.cmd]? = some (ownDev r.1) ∧ ids.Nodup
        let fresh := ∀ x ∈ r.1.colGroups, ¬ (x.2.part = partOf r.1 o.q ∧ x.2.key = gcKey o.cmd)
        (∀ f, r.2.fail = some f → ends (answer r.1 q tag f 0)) ∧
        (r.2.fail = none → r.2.poison = true → ends (answer r.1 q tag (codeResult stUe 0) 0)) ∧
        (r.2.fail = none → r.2.poison = false →
          (¬ own → ends (answer r.1 o.q o.tag (codeResult stInvalid 0x0113) 0)) ∧
          (own → ¬ fresh → ends (answer r.1 o.q o.tag (codeResult stInvalid 0x0112) 0)) ∧
          (own → fresh → freeGroup r.1 = none →
            ends (answer (incF r.1 F.COL_FULL_CNT) o.q o.tag (codeResult stTableFull 0) 0)) ∧
          (∀ g, own → fresh → freeGroup r.1 = some g →
            let k : ColGroup := { part := partOf r.1 o.q, key := gcKey o.cmd, rank := gcRank o.cmd, members := ids,
                                  broken := false, nextSeq := 0 }
            ends (answer { r.1 with colGroups := sins r.1.colGroups g k } o.q o.tag okResult g)))))) ∧
  (∀ (s : State) (q tag : Nat) (o : OpenCmd) (k : ColGroup), ready s = true → memQuiet s = true → q < 1024 →
    toBegin s q tag 0x35 = some o → bits (cmdField o.cmd 32 2) 15 9 = 0 → cmdField o.cmd 34 30 = 0 →
    slook s.colGroups (coGroup o.cmd) = some k →
    (k.part ≠ partOf s o.q → exec (.groupDestroy q tag) s = .next (restLayers (deny s o.q o.tag))) ∧
    (k.part = partOf s o.q →
      let busy := (∃ c ∈ s.colls, c.group = coGroup o.cmd) ∨ ∃ x ∈ s.open_, engineOf s x.q = 3 ∧ cOpcode x.cmd = 0x33 ∧
        coGroup x.cmd = coGroup o.cmd ∧ partOf s x.q = k.part
      (busy → exec (.groupDestroy q tag) s = .next (restLayers s)) ∧
      (¬ busy → exec (.groupDestroy q tag) s =
        .next (restLayers (answer { s with colGroups := sdel s.colGroups (coGroup o.cmd) } q tag okResult 0))))) ∧
  (∀ (s : State) (g : Nat), freeGroup s = some g → g < 512 ∧ slook s.colGroups g = none ∧
    ∀ i, i < g → slook s.colGroups i ≠ none)

/-- R241 to R247 and R339; the formats between devices are log entry 34, the source of PEER_LOST log entry 53, the
order of contributions log entry 64. -/
def Obligations.CollectiveExchange : Prop :=
  (∀ (s : State) (q tag : Nat) (o : OpenCmd), ready s = true → memQuiet s = true → q < 1024 →
    toBegin s q tag 0x33 = some o →
    (coFields o.cmd = false → exec (.collective q tag) s =
      .next (restLayers (answer s q tag (codeResult stInvalid 0x0110) 0))) ∧
    (coFields o.cmd = true → slook s.colGroups (coGroup o.cmd) = none → exec (.collective q tag) s =
      .next (restLayers (answer s o.q o.tag (codeResult stInvalid 0x0111) 0)))) ∧
  (∀ (s : State) (q tag : Nat) (o : OpenCmd) (g : ColGroup), ready s = true → memQuiet s = true → q < 1024 →
    toBegin s q tag 0x33 = some o → coFields o.cmd = true → slook s.colGroups (coGroup o.cmd) = some g →
    let ends (t : State) : Prop := exec (.collective q tag) s = .next (restLayers t)
    (g.part ≠ partOf s o.q → ends (deny s o.q o.tag)) ∧
    (g.part = partOf s o.q →
      (foreignCtx s q (coCtx o.cmd) = true → ends (deny s q tag)) ∧
      (foreignCtx s q (coCtx o.cmd) = false →
        (g.members.length ≤ coRoot o.cmd → ends (answer s q tag (codeResult stInvalid 0x0110) 0)) ∧
        (coRoot o.cmd < g.members.length →
          (g.broken = true → ends (answer s q tag (codeResult stPeerLost 0x0116) 0)) ∧
          (g.broken = false → (coOp o.cmd = 5 → ctxDead s (coCtx o.cmd) = false) → ends (coStart s o g)) ∧
          (g.broken = false → coOp o.cmd = 5 → ctxDead s (coCtx o.cmd) = true → ends (ctxFault s q tag)))))) ∧
  (∀ (s : State) (o : OpenCmd) (g : ColGroup),
    let c := o.cmd
    let u := updCmd { s with
      colGroups := sins s.colGroups (coGroup c) { g with nextSeq := (g.nextSeq + 1) % 65536 },
      colTags := sins s.colTags ((ownDev s * 1024 + o.q) * 65536 + o.tag) (groupKey g.part g.key) }
      o.q o.tag (fun o => { o with begun := true, items := some 1 })
    let r := vreadP u (coCtx c) (coSrc c) (coReads c g.members.length g.rank * coBlock c)
    (∀ f, r.2.2 = some f → coStart s o g = sendReport
      (undefRange r.1 g.part (coCtx c) (coDst c) (coOutBytes c g.members.length)) o.q o.tag 0 f) ∧
    (r.2.2 = none →
      let own := if coOp c = 4 && g.rank != coRoot c then [] else coSlice c r.2.1 (coBlockFor c g.rank)
      coStart s o g = coSettle (coSend { r.1 with colls := r.1.colls ++
        [{ q := o.q, tag := o.tag, group := coGroup c, seq := g.nextSeq, cmd := c, own := own, got := [], lastRx := r.1.time,
           paused := 0 }] } o g g.nextSeq r.2.1) o.q o.tag)) ∧
  (∀ (c : CmdWord) (vs : List Nat) (x y z : Nat), coOp c ≤ 1 →
    (coDtype c = 3 → coRop c = 0 →
      coElement c vs = ((vs.foldl (fun a v => a + BitVec.ofNat 32 v) (0 : BitVec 32)).toNat, false)) ∧
    (coDtype c < 3 → coRop c = 0 →
      let f := coFmt (coDtype c)
      let w (v : Nat) : Word := enc32 (fdec f v)
      coElement c [x, y, z] = (fround f (dec32 (fadd (fadd (w x) (w y)) (fadd (w z) 0))), false)) ∧
    (coDtype c = 4 → coOutFp32 c = false →
      let a := accAdd (accAdd (wideDec x) (wideDec y)) (wideDec z)
      coElement c [x, y, z] = (wideEnc a, a.sat))) ∧
  (∀ (s : State) (p : Packet) (room : Bool), ready s = true → memQuiet s = true →
    let u := { s with delivered := s.delivered.erase p }
    let ends (t : State) : Prop := exec (.collectiveSegment p room) s = .next (restLayers t)
    (segGroup s p = none → ends (refuseSegment u p)) ∧
    (∀ gi g, segGroup s p = some (gi, g) →
      (feStopped s 3 = true → ends (refuseSegment u p)) ∧
      (feStopped s 3 = false → g.broken = true ∨ g.members.length ≤ segRank p → ends u) ∧
      (feStopped s 3 = false → g.broken = false → segRank p < g.members.length →
        (s.colls.find? (fun c => c.group == gi && c.seq == segNo p) = none →
          ((segNo p + 65536 - g.nextSeq) % 65536 < 32768 → ends (refuseSegment u p)) ∧
          (32768 ≤ (segNo p + 65536 - g.nextSeq) % 65536 → ends u)) ∧
        (∀ c, s.colls.find? (fun c => c.group == gi && c.seq == segNo p) = some c →
          (room = false → ends (refuseSegment u p)) ∧
          (room = true → segExpected c g p = true → ends (takeSegment u c p)) ∧
          (room = true → segExpected c g p = false → ends (failColl u c (codeResult stInvalid 0x0114))))))) ∧
  (∀ (s : State) (n : Nat), ready s = true →
    (s.retries[n]? = none → exec (.segmentRetry n) s = .next s) ∧
    (∀ r, s.retries[n]? = some r →
      (r.since + 2000 ≤ s.time → exec (.segmentRetry n) s =
        .next (switchInject { s with retries := s.retries.eraseIdx n } r.pkt (if segOp r.pkt = 5 then 0 else 3))) ∧
      (s.time < r.since + 2000 → exec (.segmentRetry n) s = .next s))) ∧
  (∀ (s : State) (part dev gi : Nat) (key v : BitVec 32), ready s = true → memQuiet s = true → part < 16 → dev < 4096 →
    let found := s.colGroups.find? (fun x => x.2.part == part && x.2.key == key)
    (∀ i g, found = some (i, g) → exec (.peerLost part key dev) s = .next (restLayers (losePeer s i dev))) ∧
    (found = none → exec (.peerLost part key dev) s = .next (restLayers s)) ∧
    (let d := v.toNat % 2 ^ 12
     let u := setF s F.COL_PEER_DOWN_DEV d
     (v.toNat.testBit 12 = true → exec (.colPeerDown v) s =
       .next (restLayers ((groupsOfDev u d).foldl (fun s g => losePeer s g d) u))) ∧
     (v.toNat.testBit 12 = false → exec (.colPeerDown v) s = .next (restLayers u))) ∧
    (∀ g, gi < 512 → slook s.colGroups gi = some g →
      let late := getF s F.COL_CFG_TMO_MS ≠ 0 ∧ feStopped s 3 = false ∧ ∃ c ∈ s.colls, c.group = gi ∧ timedOut s g dev c = true
      (late → exec (.collectiveTimeout gi dev) s = .next (restLayers (losePeer s gi dev))) ∧
      (¬ late → exec (.collectiveTimeout gi dev) s = .next (restLayers s)))) ∧
  (∀ (s : State) (gi dev : Nat) (g : ColGroup), slook s.colGroups gi = some g →
    (g.broken = true → losePeer s gi dev = s) ∧
    (g.broken = false →
      let told := g.members.filter (fun m => m != ownDev s && m != dev && reachable s m)
      let u := told.foldl (fun s m => sendNotice s (lostNotice s g m dev) 0) s
      let v := { u with colGroups := sins u.colGroups gi { g with broken := true } }
      let w := (v.colls.filter (fun c => c.group == gi)).foldl (fun s c => failColl s c (codeResult stPeerLost 0x0116)) v
      losePeer s gi dev = raiseEv (incF w F.COL_PEER_LOST_CNT) 0x4006 sevError (some g.part) 0x24 gi gi dev) ∧
    (g.broken = false → s.colls = [] →
      let t := losePeer s gi dev
      (∃ k, slook t.colGroups gi = some k ∧ k.broken = true ∧ k.members = g.members) ∧
      getF t F.COL_PEER_LOST_CNT = Nat.min (getF s F.COL_PEER_LOST_CNT + 1) (2 ^ F.COL_PEER_LOST_CNT.width - 1) ∧
      Raises s t 0x4006 sevError (some g.part) 0x24 gi gi dev))

/-- R219 and R249 to R257; a failed NoC cell is log entry 36, the source of an event log entry
53, the samples between droops log entry 99, when the
voltages move log entry 100. -/
def Obligations.RegulatorsAndClocks : Prop :=
  (∀ (s : State) (pair mv : Nat), s.power = .on → halted s = false → pair < 8 →
    (1500 ≤ mv → mv ≤ 2100 → exec (.senseExclude pair mv) s = .next s) ∧
    (mv < 1500 ∨ 2100 < mv →
      let t := setBit s F.PDM_VSTK_SENSE_SENSE_OK pair false
      (getF t F.PDM_VSTK_SENSE_SENSE_OK ≠ 0 ∨ getF t F.PDM_VSTK_SENSE_LOCAL = 1 →
        exec (.senseExclude pair mv) s = .next t) ∧
      (getF t F.PDM_VSTK_SENSE_SENSE_OK = 0 → getF t F.PDM_VSTK_SENSE_LOCAL = 0 →
        exec (.senseExclude pair mv) s =
          .next (raiseEv (setB t F.PDM_VSTK_SENSE_LOCAL true) 0x1002 sevError none 15 0 0 0)))) ∧
  (∀ (s : State) (v : BitVec 32), ready s = true →
    let n := v.toNat % 2 ^ 7
    let clear (t : State) (c : Nat) :=
      let t := { t with vminFrom := sput 0 t.vminFrom c t.time }
      setF (setB (setF t (F.PDM_VMIN_MV c) 0) (F.PDM_VMIN_VALID c) false) (F.PDM_VMIN_TIME c) 0
    (v.toNat.testBit 8 = false → exec (.pdmVminClr v) s = .next s) ∧
    (v.toNat.testBit 8 = true → v.toNat.testBit 7 = false →
      exec (.pdmVminClr v) s = .next (if n < 76 then clear s n else s)) ∧
    (v.toNat.testBit 8 = true → v.toNat.testBit 7 = true → Completes (.pdmVminClr v) s (fun t =>
      t = { s with fields := t.fields, vminFrom := t.vminFrom } ∧
      ∀ c, c < 76 → sget 0 t.vminFrom c = s.time ∧ getF t (F.PDM_VMIN_MV c) = 0 ∧ getF t (F.PDM_VMIN_VALID c) = 0 ∧
        getF t (F.PDM_VMIN_TIME c) = 0))) ∧
  (∀ (s : State) (c : Nat), ready s = true → c < 76 →
    let mv := (Config.freeWord s.freeCtr).toNat % 2 ^ 12
    let since := max s.luthier.t0 (sget 0 s.vminFrom c)
    let at_ := since + (Config.freeWord (s.freeCtr + 1)).toNat % (s.time + 1 - since)
    let d := { s with freeCtr := s.freeCtr + 1 + 1 }
    let lower := getF s (F.PDM_VMIN_VALID c) = 0 ∨ mv < getF s (F.PDM_VMIN_MV c)
    let latched (u : State) : State := { u with vminLatch := sins u.vminLatch c (getF u (F.PDM_VMIN_MV c) +
      getF u (F.PDM_VMIN_VALID c) * 2 ^ 12 + getF u (F.PDM_VMIN_TIME c) * 2 ^ 64) }
    (2 ≤ getF s (F.PDM_CELL_STATE c) → exec (.vminReadLatch c) s = .next (latched s)) ∧
    (getF s (F.PDM_CELL_STATE c) < 2 → lower → exec (.vminReadLatch c) s = .next (latched
      (setF (setB (setF d (F.PDM_VMIN_MV c) mv) (F.PDM_VMIN_VALID c) true) (F.PDM_VMIN_TIME c) at_))) ∧
    (getF s (F.PDM_CELL_STATE c) < 2 → ¬ lower → exec (.vminReadLatch c) s = .next (latched d))) ∧
  (∀ (s : State) (site mv : Nat), s.power = .on → halted s = false → site < 72 →
    let lower := getF s (F.PDM_VMIN_VALID site) = 0 ∨ mv < getF s (F.PDM_VMIN_MV site)
    let rec_ := setF (setB (setF s (F.PDM_VMIN_MV site) mv) (F.PDM_VMIN_VALID site) true) (F.PDM_VMIN_TIME site) s.time
    let set := getF s (F.PDM_CELL_SET_MV site)
    ∀ u, ((lower ∧ u = rec_) ∨ (¬ lower ∧ u = s)) →
      (mv + getF s F.PDM_DROOP_CFG_TRIP_MV ≤ set → (getStretch s site).droop = false → getF s (F.PDM_CELL_STATE site) < 2 →
        exec (.droop site mv) s = .next (stretchReasons (incF (setStretch u site { getStretch s site with droop := true })
          (F.CLK_STRETCH_CNT_COUNT (site % 8))))) ∧
      (set < mv + getF s F.PDM_DROOP_CFG_TRIP_MV ∨ (getStretch s site).droop = true →
        exec (.droop site mv) s = .next u) ∧
      ((getStretch s site).droop = true → set ≤ mv + getF s F.PDM_DROOP_CFG_REL_MV →
        exec (.droopRelease site mv) s = .next (stretchReasons (setStretch u site
          { getStretch s site with droop := false, released := some s.time }))) ∧
      ((getStretch s site).droop = false → exec (.droopRelease site mv) s = .next u)) ∧
  (∀ (s : State) (k : Nat) (i : Instr), s.power = .on → halted s = false → k < 8 →
    i ∈ [Instr.clockStep false k, .droopStepHoldEnd k] →
    (slook s.capo.stepWait k = none →
      let level := max (vfPoint s (getF s (F.CLK_REGION_CUR_STEP k))) (vfPoint s (targetStep s k))
      exec i s = .next (moveCells s k (fun v => min v level))) ∧
    (∀ n, slook s.capo.stepWait k = some n → (stepHeld s k = true → exec i s = .next s) ∧
      (stepHeld s k = false →
        let u := setF (accrue s k) (F.CLK_REGION_CUR_STEP k) (min n (maxStep s k))
        exec i s = .next { u with capo := { u.capo with stepWait := sdel u.capo.stepWait k } }))) ∧
  (∀ (s : State) (k n : Nat), k < 8 →
    let m := max 32 (min (maxStep s k) n)
    let wait := if m = getF s (F.CLK_REGION_CUR_STEP k) then sdel s.capo.stepWait k else sins s.capo.stepWait k m
    requestStep s k n =
      moveCells { s with capo := { s.capo with stepWait := wait } } k (fun v => max v (vfPoint s m)) ∧
    targetStep (requestStep s k n) k = m) ∧
  (∀ (s : State) (k c : Nat) (f : Nat → Nat), k < 8 → c < 76 →
    SameOutsideFields s (moveCells s k f) ∧
    getF (moveCells s k f) (F.PDM_CELL_SET_MV c) =
      if c < 72 ∧ c % 8 = k ∧ getF s (F.PDM_CELL_STATE c) < 2 then f (getF s (F.PDM_CELL_SET_MV c)) % 2 ^ 10
      else getF s (F.PDM_CELL_SET_MV c)) ∧
  (∀ (s : State) (h : Nat), s.power = .on → halted s = false → h < 2 →
    let take (s : State) (h : Nat) : State := match slook s.capo.stepWait (8 + h) with
      | some n =>
        let u := accrueWaits s h
        setF { u with capo := { u.capo with stepWait := sdel u.capo.stepWait (8 + h) } } (F.CLK_HALF_CUR_STEP h) n
      | none => s
    let u := take (take s 0) 1
    exec (.clockStep true h) s =
      .next (if halfStep u 0 = halfStep s 0 ∧ halfStep u 1 = halfStep s 1 then u else fallback (writeDist u)) ∧
    (∀ g, g < 2 → halfStep u g = (match slook s.capo.stepWait (8 + g) with
      | some n => n % 2 ^ 7
      | none => halfStep s g))) ∧
  (∀ (s : State) (site amps : Nat), s.power = .on → halted s = false → site < 72 →
    let lim := if getF s (F.PDM_CELL_STATE site) = 0 then 480 else 432
    let set (on : Bool) := stretchReasons (setStretch s site { getStretch s site with current := on })
    exec (.curLimit false site amps) s = .next (if lim < amps then set true else s) ∧
    exec (.curLimit true site amps) s = .next (if 16500 < amps then stretchAll s true else s) ∧
    exec (.curLimitRelease false site amps) s = .next (if amps * 100 < lim * 95 then set false else s) ∧
    exec (.curLimitRelease true site amps) s = .next (if amps * 100 < 16500 * 95 then stretchAll s false else s)) ∧
  (∀ (s : State) (cell phase : Nat), s.power = .on → halted s = false → cell < 72 → phase < 12 →
    let ok := getF s (F.PDM_CELL_PHASE_OK cell)
    let u := setReason (setBit s (F.PDM_CELL_PHASE_OK cell) phase false) 7 true
    let now := withBit ok phase false
    (ok.testBit phase = false → exec (.vrDegraded cell phase) s = .next s) ∧
    (ok = 0xFFF → exec (.vrDegraded cell phase) s =
      .next (raiseEv (setF u (F.PDM_CELL_STATE cell) 1) 0x1003 sevWarn none 13 cell 0 now)) ∧
    (ok.testBit phase = true → ok ≠ 0xFFF → getF s (F.PDM_CELL_STATE cell) ≠ 2 →
      exec (.vrDegraded cell phase) s = .next
        (let w := raiseEv (setF u (F.PDM_CELL_STATE cell) 2) 0x1004 sevError none 13 cell 0 now
         match lcOf w cell with
         | some lc => fence w 1 lc 256
         | none => w))) ∧
  (∀ (s : State) (cell : Nat), s.power = .on → halted s = false → cell < 4 →
    let u := setReason (setF (setF { s with capo := { s.capo with nocLost := s.capo.nocLost ++ [cell] } }
      (F.PDM_CELL_PHASE_OK (72 + cell)) 0) (F.PDM_CELL_STATE (72 + cell)) 2) 7 true
    (s.capo.nocLost.contains cell = true → exec (.nocCellFail cell) s = .next s) ∧
    (s.capo.nocLost = [] →
      let w := [0, 1].foldl (fun s h => requestHalf s h (min 60 (halfStep s h))) (raiseEv u 0x1003 sevWarn none 13 (72 + cell) 0 0)
      exec (.nocCellFail cell) s = .next (fixedClock w) ∧
      ∀ h, h < 2 → (slook (fixedClock w).capo.stepWait (8 + h)).getD (halfStep (fixedClock w) h) = min 60 (halfStep s h)) ∧
    (s.capo.nocLost ≠ [] → s.capo.nocLost.contains cell = false → exec (.nocCellFail cell) s =
      .next (raiseEv u 0x1005 sevFatal none 13 (72 + cell) 0 (72 + cell))))

/-- R132, R134, R258 and R262 to R269. The rounding of energies is log entry 37, the window of a deferral log entry
65, what is measured log entry 66. -/
def Obligations.PowerLoopAndEnergy : Prop :=
  (∀ (s : State), getF (applyLimit s) F.CAPO_STATE_EFF_W =
    (let a := min (getF s F.CAPO_LIMIT_LIMIT_W) s.therm.pth
     let a := if getF s F.EVT_INPUT_THROTTLE = 1 then min a (getF s F.CAPO_LIMIT_EXT_W) else a
     if getF s F.THM_STATUS_FLOW_STATE = 2 then min a 900 else a)) ∧
  (∀ (s : State) (pwr avg vin : Nat), ready s = true →
    let u := setF (setF s F.CAPO_INPUT_PWR_W (min 8191 pwr)) F.CAPO_INPUT_VIN (min 8191 vin)
    let u := fixedClock (noteHard (capSteps (applyLimit (forEach (List.range 8) u dropCells))) avg)
    let lim := getF u F.CAPO_STATE_EFF_W
    let keep (t : State) : State := if getF t F.CLK_FIXED_ACTIVE = 1 then { t with capo := { t.capo with powerLow := [] } } else t
    let ends (t : State) := exec (.powerLoop pwr avg vin) s = .next (setReason t 0 (!t.capo.powerLow.isEmpty))
    (getF u F.CLK_FIXED_ACTIVE = 1 →
      let w := (List.range 8).foldl (fun s k => if targetStep s k = min 56 (maxStep s k) then s else requestStep s k 56) u
      ends { w with capo := { w.capo with powerLow := [] } }) ∧
    (getF u F.CLK_FIXED_ACTIVE = 0 → lim * 98 ≤ avg * 100 → avg ≤ lim → ends u) ∧
    (getF u F.CLK_FIXED_ACTIVE = 0 → lim < avg → ends (keep (lowerAll u avg))) ∧
    (getF u F.CLK_FIXED_ACTIVE = 0 → avg * 100 < lim * 98 → ends (keep (forEach (List.range 8) u raiseRegion)))) ∧
  (∀ (s : State) (avg : Nat), (noteHard s avg).capo.hardLow = true ↔
    (getF s F.EVT_INPUT_THROTTLE = 1 ∧ getF s F.CAPO_LIMIT_EXT_W < avg) ∨
    (getF s F.THM_STATUS_FLOW_STATE = 2 ∧ 900 < avg) ∨
    (s.capo.hardLow = true ∧ getF s F.CAPO_STATE_EFF_W * 98 ≤ avg * 100)) ∧
  (∀ (s : State) (avg k : Nat), k < 8 →
    (targetStep s k ≤ 32 → lowerOrDefer s avg k = s) ∧
    (32 < targetStep s k → targetStep s k ≤ maxStep s k →
      let now := hardLimit s avg = true ∨ collRuns s k = false ∨ getF s F.CAPO_CTRL_COLL_DEFER = 0
      (now → lowerOrDefer s avg k = lowerPower s k ∧ targetStep (lowerOrDefer s avg k) k = targetStep s k - 1 ∧
        k ∈ (lowerOrDefer s avg k).capo.powerLow) ∧
      (¬ now →
        (slook s.capo.deferSince k ≠ none → lowerOrDefer s avg k = deferNote s k false) ∧
        (∀ t0, slook s.capo.deferSince k = none → slook s.capo.deferLast k = some t0 → s.time < t0 + 1000000 →
          lowerOrDefer s avg k = lowerPower s k) ∧
        (slook s.capo.deferSince k = none → (∀ t0, slook s.capo.deferLast k = some t0 → t0 + 1000000 ≤ s.time) →
          lowerOrDefer s avg k =
            deferNote { s with capo := { s.capo with deferSince := sins s.capo.deferSince k s.time } } k false)))) ∧
  (∀ (s : State) (k t0 : Nat), ready s = true → k < 8 →
    (slook s.capo.deferSince k = none → exec (.collDeferEnd k) s = .next s) ∧
    (slook s.capo.deferSince k = some t0 →
      (collRuns s k = true → s.time < t0 + 1000 * getF s F.CAPO_CTRL_DEFER_MAX_US →
        exec (.collDeferEnd k) s = .next s) ∧
      (collRuns s k = false ∨ t0 + 1000 * getF s F.CAPO_CTRL_DEFER_MAX_US ≤ s.time →
        let c := s.capo
        let u := addF (incF { s with capo := { c with
          deferSince := sdel c.deferSince k, deferThm := c.deferThm.filter (· != k), deferPwr := c.deferPwr.filter (· != k),
          deferLast := sins c.deferLast k s.time } } F.CAPO_COLL_DEFER_CNT) F.CAPO_COLL_DEFER_NS (s.time - t0)
        exec (.collDeferEnd k) s = .next (
          if getF s F.CLK_FIXED_ACTIVE = 1 then u
          else
            let w := if k ∈ s.capo.deferThm then foreRegion u k else u
            if k ∈ s.capo.deferPwr then setReason (lowerPower w k) 0 true else w)))) ∧
  (∀ (s : State) (em eu : Nat) (parts queues : List (Nat × Nat)) (cmds : List CmdEnergy), ready s = true →
    (∀ p ∈ parts, p.1 < 16) → (∀ q ∈ queues, q.1 < 1024) → (∀ c ∈ cmds, c.q < 1024) → (parts.map (·.1)).Nodup →
    let sum := (parts.map (·.2)).sum
    let k := energyScale em eu sum
    (0 < sum → 4 * sum ≤ 5 * (em - eu) → 4 * (em - eu) ≤ 5 * sum → ∀ a, scaleEnergy k a = a * (em - eu) / sum) ∧
    Completes (.energyAttribution em eu parts queues cmds) s (fun t =>
      t = (let u := parts.foldl (fun s p => addF s (F.CAPO_PART_ENERGY p.1) (scaleEnergy k p.2)) s
           let u := queues.foldl (fun s p => addF s (F.CAPO_Q_ENERGY p.1) (scaleEnergy k p.2)) u
           let u := cmds.foldl (fun s c => updCmd s c.q c.tag (fun o => { o with attributed := o.attributed + scaleEnergy k c.energy })) u
           let given := (parts.map (fun p => scaleEnergy k p.2)).sum
           let u := addF u F.CAPO_ENERGY_TOTAL em
           let u := setF u F.CAPO_ENERGY_IDLE (min (2 ^ 64 - 1) (getF u F.CAPO_ENERGY_IDLE + em - given))
           { u with capo := { u.capo with pIdle := (em - given) / 1000 } }) ∧
      getF t F.CAPO_ENERGY_TOTAL = min (getF s F.CAPO_ENERGY_TOTAL + em) (2 ^ 64 - 1) ∧
      (∀ p ∈ parts, getF t (F.CAPO_PART_ENERGY p.1) =
        min (getF s (F.CAPO_PART_ENERGY p.1) + scaleEnergy k p.2) (2 ^ 64 - 1)) ∧
      t.capo.pIdle = (em - (parts.map (fun p => scaleEnergy k p.2)).sum) / 1000)) ∧
  (∀ (s : State) (pwr : List Nat) (rate heldNs : Nat) (limited : BitVec 8), ready s = true → pwr.length ≤ 9 →
    let l := (List.range 8).filter (fun n => limited.getLsbD n && s.capo.fretSeen.contains n)
    let u := pwr.zipIdx.foldl (fun s p => setF s (F.FRET_LAYER_PWR_PWR p.2) (min 4095 p.1)) (setGrant s)
    let u := setF (setF u F.FRET_GRANT_RATE_TBPS (min 65535 rate)) F.FRET_STATUS_LIMITED (l.map (2 ^ ·)).sum
    let bound := min (getF u F.FRET_BUDGET_TOTAL_W) (getF u F.FRET_GRANT_TOTAL_W)
    let u := setB u F.FRET_STATUS_BUDGET (decide (10 * bound ≤ pwr.sum) && !l.isEmpty && !getB u F.FRET_MODE_FIXED)
    let u := fretFixed (if l = [] then u else addF u F.FRET_HELD_NS heldNs)
    let held := l.filter (fretLayers u).contains
    let w := { u with capo := { u.capo with fretSeen := (fretLayers u).eraseDups } }
    let rose := addF (setReason w 9 true) (F.CAPO_RSN_NS 9) heldNs
    let w := if l = [] ∨ (getF w F.CAPO_REASON_REASONS).testBit 9 = true then w
      else { setF rose (F.CAPO_RSN_START 9) (rose.time - (Config.freeWord rose.freeCtr).toNat % 1000001) with
        freeCtr := rose.freeCtr + 1 }
    exec (.fretGrant pwr rate limited heldNs) s =
      .next (setReason { w with capo := { w.capo with fretHold := held } } 9 (!held.isEmpty)) ∧
    getF u F.FRET_GRANT_TOTAL_W =
      min (getF s F.FRET_BUDGET_TOTAL_W) (getF s F.CAPO_CTRL_MEM_PCT * getF s F.CAPO_STATE_EFF_W / 100) ∧
    getF u F.FRET_GRANT_RATE_TBPS = min 65535 rate ∧ (∀ n, n < 8 →
      ((getF u F.FRET_STATUS_LIMITED).testBit n = true ↔ limited.getLsbD n = true ∧ n ∈ s.capo.fretSeen)) ∧
    getF u F.FRET_HELD_NS = (if l = [] then getF s F.FRET_HELD_NS else min (getF s F.FRET_HELD_NS + heldNs) (2 ^ 64 - 1))) ∧
  (∀ (s : State) (v : BitVec 32), ready s = true →
    let u := setB s F.CLK_FIXED_EN (v.toNat.testBit 0)
    let on := v.toNat.testBit 0 = true ∧ 3000 ≤ getF s F.CAPO_STATE_EFF_W ∧ s.capo.stepCut = false ∧ s.capo.hardLow = false ∧
      s.capo.nocLost = []
    (on → getF s F.CLK_FIXED_ACTIVE = 1 → exec (.clkFixedWrite v) s = .next u) ∧
    (¬ on → getF s F.CLK_FIXED_ACTIVE = 0 → exec (.clkFixedWrite v) s = .next u) ∧
    (¬ on → getF s F.CLK_FIXED_ACTIVE = 1 → exec (.clkFixedWrite v) s =
      .next (raiseEv (setReason (setB u F.CLK_FIXED_ACTIVE false) 10 false) 0x1007 sevInfo none 0 0 0 0)) ∧
    (on → getF s F.CLK_FIXED_ACTIVE = 0 → Completes (.clkFixedWrite v) s (fun t =>
      t = [0, 1].foldl (fun s h => requestHalf s h 80) ((List.range 8).foldl (fun s k => requestStep s k 56)
        (raiseEv (setReason (setB u F.CLK_FIXED_ACTIVE true) 10 true) 0x1007 sevInfo none 0 0 0 1)) ∧
      getF t F.CLK_FIXED_ACTIVE = 1 ∧
      (∀ k, k < 8 → targetStep t k = min (maxStep s k) 56) ∧
      ∀ h, h < 2 → (slook t.capo.stepWait (8 + h)).getD (halfStep t h) = 80)))

/-- R271 to R276, R284 and R353. Readings are operands (log entry 17), temperatures saturate in 12 bits (log entry 38),
an excluded tray sensor is log entry 101, and the parts of an event's DATA are log entry 53. -/
def Obligations.SensorsAndCoolant : Prop :=
  (∀ (s : State) (r : Reading), r.index < 324 →
    let i := r.index
    let u := setF s (F.THM_SENSOR_TEMP i) (BitVec.ofInt 12 (max (-2048) (min 2047 r.temp))).toNat
    let fine := -160 ≤ r.temp ∧ r.temp ≤ 1200
    let out := setB { u with therm := { u.therm with excluded := sins u.therm.excluded i u.time } } (F.THM_SENSOR_VALID i) false
    (sensorIgnored s i = true → sampleSensor s r = u) ∧
    (sensorIgnored s i = false →
      (fine → slook s.therm.excluded i = none → sampleSensor s r = setB u (F.THM_SENSOR_VALID i) true ∧
        getF (sampleSensor s r) (F.THM_SENSOR_TEMP i) = (BitVec.ofInt 12 r.temp).toNat) ∧
      (fine → slook s.therm.excluded i ≠ none → sampleSensor s r = u) ∧
      (¬ fine → slook s.therm.excluded i = none →
        sampleSensor s r = raiseEv out 0x2002 sevWarn none 0x21 i 0 (tempBits r.temp)) ∧
      (¬ fine → slook s.therm.excluded i ≠ none → sampleSensor s r = out))) ∧
  (∀ (s : State) (i : Nat) (temp : Int), s.power = .on → halted s = false → i < 324 →
    (∀ t0, slook s.therm.excluded i = some t0 → -160 ≤ temp → temp ≤ 1200 → t0 + 100000000 ≤ s.time →
      let u := { s with therm := { s.therm with excluded := sdel s.therm.excluded i } }
      exec (.sensorReadmit i temp) s = .next (setB (setF u (F.THM_SENSOR_TEMP i) (BitVec.ofInt 12 temp).toNat)
        (F.THM_SENSOR_VALID i) true)) ∧
    (∀ t0, slook s.therm.excluded i = some t0 → s.time < t0 + 100000000 → exec (.sensorReadmit i temp) s = .next s) ∧
    (slook s.therm.excluded i = none ∨ temp < -160 ∨ 1200 < temp → exec (.sensorReadmit i temp) s = .next s)) ∧
  (∀ (s : State) (site dur : Nat), s.power = .on → halted s = false → site < 72 →
    let apart := ∃ a b, reading s (2 * site) = some a ∧ reading s (2 * site + 1) = some b ∧ 40 < (a - b).natAbs
    (∀ a b, reading s (2 * site) = some a → reading s (2 * site + 1) = some b → 40 < (a - b).natAbs → 100 < dur →
      site ∉ s.therm.disagree → exec (.sensorDisagree site dur) s = .next
        (raiseEv (incF { s with therm := { s.therm with disagree := s.therm.disagree ++ [site] } } F.THM_DISAGREE_CNT)
          0x2003 sevWarn none 1 site 0 (tempBits a + tempBits b * 2 ^ 32))) ∧
    (¬ apart ∨ dur ≤ 100 ∨ site ∈ s.therm.disagree → exec (.sensorDisagree site dur) s = .next s)) ∧
  (∀ (s : State) (outlet : Bool) (dur : Nat), s.power = .on → halted s = false →
    let f := if outlet then F.THM_STATUS_OUTLET_LOST else F.THM_STATUS_INLET_LOST
    let raw : Int := 32 * getI s F.THM_COOLANT_INLET + (s.therm.inletFrac : Int)
    let out := 45 * 256 < raw ∨ raw < 15 * 256
    (dur < 100 ∨ getF s f = 1 → exec (.traySensor outlet dur) s = .next s) ∧
    (100 ≤ dur → getF s f = 0 → exec (.traySensor outlet dur) s = .next (raiseEv (suspectReason (setB { s with
      therm := { s.therm with trayBack := sins s.therm.trayBack outlet.toNat none } } f true))
        0x2004 sevWarn none 0 0 0 outlet.toNat)) ∧
    (getF s F.THM_STATUS_INLET_LOST = 0 → out → 1000 ≤ dur → s.therm.inletOut = false →
      exec (.inletOutOfRange dur) s =
        .next (raiseEv { s with therm := { s.therm with inletOut := true } } 0x2004 sevWarn none 0 0 0 2)) ∧
    (getF s F.THM_STATUS_INLET_LOST = 1 ∨ ¬ out ∨ dur < 1000 ∨ s.therm.inletOut = true →
      exec (.inletOutOfRange dur) s = .next s)) ∧
  (∀ (s : State) (inlet outlet : Option (BitVec 16)), s.power = .on → halted s = false →
    let u := suspectReason (trayRead (trayRead s false inlet) true outlet)
    exec (.traySensorRead inlet outlet) s =
      .next (if inletOut u then u else { u with therm := { u.therm with inletOut := false } })) ∧
  (∀ (s : State) (outlet : Bool) (v : BitVec 16),
    let raw : Int := if getF s F.MGT_TRAY_CFG_FMT = 0 then v.toInt else 16 * (v.extractLsb' 3 13).toInt
    let t := raw / 32
    let i := outlet.toNat
    let lost := if outlet then F.THM_STATUS_OUTLET_LOST else F.THM_STATUS_INLET_LOST
    let mark (m : Sparse (Option Nat)) : State := { s with therm := { s.therm with trayBack := m } }
    let away := mark (sins s.therm.trayBack i none)
    let stored (u : State) : State :=
      if outlet then setF u F.THM_COOLANT_OUTLET (BitVec.ofInt 12 t).toNat
      else setF { u with therm := { u.therm with inletFrac := (raw % 32).toNat } } F.THM_COOLANT_INLET (BitVec.ofInt 12 t).toNat
    (slook s.therm.trayBack i = none → trayRead s outlet none = incF s F.MGT_TRAY_STATUS_NACKS) ∧
    (slook s.therm.trayBack i ≠ none → trayRead s outlet none = incF away F.MGT_TRAY_STATUS_NACKS) ∧
    (raw < 0 ∨ 80 * 256 < raw →
      (i ∉ s.therm.trayOut → trayRead s outlet (some v) = raiseEv { away with therm := { away.therm with
        trayOut := i :: s.therm.trayOut } } 0x2002 sevWarn none 0 0 0 (tempBits t)) ∧
      (i ∈ s.therm.trayOut → trayRead s outlet (some v) = away)) ∧
    (0 ≤ raw → raw ≤ 80 * 256 →
      (slook s.therm.trayBack i = none → trayRead s outlet (some v) = stored s) ∧
      (slook s.therm.trayBack i = some none → trayRead s outlet (some v) = mark (sins s.therm.trayBack i (some s.time))) ∧
      (∀ t0, slook s.therm.trayBack i = some (some t0) →
        (t0 + 100000000 ≤ s.time →
          let u := setB (mark (sdel s.therm.trayBack i)) lost false
          trayRead s outlet (some v) = stored { u with therm := { u.therm with trayOut := s.therm.trayOut.filter (· != i) } }) ∧
        (s.time < t0 + 100000000 → trayRead s outlet (some v) = s)))) ∧
  (∀ (s : State), s.power = .on → halted s = false →
    let k := s.therm.flowK
    (s.therm.flowLast = none → exec .flowPulse s = .next { s with therm := { s.therm with flowLast := some s.time } } ∧
      exec .flowZero s = .next s) ∧
    (∀ t0, s.therm.flowLast = some t0 →
      let p := max 1 (s.time - t0)
      let u := { s with therm := { s.therm with flowLast := some s.time, period := p } }
      let u := setF (setF u F.THM_FLOW_PULSE_HZ (min 65535 (1000000000 / p)))
        F.THM_FLOW_FLOW (if k = 0 then 0 else min 65535 (60000000000000 / (k * p)))
      let u := setB u F.EVT_INPUT_FLOW_FAST (decide (p < 200000))
      let u := setB u F.THM_STATUS_FLOW_INVALID (k == 0 || decide (p < 200000))
      let z := setB (setF (setF s F.THM_FLOW_FLOW 0) F.THM_FLOW_PULSE_HZ 0) F.EVT_INPUT_FLOW_FAST false
      (p < 200000 → getF s F.EVT_INPUT_FLOW_FAST = 0 →
        exec .flowPulse s = .next (raiseEv u 0x2008 sevWarn none 0 0 0 (1000000000 / p))) ∧
      (200000 ≤ p ∨ getF s F.EVT_INPUT_FLOW_FAST = 1 → exec .flowPulse s = .next u) ∧
      (t0 + 2 * s.therm.period ≤ s.time → exec .flowZero s = .next (setB z F.THM_STATUS_FLOW_INVALID (k == 0))) ∧
      (s.time < t0 + 2 * s.therm.period → exec .flowZero s = .next s))) ∧
  (∀ (s : State) (dur : Nat) (rise : Int), ready s = true →
    let k := s.therm.flowK
    let st := getF s F.THM_STATUS_FLOW_STATE
    let flow := getF s F.THM_FLOW_FLOW
    let nom := s.therm.flowNom
    let invalid := getF s F.THM_STATUS_FLOW_INVALID = 1 ∨ k = 0
    let reduced := st = 0 ∧ (invalid ∨ (flow < 3000 ∧ 1000 ≤ dur))
    let normal := st = 1 ∧ ¬ invalid ∧ 3200 ≤ flow ∧ 1000 ≤ dur
    let loss := st ≠ 2 ∧ ((k ≠ 0 ∧ flow < 20 * nom) ∨ (getF s F.THM_STATUS_OUTLET_LOST = 0 ∧ 16 < rise))
    let back := st = 2 ∧ (k = 0 ∨ 30 * nom ≤ flow) ∧ (getF s F.THM_STATUS_OUTLET_LOST = 1 ∨ rise < 4) ∧ 1000 ≤ dur
    (∀ n, n < 3 → getF (setFlow s n) F.THM_STATUS_FLOW_STATE = n ∧
      let u := raiseEv (setF s F.THM_STATUS_FLOW_STATE n) 0x2007 (if n = 2 then sevError else sevWarn) none 0 0 0 (st + n * 2 ^ 32)
      setFlow s n = applyLimit (allowance { u with therm := { u.therm with disturbed := u.therm.disturbed || n == 2 } })) ∧
    (reduced → exec (.flowReducedEntry dur) s = .next (setFlow s 1)) ∧
    (¬ reduced → exec (.flowReducedEntry dur) s = .next s) ∧
    (normal → exec (.flowReducedExit dur) s = .next (setFlow s 0)) ∧
    (¬ normal → exec (.flowReducedExit dur) s = .next s) ∧
    (loss → exec (.flowLossEntry rise) s = .next (setFlow s 2)) ∧
    (¬ loss → exec (.flowLossEntry rise) s = .next s) ∧
    (back → exec (.flowLossExit rise dur) s = .next (setFlow s 1)) ∧
    (¬ back → exec (.flowLossExit rise dur) s = .next s))

/-- R277 to R286. Missing neighbours and saturation are log entry 38, the packing of LAYER_SUSPECT's DATA log entry 53,
what the trip drops log entry 54. -/
def Obligations.ThermalLoopAndTrip : Prop :=
  (∀ (s : State) (l : List Reading), ready s = true → (∀ r ∈ l, r.index < 324) →
    let u := forEach (List.range 9) (takeSamples (takeThm s) l) setLayer
    let v := limitActions u
    let fore := (List.range 11).filter (foreActs v)
    let w := fretFixed (forEach (List.range 9) (restore (setReason (forEach fore v foreAct) 3 (!fore.isEmpty)) fore) setShare)
    let busy := inForce w
    let w := { w with therm := { w.therm with disturbed := w.therm.disturbed || busy || getF w F.THM_STATUS_FLOW_STATE == 2 } }
    exec (.thermalLoop l) s = .next (allowance (hotBits (setB w F.THM_STATUS_AT_LIMIT busy)))) ∧
  (∀ (s : State), let t := takeThm s
    t.therm.margin = getF s F.THM_CFG_MARGIN_W ∧ t.therm.reducedW = getF s F.THM_FLOW_CFG_REDUCED_W ∧
    t.therm.flowK = getF s F.THM_FLOW_CFG_K ∧ t.therm.flowNom = getF s F.THM_FLOW_CFG_NOM ∧
    t.therm.modelRl = getF s F.THM_MODEL_CFG_RL ∧ t.therm.unsuspect = [] ∧
    ∀ p, p < 9 → getF t (F.THM_LAYER_SUSPECT p) = if p ∈ s.therm.unsuspect then 0 else getF s (F.THM_LAYER_SUSPECT p)) ∧
  (∀ (s : State), let t := limitActions s
    reason t 2 = (List.range 11).any (atLimit s) ∧
    ((∀ d, d < 11 → atLimit s d = false) → t.capo.thermalCut = s.capo.thermalCut) ∧
    ((∃ d, d < 11 ∧ atLimit s d = true) → ∀ x w, leastAllow s = some (x, w) →
      (900 + s.therm.margin + s.capo.thermalCut + 100 ≤ w → t.capo.thermalCut = s.capo.thermalCut + 100) ∧
      (w ≤ 900 + s.therm.margin + s.capo.thermalCut → t.capo.thermalCut = s.capo.thermalCut) ∧
      (900 + s.therm.margin + s.capo.thermalCut < w → w < 900 + s.therm.margin + s.capo.thermalCut + 100 →
        w - s.therm.margin - t.capo.thermalCut = 900)) ∧
    (∀ p, p < 9 → (atLimit s (p + 1) = true → layerShare t p = min 10 (layerShare s p)) ∧
      (atLimit s (p + 1) = false → layerShare t p = layerShare s p)) ∧
    (∀ k, k < 8 → regionHot s k = true → 32 ≤ targetStep s k → targetStep s k ≤ maxStep s k →
      targetStep t k = max 32 (targetStep s k - 4)) ∧
    (∀ k, k < 8 → regionHot s k = false → targetStep t k = targetStep s k) ∧
    (t.capo.stepCut = true ↔ ∃ k, k < 8 ∧ regionHot s k = true)) ∧
  (∀ (s : State) (d p : Nat), p < 9 →
    (∀ k, hottestRegion s = some k → foreAct s 0 = (match deferStep s k true with | some t => t | none => foreRegion s k)) ∧
    (hottestRegion s = none → foreAct s 0 = s) ∧
    foreAct s (p + 1) = { s with capo := { s.capo with
      foreShare := sput 0 s.capo.foreShare p (min (sget 0 s.capo.foreShare p + 5) (limitShare s p)) } } ∧
    layerShare (foreAct s (p + 1)) p = layerShare s p - 5 ∧
    (∀ t, dieGovern s d = some t → (foreReach s d = true ↔ atLimit s d = false ∧
      dieLimit d * 12500000 ≤ t * 12500000 + ((getF s (F.THM_THETA_THETA d) * foreseen s * getF s F.THM_CFG_FRAC_PCT : Nat) : Int)))) ∧
  (∀ (s : State) (p : Nat), p < 9 →
    (∀ t, dieSensor s (p + 1) = some t → getF s (F.THM_LAYER_SUSPECT p) = 0 → layerGovern s p = max t (layerModel s p)) ∧
    (dieSensor s (p + 1) = none ∨ getF s (F.THM_LAYER_SUSPECT p) = 1 → layerGovern s p = layerModel s p + 24)) ∧
  (∀ (s : State), leastAllow s = none → allowance s = s) ∧
  (∀ (s : State) (d w : Nat), leastAllow s = some (d, w) → d < 11 →
    let w := w - s.therm.margin - s.capo.thermalCut
    let w := if getF s F.THM_STATUS_FLOW_STATE = 1 then min w s.therm.reducedW else w
    let w := min 8191 (max 900 w)
    let u := setF (setF s F.THM_ALLOW_ALLOW_W w) F.THM_ALLOW_DIE d
    allowance s = applyLimit { u with therm := { u.therm with pth := w } } ∧
    getF (allowance s) F.THM_ALLOW_ALLOW_W = w ∧ getF (allowance s) F.THM_ALLOW_DIE = d ∧ (allowance s).therm.pth = w) ∧
  (∀ (s : State) (p dur : Nat), s.power = .on → halted s = false → p < 9 →
    let m := layerModel s p
    (dieSensor s (p + 1) = none → exec (.layerSuspect p dur) s = .next s ∧ exec (.suspectClear p dur) s = .next s) ∧
    (∀ t, dieSensor s (p + 1) = some t →
      (10 ≤ dur → t + 48 < m → getF s (F.THM_LAYER_SUSPECT p) = 0 → exec (.layerSuspect p dur) s =
        .next (raiseEv (suspectReason (setShare
          (setBit (setB s (F.THM_LAYER_SUSPECT p) true) F.THM_SUSPECT_LAYERS p true) p))
          0x2005 sevWarn none 4 0 0 (tempBits t + tempBits m * 2 ^ 32))) ∧
      (dur < 10 ∨ m ≤ t + 48 ∨ getF s (F.THM_LAYER_SUSPECT p) = 1 → exec (.layerSuspect p dur) s = .next s) ∧
      (10000 ≤ dur → (t - m).natAbs ≤ 16 → getF s (F.THM_LAYER_SUSPECT p) = 1 →
        exec (.suspectClear p dur) s = .next (clearSuspect s [p])) ∧
      (dur < 10000 ∨ 16 < (t - m).natAbs ∨ getF s (F.THM_LAYER_SUSPECT p) = 0 →
        exec (.suspectClear p dur) s = .next s))) ∧
  (∀ (s : State) (v : BitVec 32), ready s = true → exec (.thmSuspectWrite v) s = .next { s with therm := { s.therm with
    unsuspect := (List.range 9).filter (fun p => v.toNat.testBit p || s.therm.unsuspect.contains p) } }) ∧
  (∀ (s : State) (l : List PowerMs) (mean : Nat), ready s = true →
    let sum := (l.map (·.pwr)).sum
    let learns := l.length = 50 ∧ (∀ x ∈ l, 97 * sum ≤ 5000 * x.pwr ∧ 5000 * x.pwr ≤ 103 * sum) ∧
      (∀ x ∈ l, ∀ y ∈ l, (x.inlet - y.inlet).natAbs < 2) ∧ 0 < mean ∧ mean = sum / 50 ∧ s.therm.disturbed = false ∧
      getF s F.THM_STATUS_AT_LIMIT = 0 ∧ getF s F.THM_STATUS_FLOW_STATE ≠ 2
    let ends (t : State) : Prop := exec (.thetaUpdate l mean) s = .next { t with therm := { t.therm with
      disturbed := getF t F.THM_STATUS_AT_LIMIT == 1 || getF t F.THM_STATUS_FLOW_STATE == 2 } }
    (¬ learns → ends s) ∧
    (learns →
      let t := (List.range 11).foldl (fun s d => learnTheta s mean d) s
      ends t ∧ ∀ (d : Nat) (g : Int), d < 11 → dieGovern s d = some g →
      let old : Int := getF s (F.THM_THETA_THETA d)
      let img : Nat := sget 0 s.therm.thetaImg d
      let raw := old + ((g - inletTemp s) * 125000 / (mean : Int) - old) / 8
      getF t (F.THM_THETA_LEARNT d) = 1 ∧
      getF t (F.THM_THETA_THETA d) = min (max ((img + 1) / 2 : Int) (min (4 * img : Int) raw)).toNat (2 ^ 20 - 1))) ∧
  (∀ (s : State) (die sensor dur : Nat) (temp : Int), s.power = .on → dieSensorOk die sensor = true →
    let trips := 880 ≤ temp ∧ 10000 ≤ dur ∧ s.pins.thermtrip = false
    (¬ trips → exec (.thermtrip die sensor temp dur) s = .next s) ∧
    (trips →
      let u := loseStack { s with pins := { s.pins with thermtrip := true } }
      let u := setF (setF (setF (setF u (F.PDM_RAIL_MV 0) 0) (F.PDM_RAIL_MV 1) 0) (F.PDM_RAIL_AMPS 0) 0) (F.PDM_RAIL_AMPS 1) 0
      exec (.thermtrip die sensor temp dur) s = .next (alert (enterHalted u 4 sensor) 3)) ∧
    (trips → Completes (.thermtrip die sensor temp dur) s (fun t => devState t = 3 ∧ t.pins.thermtrip = true ∧
      t.mem = [] ∧ t.open_ = [] ∧ t.pages = [] ∧ t.seqs = [] ∧
      getF t (F.PDM_RAIL_MV 0) = 0 ∧ getF t (F.PDM_RAIL_MV 1) = 0 ∧ t.hostMem = s.hostMem ∧ t.flash = s.flash)))

/-- R10, R13, R72 and R287 to R305. The model's choices: what the reports of the stages count (log entry 47), the
sites of the service channels and that all eight are needed (log entry 41), the closing of the through switches
and the lock of the PLLs at stage 2 (log entry 84), the narrow mesh links of stage 6 (log entry 49), the lanes and links
of stage 7 (log entry 50), BOARD entries and the zero fill (log entry 78), and when POWER_ON_RESET acts (log entry
77). -/
def Obligations.BringUpStages : Prop :=
  let at_ (s : State) (n : Nat) := s.power = .on ∧ devState s = 0 ∧ getF s F.LUT_STATE_STAGE = n
  let stops (t : State) (n : Nat) :=
    devState t = 3 ∧ getF t F.GLB_HALT_CAUSE_CAUSE = 1 ∧ getF t (F.LUT_STAGE_STATUS n) = 4
  (∀ (s : State) (slot : BitVec 4),
    (s.power = .rising ∨ s.power = .on → Completes (.powerOnReset slot) s (fun t => devState t = 0 ∧
      getF t F.LUT_STATE_STAGE = 0 ∧ t.power = .on ∧ t.time = 0 ∧ t.mem = [] ∧ t.hostMem = s.hostMem ∧
      getF t F.GLB_SLOT = slot.toNat ∧ t.pins.pwrGood = true)) ∧
    (s.power ≠ .rising → s.power ≠ .on → exec (.powerOnReset slot) s = .next s)) ∧
  (∀ (s : State), at_ s 0 →
    Completes (.fuseRead false) s (fun t => stops t 0) ∧
    Completes (.fuseRead true) s (fun t => getF t F.LUT_STATE_STAGE = 1 ∧ getF t (F.LUT_STAGE_STATUS 0) = 2 ∧
      getF t F.GLB_ID = s.fuses.id.toNat ∧ getF t F.GLB_SERIAL = s.fuses.serial.toNat ∧
      getF t F.GLB_STEP = s.fuses.step.toNat ∧ t.fuses.read = true)) ∧
  (∀ (s : State), at_ s 1 →
    let u := setF (setB s F.LUT_STATE_HDR_BAD (!headerOk s)) (F.LUT_STAGE_TESTED 1) 2
    (slotSegs u 0 = none → slotSegs u 1 = none → preferredSlot u < 2 → Completes .imageCheck s (fun t => stops t 1)) ∧
    ((slotSegs u (preferredSlot u)).isSome = true → Completes .imageCheck s (fun t => getF t F.LUT_STATE_STAGE = 2))) ∧
  (∀ (s : State) (a b c d e f : Nat) (cells : List (Nat × Nat)), at_ s 2 → f < 65536 →
    (∀ p ∈ cells, p.1 < 76 ∧ p.2 < 12) →
    let held := (1746 ≤ a ∧ a ≤ 1854) ∧ (1019 ≤ b ∧ b ≤ 1081) ∧ (825 ≤ c ∧ c ≤ 875) ∧ (1164 ≤ d ∧ d ≤ 1236) ∧
      (776 ≤ e ∧ e ≤ 824)
    let gone := (List.range 4).filter (fun n => cells.any (fun p => p.1 == 72 + n) || (namedOf s 13).contains (72 + n))
    (held → gone.length < 2 → Completes (.railRaise [a, b, c, d, e, f] cells) s (fun t =>
      getF t F.LUT_STATE_STAGE = 3 ∧ t.thruOpen = false ∧ getB t F.CLK_PLL_STATUS_EAST_LOCK = true ∧
      getB t F.CLK_PLL_STATUS_WEST_LOCK = true)) ∧
    (¬ held ∨ 2 ≤ gone.length → Completes (.railRaise [a, b, c, d, e, f] cells) s (fun t => stops t 2))) ∧
  (∀ (s : State) (faults : List CoilFault) (retrained : List Nat), at_ s 3 → faults.all coilOk = true →
    retrained.all channelOk = true →
    let r := mapFaults s faults
    let lost (t : Nat) : Bool := r.2.contains (1224 + t) || (namedOf s 11).contains t
    let wanted := ((List.range 8).filter lost).length
    let spares := ((List.range 4).filter (fun t => !lost (80 + t))).length
    (wanted ≤ spares → Completes (.couplerTraining faults retrained) s (fun t =>
      getF t F.LUT_STATE_STAGE = 4 ∧ t.pcie.up = !s.pins.perst ∧ t.spareCoils = r.1.spareCoils ∧
      getF t F.LNK_TRUNK_CHANNELS = min 72 (76 - ((List.range 84).filter lost).length) ∧
      (retrained ≠ [] → getB t F.LUT_STATE_TRAIN_FALLBACK = true))) ∧
    (spares < wanted → Completes (.couplerTraining faults retrained) s (fun t => stops t 3 ∧
      t.spareCoils = r.1.spareCoils))) ∧
  (∀ (s : State) (f : CoilFault) (l : List CoilFault),
    mapFaults s [] = (s, []) ∧
    mapFaults s (f :: l) =
      (let one := mapCoils s f.chan f.boundary f.down f.coils
       let rest := mapFaults one.1 l
       (rest.1, if one.2 then f.chan :: rest.2 else rest.2))) ∧
  (∀ (s : State) (chan boundary coils : Nat) (down : Bool),
    let used := sget 0 s.spareCoils (crossing chan boundary down) + coils
    mapCoils s chan boundary down coils =
      ({ s with spareCoils := sput 0 s.spareCoils (crossing chan boundary down) (min 4 used) }, decide (4 < used))) ∧
  (∀ (s : State) (layers : List Nat) (found : DramFaults), at_ s 4 → (∀ x ∈ layers, x < 9) →
    found.lines.all lineOk = true → found.retrained.all pcolOk = true →
    let u := applyBoard s (fun off => off == 0x300004)
    let pref := getF u F.MEM_SPARE_PREF
    (namedOf u 4 = [] → layers = [] → Completes (.dramTraining layers found) s (fun t =>
      getF t F.LUT_STATE_STAGE = 5 ∧ getF t F.MEM_SPARE_AVAIL = 1 ∧
      getF t F.MEM_SPARE_PHYS = if 8 < pref then 4 else pref)) ∧
    (∀ p, namedOf u 4 = [] → layers = [p] → Completes (.dramTraining layers found) s (fun t =>
      getF t F.LUT_STATE_STAGE = 5 ∧ getF t F.MEM_SPARE_AVAIL = 0 ∧ getF t F.MEM_SPARE_PHYS = p)) ∧
    (∀ p q, p < q → p ∈ layers → q ∈ layers → Completes (.dramTraining layers found) s (fun t => stops t 4))) ∧
  (∀ (s : State) (bad : List UnitRef), at_ s 5 → bad.all unitRefOk = true →
    Completes (.logicalNumbering bad) s (fun t =>
      let low := getF t F.GLB_STATUS_NLC < max 1 (min 64 (getF t F.LUT_CFG_MIN_LC))
      (low → stops t 5) ∧ (¬ low → getF t F.LUT_STATE_STAGE = 6))) ∧
  (∀ (s : State) (bad : List Nat), at_ s 6 → (∀ m ∈ bad, routerOk (m / 4) = true ∧ meshOk (m / 4) (m % 4) = true) →
    Completes (.routeTableFill bad) s (fun t => getF t F.LUT_STATE_STAGE = 7)) ∧
  (∀ (s : State) (l : List LinkTrain), at_ s 7 → (∀ x ∈ l, linkOk x.link = true ∧ peerOk x.peer = true) →
    let u := forEach (List.range 48) (applyTy s (imageSegs s) 7) (fun s i =>
      if getB s (F.LNK_CTRL_DISABLE i) then s else startTraining s i)
    let v := forEach l u (fun s t => if getB s (F.LNK_CTRL_DISABLE t.link) then s
      else trainLink (setLink s t.link { getLink s t.link with retraining := none }) t)
    let bad := (List.range 48).filter (fun i => linkState v i == 6)
    exec (.linkTraining l) s = .next (stage7Settle (stageReport v 7 48 bad.length 0 (bad.head?.map (fun i => (12, i)))))) ∧
  (∀ (s : State) (l : Nat), l < 48 →
    let t := startTraining s l
    let use := s.luthier.trainOk && recordOk s 12 l
    linkState t l = 1 ∧ getB t (F.LNK_STATUS_SAVED l) = use ∧
    (getLink t l).retraining = some s.time ∧ (getLink t l).lanes = 0xF ∧ (getLink t l).cap = 0 ∧
    getF t F.LUT_STATE_TRAIN_FALLBACK =
      if s.luthier.trainOk = true ∧ use = false then 1 else getF s F.LUT_STATE_TRAIN_FALLBACK) ∧
  (∀ (s : State) (t : LinkTrain), t.link < 48 →
    let r := trainLink s t
    let good := t.lanes &&& ~~~(namedLanes s t.link)
    (t.peer = none → linkState r t.link = 0) ∧
    (∀ p, t.peer = some p → t.supported = false → linkState r t.link = 6) ∧
    (∀ p, t.peer = some p → t.supported = true → good = 0 → linkState r t.link = 6) ∧
    (∀ p, t.peer = some p → t.supported = true → good = 0xF → linkState r t.link = 2 ∧
      getF r (F.LNK_STATUS_WIDTH t.link) = 0 ∧ getF r (F.LNK_TRAIN_LANE_USED t.link) = 0xF)) ∧
  (∀ (s : State) (l bits uncorr : Nat) (errs : List Nat), s.power = .on → halted s = false → l < 48 →
    let i := Instr.linkQualification l bits errs uncorr
    let sum := (errs.take 4).sum
    let pass := sum * 100000 < bits ∧ uncorr = 0
    (linkState s l ≠ 2 → exec i s = .next s) ∧
    (linkState s l = 2 → pass → Completes i s (fun t => linkState t l = 3 ∧ getF t (F.LNK_QUAL_PASS l) = 1 ∧
      getF t (F.LNK_QUAL_DONE l) = 1)) ∧
    (linkState s l = 2 → ¬ pass → sget 0 s.luthier.qualStep l = 0 → Completes i s (fun t => linkState t l = 1 ∧
      getF t (F.LNK_QUAL_PASS l) = 0 ∧ getF t (F.LNK_QUAL_DONE l) = 1)) ∧
    (linkState s l = 2 → ¬ pass → sget 0 s.luthier.qualStep l ≠ 0 → getF s (F.LNK_STATUS_WIDTH l) < 2 →
      Completes i s (fun t => linkState t l = 2 ∧ getF t (F.LNK_STATUS_WIDTH l) = getF s (F.LNK_STATUS_WIDTH l) + 1))) ∧
  (∀ (s : State), at_ s 7 →
    (s.luthier.tStage + 2000000000 ≤ s.time → Completes .stage7Timeout s (fun t =>
      getF t F.LUT_STATE_STAGE = 8 ∧ getF t (F.LUT_STAGE_STATUS 7) = 3)) ∧
    (s.time < s.luthier.tStage + 2000000000 → exec .stage7Timeout s = .next s)) ∧
  (∀ (s : State), at_ s 8 →
    let u := pageEngineOff (expressLimit (applyConfig s))
    (regionsMeet (regions u) = true → Completes .ready s (fun t => stops t 8)) ∧
    (regionsMeet (regions u) = false →
      let w := takeAll (armCapo (firstEpoch (forEach (regions u) u zeroRegion)))
      Completes .ready s (fun t => if halted w = true then t = w else
        devState t = (if getF t F.GLB_STATUS_NLC < 64 then 2 else 1) ∧ getF t F.GLB_HALT_CAUSE_CAUSE = 0)))

/-- R294, R295 and R300 to R309. The model's choices: what a device warm reset keeps (log entry 7) and that a latched
trip holds it off (log entry 54), what a port keeps through a soundboard I/O reset (log entry 33), the order of the
substitutions (log entry 42), what a reload applies and when (log entry 51), the sources of its events (log entry 53), and the length and content of a
snapshot, free values (log entry 52). -/
def Obligations.ResetsAndReloads : Prop :=
  (∀ (s : State) (v : BitVec 32) (i : Instr),
    i ∈ [Instr.coreReset v, .clusterReset v, .partitionReset v, .soundboardIoReset v, .deviceWarmReset v] →
    let level := bits v.toNat 2 0
    let target := bits v.toNat 12 3
    let subst := bits v.toNat 16 13
    let go := v.toNat.testBit 31
    let u := setF (setF (setF s F.LUT_RESET_LEVEL level) F.LUT_RESET_TARGET target) F.LUT_RESET_SUBST subst
    let w := setF (incF (setF u F.LUT_RESET_STATUS_LEVEL level) F.LUT_RESET_STATUS_COUNT) F.LUT_RESET_STATUS_RESULT 0
    let busy := setB w F.LUT_RESET_STATUS_BUSY true
    let refused := getF s F.LUT_RESET_STATUS_BUSY = 1 ∨ 4 < level ∨ (level = 1 ∧ 64 ≤ target) ∨
      (level = 2 ∧ 16 ≤ target) ∨ (subst ≠ 0 ∧ level ≠ 1)
    (ready s = false → halted s = false → exec i s = .next s) ∧
    (s.power = .on → halted s = true → go = true → level = 4 → exec i s = .next (warmRequest s)) ∧
    (halted s = true → go = false ∨ level ≠ 4 → exec i s = .next s) ∧
    (ready s = true →
      (go = false → exec i s = .next u) ∧
      (go = true → level = 4 → exec i s = .next (warmRequest u)) ∧
      (go = true → level ≠ 4 → refused →
        exec i s = .next (setF (setF u F.LUT_RESET_STATUS_LEVEL level) F.LUT_RESET_STATUS_RESULT 1)) ∧
      (go = true → ¬ refused → level = 0 → exec i s = .next (recomputeAll (resetCore w target))) ∧
      (go = true → ¬ refused → level = 1 → exec i s = .next (recomputeAll (clusterReset busy target subst))) ∧
      (go = true → ¬ refused → level = 2 → exec i s = .next (recomputeAll (partitionReset busy target true none))) ∧
      (go = true → ¬ refused → level = 3 → exec i s = .next (ioReset busy)))) ∧
  (∀ (s : State),
    (s.pins.thermtrip = true → warmRequest s = s) ∧
    (s.pins.thermtrip = false → let t := warmRequest s
      devState t = 0 ∧ getF t F.LUT_STATE_STAGE = 1 ∧ t.mem = [] ∧ t.queues = [] ∧ t.open_ = [] ∧ t.cores = [] ∧
      t.time = s.time ∧ t.hostMem = s.hostMem ∧ t.flash = s.flash ∧ t.fuses = s.fuses ∧ t.pins = s.pins)) ∧
  (∀ (s : State) (c : Nat), (getCore s c).subPending = [] →
    let k := getCore (resetCore s c) c
    k.kernel = none ∧ k.rf = RegFile.zero ∧ k.astat = 0 ∧ k.stopped = false ∧
    ((getCore s c).arr = [] → (getCore s c).dma = [] → k.ls = (getCore s c).ls ∧ k.lp = (getCore s c).lp)) ∧
  (∀ (s : State) (c : Nat) (cell : Nat × Nat),
    let k := getCore s c
    let n := { k with subPending := k.subPending.erase cell,
                      cells := k.cells.filter (fun e => !(e.row == cell.1 && e.col == cell.2)) }
    let site := sget 0 s.coreSite c
    (k.rowSub = none → substituteOne s c cell =
      raiseEv (setCore s c { n with rowSub := some cell.1 }) 0x5003 sevInfo none 8 site 65 c) ∧
    (k.rowSub ≠ none → k.colSub = none → substituteOne s c cell =
      raiseEv (setCore s c { n with colSub := some cell.2 }) 0x5003 sevInfo none 9 site 65 c) ∧
    (k.rowSub ≠ none → k.colSub ≠ none → substituteOne s c cell = fence (setCore s c n) 2 c 156)) ∧
  (∀ (s : State), ready s = true →
    (s.luthier.clusterRst = none → exec .clusterDrainEnd s = .next s) ∧
    (∀ lc subst, s.luthier.clusterRst = some (lc, subst) →
      let a := failMerge s (fun c => c / 16 == lc) stAborted
      let b := abortAll a (a.open_.filter (fun o => o.join == 0x400 + lc))
      let d := setCluster b lc { getCluster b lc with hold := false }
      let e := substitute { d with luthier := { d.luthier with clusterRst := none, fences := [] } } lc subst
      exec .clusterDrainEnd s =
        .next (recomputeAll (setB (forEach d.luthier.fences e fenceNow) F.LUT_RESET_STATUS_BUSY false)))) ∧
  (∀ (s : State) (lc : Nat), getF (substitute s lc 0) F.LUT_RESET_STATUS_RESULT = 0) ∧
  (∀ (s : State) (p : Nat), ready s = true → p < 16 →
    (s.luthier.partRst = [] → exec (.partitionDrainEnd p) s = .next s) ∧
    (∀ r, s.luthier.partRst.find? (fun r => r.part == p) = some r → r.drained = false →
      (openOfPart s p ≠ [] → s.time < r.since + 1000000 → exec (.partitionDrainEnd p) s = .next (applyReload s p)) ∧
      (openOfPart s p = [] ∨ r.since + 1000000 ≤ s.time →
        let a := forEach ((List.range 1024).filter (fun c => match (getCore s c).kernel with
          | some k => k.part == p
          | none => false)) s resetCore
        let b := { a with luthier := { a.luthier with
          partRst := a.luthier.partRst.map (fun x => if x.part == p then { x with drained := true } else x) } }
        let c := abortAll b ((openOfPart b p).filter (fun o => !pageBegun b o))
        exec (.partitionDrainEnd p) s = .next (recomputeAll (applyReload (settlePart c p) p))))) ∧
  (∀ (s : State), ready s = true →
    (s.luthier.ioRst = false → exec .soundboardIoResetDone s = .next s) ∧
    (s.luthier.ioRst = true →
      let u := forEach (List.range 48) s portBack
      exec .soundboardIoResetDone s = .next (ioSettle (if s.pins.perst then u else endpointUp u)))) ∧
  (∀ (s : State) (l : Nat),
    let k := { getLink s l with lastData := s.time, progress := [s.time, s.time, s.time, s.time] }
    let a := setB s (F.LNK_STATUS_WATCHDOG l) false
    let lanes := BitVec.ofNat 4 (getF a (F.LNK_TRAIN_LANE_OK l)) &&& ~~~(namedLanes a l)
    (linkState s l ≠ 5 → portBack s l = s) ∧
    (linkState s l = 5 → getB a (F.LNK_STATUS_PEER_VALID l) = false →
      portBack s l = setF (setLinkState a l 0) (F.LNK_TRAIN_RESULT l) 5) ∧
    (linkState s l = 5 → getB a (F.LNK_STATUS_PEER_VALID l) = true →
      let t := trainSaved (setLink a l k) l
      (pickLanes lanes 0 = none → portBack s l = t) ∧
      (pickLanes lanes 0 ≠ none →
        portBack s l = forEach [0, 1, 2, 3] t (fun s v => setF s (creditFld l v) (vcBuffers v))))) ∧
  (∀ (s : State),
    let settling := ∃ l < 48, linkState s l = 2 ∨ linkState s l = 5
    (s.luthier.ioRst = false ∨ settling → ioSettle s = s) ∧
    (s.luthier.ioRst = true → ¬ settling →
      ioSettle s = setB { s with luthier := { s.luthier with ioRst := false } } F.LUT_RESET_STATUS_BUSY false)) ∧
  (∀ (s : State), endpointUp s =
    forEach s.pcie.held { s with pcie := { s.pcie with up := true, held := [] } } hostDo) ∧
  (∀ (s : State) (v : BitVec 32) (i : Instr), ready s = true →
    i ∈ [Instr.partitionReload v, .capoReload v, .thermalReload v, .traymapReload v, .routeReload v, .defectReload v] →
    let ty := bits v.toNat 7 0
    let part := bits v.toNat 11 8
    let slot := bits v.toNat 12 12
    let a := setF (setF (setF s F.LUT_RELOAD_TYPE ty) F.LUT_RELOAD_PART part) F.LUT_RELOAD_SLOT slot
    let u := if v.toNat.testBit 15 then setB a F.LUT_RELOAD_ERR false else a
    (v.toNat.testBit 13 = false → exec i s = .next u) ∧
    (v.toNat.testBit 13 = true → getF s F.LUT_RELOAD_BUSY = 1 → exec i s = .next (reloadRefused u 6)) ∧
    (v.toNat.testBit 13 = true → getF s F.LUT_RELOAD_BUSY = 0 →
      (s.flashOp ≠ none → exec i s = .next { setB u F.LUT_RELOAD_BUSY true with
        luthier := { u.luthier with reloadWaits := some (ty, part, slot) } }) ∧
      (s.flashOp = none →
        (ty ∉ [3, 4, 5, 6, 7, 0x11] → exec i s = .next (reloadRefused u 1)) ∧
        (ty ∈ [3, 4, 5, 6, 7, 0x11] → slotSegs u slot = none → exec i s = .next (reloadRefused u 2)) ∧
        (∀ l, slotSegs u slot = some l → ty ∈ [3, 4, 5, 6, 7] →
          (reloadSeg l ty part = none → exec i s = .next (reloadRefused u 3)) ∧
          (∀ g, ty ≠ 3 → ty ≠ 7 → reloadSeg l ty part = some g → exec i s = .next (applySeg u g)) ∧
          (∀ g, ty = 7 → reloadSeg l ty part = some g → exec i s = .next (applySome u g (· != 0x70000C)))) ∧
        (∀ l, slotSegs u slot = some l → ty = 3 → ∀ g, reloadSeg l 3 part = some g →
          ((writeList u g).any (ownerBad u part) = true → exec i s = .next (reloadRefused u 4)) ∧
          ((writeList u g).any (ownerBad u part) = false → 8 < expressCnt (applySeg u g) →
            exec i s = .next (reloadRefused u 5)) ∧
          ((writeList u g).any (ownerBad u part) = false → expressCnt (applySeg u g) ≤ 8 →
            exec i s = .next (partitionReset (setB u F.LUT_RELOAD_BUSY true) part false (some slot)))) ∧
        (∀ l, slotSegs u slot = some l → ty = 0x11 →
          (defectSegs u = none → exec i s = .next (reloadRefused u 2)) ∧
          (∀ d, defectSegs u = some d → segsOf d 0x11 = [] → exec i s = .next (reloadRefused u 3)) ∧
          (∀ d, defectSegs u = some d → segsOf d 0x11 ≠ [] → exec i s = .next { u with luthier :=
            { u.luthier with defects := (segsOf d 0x11).flatMap (fun g => (defectEntries u g).map entryUnit) } }))))) ∧
  (∀ (s : State) (code : Nat), reloadRefused s code =
    raiseEv (setF (setB s F.LUT_RELOAD_ERR true) F.LUT_RELOAD_ERR_CODE code) 0x6006 sevWarn none 0x23 0x10018 0 code) ∧
  (∀ (s : State) (v : BitVec 32), ready s = true →
    (v.toNat.testBit 0 = false → exec (.snap v) s = .next s) ∧
    (v.toNat.testBit 0 = true → Completes (.snap v) s (fun t => getF t F.LUT_EXPORT_CTRL_VALID = 1 ∧
      getF t F.LUT_EXPORT_LEN = t.luthier.snapshot.length ∧ 12 ≤ t.luthier.snapshot.length ∧
      t.luthier.snapshot.take 8 = bytesOf 8 s.fuses.serial.toNat)) ∧
    Completes .exportDataRead s (fun t =>
      getF t F.LUT_EXPORT_DATA_DATA = natOf ((s.luthier.snapshot.drop (4 * getF s F.LUT_EXPORT_ADDR_ADDR)).take 4) ∧
      getF t F.LUT_EXPORT_ADDR_ADDR = (getF s F.LUT_EXPORT_ADDR_ADDR + 1) % 2 ^ 22 ∧ SameOutsideFields s t))

/-- R10 and R310 to R321. The model's choices: when a state is chosen and what OFF loses (log entry 68), the
counts of postponed refreshes and the operand of a peg (log entry 69). -/
def Obligations.SleepAndDrones : Prop :=
  (∀ (s : State) (sc : Nat), s.power = .on → halted s = false → sc < 17 →
    let held := 8 ≤ sc ∧ s.layerRst = some (sc - 8)
    (∀ t0, (getScope s sc).wakeAt = some t0 →
      (s.time < t0 ∨ held ∨ (scopeState s sc = 0 ∧ (getScope s sc).entering = none) →
        exec (.scheduledWake sc) s = .next s) ∧
      (t0 ≤ s.time → ¬ held → scopeState s sc ≠ 0 ∨ (getScope s sc).entering ≠ none → exec (.scheduledWake sc) s =
        .next (setScope s sc { entering := none, waking := true, wakeAt := none }))) ∧
    ((getScope s sc).wakeAt = none → exec (.scheduledWake sc) s = .next s) ∧
    ((getScope s sc).waking = false → exec (.wakeDone sc) s = .next s) ∧
    ((getScope s sc).waking = true →
      let u := incF (setScopeState (setScope s sc .zero) sc 0) (F.CLK_WAKE_CNT sc)
      let ran := { u with drones := u.drones.map (fun d => (d.1, if d.1 % 128 == sc then u.time else d.2)) }
      exec (.wakeDone sc) s = .next (recompute ran sc) ∧ scopeState u sc = 0 ∧ getScope u sc = Scope.zero ∧
      getF u (F.CLK_WAKE_CNT sc) = min (getF s (F.CLK_WAKE_CNT sc) + 1) (2 ^ 32 - 1)) ∧
    ((getScope s sc).entering = none → exec (.sleepEntryDone sc) s = .next s) ∧
    (∀ st, (getScope s sc).entering = some st → st < 4 ∨ (st = 4 ∧ sc < 8) →
      let u := setScopeState (setScope s sc { getScope s sc with entering := none }) sc st
      scopeState u sc = st ∧ (getScope u sc).entering = none ∧
      (sc < 8 → st = 4 → exec (.sleepEntryDone sc) s =
        .next (forEach (regionCores u sc) u (fun s c => setCore s c { getCore s c with lost := true }))) ∧
      (8 ≤ sc ∨ st ≠ 4 → exec (.sleepEntryDone sc) s = .next u))) ∧
  (∀ (s : State) (sc : Nat), sc < 17 →
    let k := getScope s sc
    let st := scopeState s sc
    let lim := scopeLimit s sc
    let goal := k.entering.filter (fun t => decide (st < t) && decide (t ≤ lim))
    let tgt := deepest s sc lim
    let by_ (n : Nat) := (earliest s sc).map (fun t => t - (scopeCost sc n).2)
    let held := 8 ≤ sc ∧ s.layerRst = some (sc - 8)
    (k.waking = true ∨ held → recompute s sc = s) ∧
    (k.waking = false → ¬ held → goal.getD st < tgt → (scopeCost sc tgt).1 ≠ 0 → recompute s sc =
      setScope s sc { entering := some tgt, waking := false, wakeAt := by_ tgt }) ∧
    (k.waking = false → ¬ held → goal.getD st < tgt → (scopeCost sc tgt).1 = 0 → recompute s sc =
      setScope (setScopeState s sc tgt) sc { entering := none, waking := false, wakeAt := by_ tgt }) ∧
    (k.waking = false → tgt = 0 → st = 0 → k.entering = none → recompute s sc = s) ∧
    (k.waking = false → ¬ held → lim < st → scopeState (recompute s sc) sc = lim) ∧
    (∀ n, n ≤ lim → (∀ t, earliest s sc = some t → (scopeCost sc n).1 + (scopeCost sc n).2 + 2000 ≤ t - s.time) →
      n ≤ tgt)) ∧
  (∀ (s : State) (l : Nat), s.power = .on → halted s = false → l < 48 →
    let k := getLink s l
    let quiet := getF s F.CLK_SLEEP_CTRL_LINK_STBY_EN = 1 ∧ linkCarries s l = true ∧ (∀ w ∈ k.queues, w = []) ∧
      k.replay = [] ∧ k.ackOwed = none ∧ (∀ n ∈ k.credOwed, n = 0)
    let asked := setLink s l { k with sleepSent := true, outbox := k.outbox ++ [linkCtl 2 0] }
    (quiet → k.sleepSent = false → k.lastData + 10000 ≤ s.time → exec (.linkIdle l) s = .next asked) ∧
    (¬ quiet ∨ k.sleepSent = true ∨ s.time < k.lastData + 10000 → exec (.linkIdle l) s = .next s) ∧
    (¬ quiet ∨ k.nakSent = true → exec (.sleep l) s = .next s) ∧
    (quiet → k.nakSent = false → Completes (.sleep l) s (fun t => linkState t l = 4 ∧ getLink t l =
      { k with sleepSent := false, outbox := if k.sleepSent then k.outbox else k.outbox ++ [linkCtl 2 0] }))) ∧
  (∀ (s : State) (player pcol bank : Nat) (express : Bool), s.power = .on → halted s = false →
    player < 9 → pcol < 1224 → bank < 4 →
    let b := refreshKey player pcol bank
    let n := sget 0 s.postponed b
    let asleep := getF s (layerSleepFld player) = 2
    (asleep → exec (.refresh player pcol bank express) s = .next s) ∧
    (¬ asleep → exec (.refresh player pcol bank express) s =
      .next { s with postponed := sput 0 s.postponed b (if (express = true ∨ expressBank s player pcol bank = true) ∧ n < 8 then n + 1 else 0) })) ∧
  (∀ (s : State) (d : Drone) (sc : Nat), s.power = .on → halted s = false → droneScopeOk sc = true →
    let last := sget 0 s.drones (droneTask d * 128 + sc)
    let awake := if sc < 32 then wakeScope s sc else wakeLink s (sc - 32)
    let ran := { awake with drones := sput 0 awake.drones (droneTask d * 128 + sc) awake.time }
    (last + dronePeriod s (droneTask d) ≤ s.time ∨ last = 0 →
      (sc < 17 → exec (.droneDeadline d sc) s = .next (recompute ran sc)) ∧
      (32 ≤ sc → exec (.droneDeadline d sc) s = .next ran)) ∧
    (s.time < last + dronePeriod s (droneTask d) → last ≠ 0 → exec (.droneDeadline d sc) s = .next s)) ∧
  (∀ (s : State) (idx sel : Nat), s.power = .on → halted s = false →
    let ran (task sc : Nat) : State :=
      let w := if sc < 32 then wakeScope s sc else wakeLink s (sc - 32)
      let u := { w with drones := sput 0 w.drones (task * 128 + sc) w.time }
      if sc < 17 then recompute u sc else u
    let pegged (task : Peg) : State := match pegScope task idx sel with
      | some sc => ran (pegTask task) sc
      | none => s
    (pegOk .coupler idx sel = true →
      let u := pegged .coupler
      let r := mapCoils u idx (sel / 2 % 16) (sel.testBit 0) (sel / 32)
      exec (.peg .coupler idx sel) s =
        .next (if ready u = true then (if r.2 = true then channelFailed r.1 idx else r.1) else u)) ∧
    (idx < 48 → exec (.peg .link idx sel) s = .next (pegged .link)) ∧
    (pegOk .sensor idx sel = true → exec (.peg .sensor idx sel) s = .next (pegged .sensor)) ∧
    (pegOk .regulator idx sel = true → exec (.peg .regulator idx sel) s = .next (pegged .regulator))) ∧
  (∀ (s : State) (l : Nat), l < 48 →
    (linkState s l ≠ 4 → wakeLink s l = s) ∧
    (linkState s l = 4 → linkState (wakeLink s l) l = 3 ∧
      getLink (wakeLink s l) l = { getLink s l with sleepSent := false, lastData := s.time })) ∧
  (∀ (s : State) (v : BitVec 32), ready s = true →
    let u := setF (setF (setF (setF s F.CLK_SLEEP_CTRL_REGION_MAX v.toNat) F.CLK_SLEEP_CTRL_MEM_MAX (v.toNat / 2 ^ 3))
      F.CLK_SLEEP_CTRL_LINK_STBY_EN (v.toNat / 2 ^ 5)) F.CLK_SLEEP_CTRL_EXPRESS_REGIONS (v.toNat / 2 ^ 8)
    (v.toNat % 8 ≤ 4 → v.toNat / 8 % 4 ≤ 2 → exec (.clkSleepCtrlWrite v) s = .next (forEach (List.range 17) u recompute)) ∧
    (4 < v.toNat % 8 → v.toNat / 8 % 4 ≤ 2 → exec (.clkSleepCtrlWrite v) s = .next (forEach (List.range 17)
      (raiseCfg (setF u F.CLK_SLEEP_CTRL_REGION_MAX 3) 0x6002 0x50060 v.toNat) recompute)))

/-- R216, R322 to R327 and R352. The model's choices (log entry 70): the order of waiting events of different nodes,
the nodes, and the PHASE of a record that the ring does not take; the mask bits of MSI-X are log entry 103. -/
def Obligations.EventsAndThrottle : Prop :=
  (∀ (s : State) (famCode sev kind index aux data : Nat) (part : Option Nat),
    let t := Raised s famCode sev part kind index aux data
    (devState s ≠ 0 → raiseEv s famCode sev part kind index aux data = t) ∧
    (devState s = 0 → raiseEv s famCode sev part kind index aux data =
      incF t (F.LUT_STAGE_EVENTS (getF s F.LUT_STATE_STAGE)))) ∧
  (∀ (s : State) (n : Nat), s.power = .on →
    (s.events.waiting[n]? = none → exec (.eventRecord n) s = .next s) ∧
    (∀ e, s.events.waiting[n]? = some e →
      let node (x : Event) : Nat × Nat :=
        if x.srcKind ∈ [1, 6, 10] ∨ (x.srcKind = 13 ∧ x.srcIndex < 72) then (1, x.srcIndex)
        else if x.srcKind ∈ [2, 3, 5, 7, 8, 9] then (1, x.srcIndex / 17)
        else if x.srcKind = 0x21 ∧ x.srcIndex < 144 then (1, x.srcIndex / 2)
        else (x.srcKind, x.srcIndex)
      let first (x : Event) : Bool := decide (e.sev = sevFatal ∨ node x = node e)
      let before := s.events.waiting.take n
      let rest := before.filter (fun x => !first x) ++ s.events.waiting.drop (n + 1)
      exec (.eventRecord n) s = .next (takeEvent (forEach (before.filter first)
        { s with events := { s.events with waiting := rest } } takeEvent) e))) ∧
  (∀ (s : State),
    let late (e : Event) : Bool := decide (e.time + 5000 ≤ s.time)
    let l := s.events.waiting
    (s.power = .on → lateEvents s =
      if l.any late = true then forEach (l.filter late)
        { s with events := { s.events with waiting := l.filter (fun e => !late e) } } takeEvent
      else s) ∧
    (s.power ≠ .on → lateEvents s = s)) ∧
  (∀ (s : State) (e : Event),
    let u := noteEvent (evtFlush s) e
    (e.sev ≠ sevFatal → devState u = 0 → takeEvent s e = evtLose u) ∧
    (e.sev ≠ sevFatal → devState u ≠ 0 → e.sev < getF u F.EVT_CFG_MIN_SEV → takeEvent s e = u) ∧
    (e.sev ≠ sevFatal → devState u ≠ 0 → getF u F.EVT_CFG_MIN_SEV ≤ e.sev → takeEvent s e = limitEvent u e) ∧
    (e.sev = sevFatal → halted s = false → takeEvent s e =
      enterHalted (evtWrite (noteEvent (evtFlush (closeAll s)) e) e) (haltCauseOf e.famCode) e.data ∧
      devState (takeEvent s e) = 3 ∧ getF (takeEvent s e) F.GLB_HALT_CAUSE_CAUSE = haltCauseOf e.famCode ∧
      (getF (takeEvent s e) F.MGT_ALERT_PENDING).testBit 1 = true) ∧
    (e.sev = sevFatal → halted s = true → takeEvent s e = evtWrite (noteEvent s e) e)) ∧
  (∀ (s : State) (e : Event),
    (e.sev < getF s F.MGT_ALERT_MIN_SEV → noteEvent s e = traceEvent s e) ∧
    (getF s F.MGT_ALERT_MIN_SEV ≤ e.sev → ∃ u, noteEvent s e = traceEvent u e ∧ SameOutsideFields s u ∧
      (getF u F.MGT_ALERT_PENDING).testBit 2 = true ∧
      ∀ j, j < 8 → getF u (F.MGT_EVT_LAST j) =
        eventRecord e (decide (getF s F.EVT_PROD_PTR < 2 ^ s.events.log2n)) / 2 ^ (32 * j) % 2 ^ 32)) ∧
  (∀ (s : State) (e : Event),
    (s.events.windows.any (fun w => samePair w.ev e) = true → limitEvent s e = { s with events := { s.events with
      windows := s.events.windows.map (fun w => if samePair w.ev e then { w with ev := e, count := w.count + 1 } else w) } }) ∧
    (s.events.windows.any (fun w => samePair w.ev e) = false → s.events.windows.length < 512 → limitEvent s e =
      evtWrite { s with events := { s.events with
        windows := s.events.windows ++ [{ ev := e, count := 0, opened := s.time }] } } e) ∧
    (s.events.windows.any (fun w => samePair w.ev e) = false → 512 ≤ s.events.windows.length →
      limitEvent s e = evtWrite s e) ∧
    (evtOpen s = false → evtWrite s e = evtLose s) ∧
    (let t := evtLose s
     getF t F.EVT_STATUS_OVF = 1 ∧ getF t F.EVT_LOST_CNT = min (getF s F.EVT_LOST_CNT + 1) (2 ^ 32 - 1) ∧
     t = { s with fields := t.fields, events := { s.events with lostSince := s.events.lostSince + 1 } }) ∧
    (evtOpen s = true → s.events.lostSince = 0 → (if e.sev = sevFatal then 1 else 2) ≤ evtFree s →
      evtWrite s e = evtStore s e) ∧
    (evtOpen s = true → s.events.lostSince = 0 → evtFree s < (if e.sev = sevFatal then 1 else 2) →
      evtWrite s e = evtFlush (evtLose s)) ∧
    (let n := 2 ^ s.events.log2n
     let p := getF s F.EVT_PROD_PTR
     let sent := hostWrite s (s.events.base + 32 * (p % n)) (bytesOf 32 (eventRecord e (decide (p < n))))
     let t := setF sent F.EVT_PROD_PTR ((p + 1) % (2 * n))
     evtStore s e = if getF t F.EVT_CFG_MSIX_EN = 1 then sendMsix t 0 (getF t F.EVT_CFG_VECTOR) else t) ∧
    (evtOpen s = false ∨ s.events.lostSince = 0 ∨ evtFree s = 0 → evtFlush s = s) ∧
    (evtOpen s = true → 0 < s.events.lostSince → 0 < evtFree s →
      let x : Event := { time := s.time, famCode := 0x7001, sev := sevWarn, part := none, srcKind := 0, srcIndex := 0,
                         suppressed := 0, aux := 0, data := s.events.lostSince }
      evtFlush s = evtStore (noteEvent { s with events := { s.events with lostSince := 0 } } x) x)) ∧
  (∀ (s : State) (n : Nat), s.power = .on → n < 512 →
    (s.events.windows[n]? = none → exec (.rateWindowClose n) s = .next s) ∧
    (∀ w, s.events.windows[n]? = some w →
      (s.time < w.opened + 10000 → exec (.rateWindowClose n) s = .next s) ∧
      (w.opened + 10000 ≤ s.time → w.count = 0 → exec (.rateWindowClose n) s =
        .next { s with events := { s.events with windows := s.events.windows.eraseIdx n } }) ∧
      (w.opened + 10000 ≤ s.time → 0 < w.count →
        let shut := evtWrite s { w.ev with time := s.time, suppressed := w.count - 1 }
        let t := addF shut F.EVT_SUPPR_CNT (w.count - 1)
        exec (.rateWindowClose n) s = .next { t with events := { t.events with
          windows := t.events.windows.set n { w with count := 0, opened := t.time } } } ∧
        t.events.windows = s.events.windows ∧ t.time = s.time ∧
        getF t F.EVT_SUPPR_CNT = min (getF s F.EVT_SUPPR_CNT + (w.count - 1)) (2 ^ 32 - 1)))) ∧
  (∀ (s : State) (v : BitVec 32), ready s = true →
    let raw := v.toNat
    let n := raw % 32
    let on := raw / 2 ^ 8 % 2
    let flags (u : State) := setF (setF (setF (setF u F.EVT_CFG_EN (raw / 2 ^ 8)) F.EVT_CFG_MSIX_EN (raw / 2 ^ 9))
      F.EVT_CFG_VECTOR (raw / 2 ^ 10)) F.EVT_CFG_MIN_SEV (raw / 2 ^ 21)
    let w := flags (setF s F.EVT_CFG_LOG2N raw)
    let z := setF (setF w F.EVT_PROD_PTR 0) F.EVT_CONS_PTR 0
    (getF s F.EVT_CFG_EN = 0 → on = 1 → exec (.evtCfgWrite v) s = .next (evtFlush { z with events := { z.events with
      base := getF s F.EVT_BASE_ADDR * 64, log2n := if n < 6 ∨ 16 < n then 6 else n } })) ∧
    (getF s F.EVT_CFG_EN = 0 → on = 0 → exec (.evtCfgWrite v) s = .next w) ∧
    (getF s F.EVT_CFG_EN = 1 → n = getF s F.EVT_CFG_LOG2N → exec (.evtCfgWrite v) s = .next (flags s)) ∧
    (getF s F.EVT_CFG_EN = 1 → n ≠ getF s F.EVT_CFG_LOG2N → exec (.evtCfgWrite v) s =
      .next (flags (setB s F.EVT_STATUS_CFG_ERR true)))) ∧
  (∀ (s : State) (low : Bool),
    let edges := s.throttle.edges.filter (fun x => decide (s.time < x + 10000000)) ++ [s.time]
    (s.throttle.level = low → exec (.throttleN low) s = .next s) ∧
    (s.throttle.level ≠ low → s.power ≠ .on → exec (.throttleN low) s =
      .next { s with throttle := { s.throttle with level := low } }) ∧
    (s.throttle.level ≠ low → s.power = .on → Completes (.throttleN low) s (fun t =>
      t.throttle = { level := low, since := s.time, edges := edges } ∧
      getF t F.EVT_INPUT_THROTTLE = (if low = true ∨ getF t F.EVT_INPUT_THR_CHATTER = 1 then 1 else 0) ∧
      (100 < t.throttle.edges.length → getF t F.EVT_INPUT_THR_CHATTER = 1) ∧
      (low = false → getF t F.EVT_INPUT_THR_STUCK = 0)))) ∧
  (∀ (s : State), s.power = .on →
    let stuck := s.throttle.level = true ∧ getF s F.EVT_INPUT_THR_STUCK = 0 ∧ s.throttle.since + 100000000 < s.time
    let calm := s.throttle.level = false ∧ getF s F.EVT_INPUT_THR_CHATTER = 1 ∧ s.throttle.since + 10000000 ≤ s.time
    let quiet := setB (setB s F.EVT_INPUT_THR_CHATTER false) F.EVT_INPUT_THROTTLE false
    (stuck → exec .throttleStuck s = .next (raiseEv (setB s F.EVT_INPUT_THR_STUCK true) 0x1008 sevWarn none 0 0 0 1)) ∧
    (¬ stuck → exec .throttleStuck s = .next s) ∧
    (calm → exec .throttleChatterEnd s = .next (if ready s = true then applyLimit quiet else quiet)) ∧
    (¬ calm → exec .throttleChatterEnd s = .next s))

/-- R329 to R343. The model's choices: the atomic copies (log entry 71), the corners of the trace (log entry 72), when
a stop is complete (log entry 73), and the peer that a probe's record names (log entry 74). -/
def Obligations.CountersTraceAndStop : Prop :=
  (∀ (s : State) (fn : Nat) (v : BitVec 32), ready s = true → fn < 16 →
    (bar2On s fn = false ∨ v ≠ 1 → exec (.cntSnap fn v) s = .next s) ∧
    (bar2On s fn = true → v = 1 → Completes (.cntSnap fn v) s (fun t => SameOutsideFields s t ∧
      getF t (F.CNT_SNAP_TIME fn) = s.time % 2 ^ 64 ∧ ∀ i, i < 32 → getF t (F.CNT_SHADOW fn i) = getF s (F.CNT fn i))) ∧
    (v.toNat.testBit 0 = false → exec (.dbgCntSnap v) s = .next s) ∧
    (v.toNat.testBit 0 = true → Completes (.dbgCntSnap v) s (fun t => SameOutsideFields s t ∧
      getF t F.DBG_CNT_SNAP_TIME = s.time % 2 ^ 64 ∧
      ∀ i, i < 32 → getF t (F.DBG_CNT_DEV_SHADOW i) = getF s (F.DBG_CNT_DEV i) ∧
        (∀ p, p < 16 → getF t (F.CNT_SHADOW p i) = getF s (F.CNT p i)) ∧
        ∀ l, l < 64 → getF t (F.DBG_CNT_LC_SHADOW l i) = getF s (F.DBG_CNT_LC l i)))) ∧
  (∀ (s : State) (off : Nat) (v : BitVec 64), ready s = true → off = 0x900000 ∨ off = 0x900008 →
    let st := getF s F.DBG_TRACE_STATUS_STATE
    let n := v.toNat
    (st = 1 ∨ st = 2 → exec (.traceConfigWrite off 8 v) s = .next (Raised s 0x7105 sevWarn none 0x23 off 0 off)) ∧
    (st = 0 ∨ st = 3 → off = 0x900000 → Completes (.traceConfigWrite off 8 v) s (fun t =>
      getF t F.DBG_TRACE_BASE_DPA = n % 2 ^ 40 ∧ SameOutsideFields s t)) ∧
    (st = 0 ∨ st = 3 → off = 0x900008 → 22 ≤ n % 2 ^ 5 → n % 2 ^ 5 ≤ 30 → n / 2 ^ 5 % 2 ^ 2 ≤ 2 → n / 2 ^ 7 % 2 ^ 5 ≤ 16 →
      Completes (.traceConfigWrite off 8 v) s (fun t => getF t F.DBG_TRACE_CFG_LOG2SZ = n % 2 ^ 5 ∧
        getF t F.DBG_TRACE_CFG_MODE = n / 2 ^ 5 % 2 ^ 2 ∧ getF t F.DBG_TRACE_CFG_PRE_16 = n / 2 ^ 7 % 2 ^ 5 ∧
        getF t F.DBG_TRACE_CFG_TYPES = n / 2 ^ 16 % 2 ^ 16 ∧ getF t F.DBG_TRACE_CFG_PARTS = n / 2 ^ 32 % 2 ^ 16 ∧
        SameOutsideFields s t))) ∧
  (∀ (s : State) (v : BitVec 32) (i : Instr), ready s = true → i ∈ [Instr.traceEnable v, .trig v] →
    let en := v.toNat.testBit 0
    let trig := v.toNat.testBit 1
    let st := getF s F.DBG_TRACE_STATUS_STATE
    (st = 0 ∨ st = 3 → en = true → trig = false → Completes i s (fun t => getF t F.DBG_TRACE_STATUS_STATE = 1 ∧
      getF t F.DBG_TRACE_CTRL_EN = 1 ∧ getF t F.DBG_TRACE_WPTR = 0 ∧ getF t F.DBG_TRACE_START = 0 ∧
      getF t F.DBG_TRACE_STATUS_TRIGGERED = 0 ∧ t.trace = Trace.zero)) ∧
    (st = 0 ∨ st = 3 → en = false → trig = false → exec i s = .next s) ∧
    (st = 1 ∨ st = 2 → en = true → trig = true → getF s F.DBG_TRACE_CTRL_EN = 1 →
      getF s F.DBG_TRACE_STATUS_TRIGGERED = 0 → Completes i s (fun t => getF t F.DBG_TRACE_STATUS_STATE = 2 ∧
        getF t F.DBG_TRACE_STATUS_TRIGGERED = 1)) ∧
    (st = 1 ∨ st = 2 → en = false → trig = false →
      (s.trace.staging = [] → s.trace.dropped = 0 → Completes i s (fun t => getF t F.DBG_TRACE_STATUS_STATE = 3 ∧
        getF t F.DBG_TRACE_CTRL_EN = 0)) ∧
      (s.trace.staging ≠ [] → Completes i s (fun t => getF t F.DBG_TRACE_STATUS_STATE = st ∧
        getF t F.DBG_TRACE_CTRL_EN = 0 ∧ t.trace = { s.trace with draining := true })))) ∧
  (∀ (s : State), s.power = .on → halted s = false → memQuiet s = true →
    (s.trace.staging = [] → exec .traceRecordWrite s = .next (restLayers s)) ∧
    (∀ r rest, s.trace.staging = r :: rest → (∃ e ∈ s.events.waiting, e.time < r.time) →
      exec .traceRecordWrite s = .next (restLayers s)) ∧
    (∀ r rest, s.trace.staging = r :: rest → (∀ e ∈ s.events.waiting, r.time ≤ e.time) →
      exec .traceRecordWrite s = .next (restLayers (traceAfter
        (traceAppend (traceGap { s with trace := { s.trace with staging := rest } }) r) r)))) ∧
  (∀ (s : State) (r : TraceRec), getF s F.DBG_TRACE_CFG_LOG2SZ ≤ 30 →
    let size := 2 ^ getF s F.DBG_TRACE_CFG_LOG2SZ
    getF (traceAppend s r) F.DBG_TRACE_WPTR = (getF s F.DBG_TRACE_WPTR + 32) % size ∧
    (traceAppend s r).trace.written = s.trace.written + 32) ∧
  (∀ (s : State) (v : BitVec 32) (i : Instr), ready s = true → i ∈ [Instr.globalStop v, .globalResume v] →
    let u := setB (setB s F.DBG_STOP_CTRL_KSTOP_EN (v.toNat.testBit 2)) F.DBG_STOP_CTRL_ON_TRIG (v.toNat.testBit 3)
    let st := getF s F.DBG_STOP_STATUS_STATE
    (v.toNat.testBit 0 = true → st = 0 → Completes i s (fun t => getF t F.DBG_STOP_STATUS_STATE = 1 ∧
      t.stop = { token := s.time, feStopped := [], latest := s.time })) ∧
    (v.toNat.testBit 0 = false ∨ st ≠ 0 → v.toNat.testBit 1 = false ∨ st ≠ 2 → exec i s = .next u) ∧
    (v.toNat.testBit 1 = true → st = 2 →
      let w := setF u F.DBG_STOP_STATUS_STATE 0
      let y := { w with
        stop := { w.stop with feStopped := [] },
        colls := w.colls.map (fun x =>
          { x with paused := x.paused + (w.time - max x.lastRx (getF w (F.DBG_STOP_ENG_TIME 3))) }) }
      let x := forEach ((y.cores.filter (fun p => p.2.stopped)).map (·.1)) y resumeCore
      exec i s = .next (raiseEv (pumpAll x) 0x7104 sevInfo none 0 0 0 (getF x F.DBG_STOP_STATUS_SPREAD_NS)))) ∧
  (∀ (s : State) (c : Nat),
    let k := { getCore s c with stopped := false }
    (k.wait = none → resumeCore s c = setCore s c k) ∧
    (∀ w v n, k.wait = some (.sigw w v) → k.kernel = some n →
      (sigMet (sigGet s n.part w) v.toNat = true → resumeCore s c = setCore (setCore s c k) c (passWait k)) ∧
      (sigMet (sigGet s n.part w) v.toNat = false → resumeCore s c = setCore s c k))) ∧
  (∀ (s : State) (u : StopUnit), s.power = .on → halted s = false → stopUnitOk u = true →
    (getF s F.DBG_STOP_STATUS_STATE ≠ 1 ∨ tokenSeen s u = true → exec (.stopToken u) s = .next s) ∧
    (getF s F.DBG_STOP_STATUS_STATE = 1 → tokenSeen s u = false → Completes (.stopToken u) s (fun t =>
      t.stop.latest = s.time ∧ (getF t F.DBG_STOP_STATUS_STATE = if allStopped t then 2 else 1) ∧
      match u with
      | .frontEnd e => t.stop.feStopped = s.stop.feStopped ++ [e] ∧ getF t (F.DBG_STOP_ENG_TIME e) = s.time % 2 ^ 64
      | .core c => (getCore t c).stopped = true ∧ getF t (F.DBG_STOP_CORE_VALID c) = 1 ∧
          getF t (F.DBG_STOP_CORE_TIME c) = s.time % 2 ^ 64 ∧
          getF t (F.DBG_STOP_CORE_PC c) = (getCore s c).rf.pc % 2 ^ 17))) ∧
  (∀ (s : State) (l : Nat) (f : FlitWord), s.power = .on → halted s = false → l < 48 →
    let period := getF s F.DBG_MARK_CTRL_PERIOD_US
    let k := getLink s l
    let due := 0 < period ∧ linkCarries s l = true ∧ k.lastProbe + period * 1000 ≤ s.time
    let heard := addF (addF (wakeLink s l) (F.LNK_FEC_CORR l) 0) (F.LNK_FEC_UNCORR l) 0
    let probe := flKind f = 3 ∧ flBits f 71 64 = 3 ∧ (getLink heard l).nakSent = false
    (¬ due → exec (.markProbe l) s = .next s) ∧
    (due → exec (.markProbe l) s = .next (traceProbe (setLink s l
      { k with outbox := k.outbox ++ [linkCtl 3 k.probe], probe := (k.probe + 1) % 2 ^ 16, lastProbe := s.time }) 6 l k.probe)) ∧
    (linkHears s l = false → exec (.probeRx l f) s = .next s) ∧
    (linkHears s l = true → flitOk f = false → exec (.probeRx l f) s = .next (discardFlit heard l)) ∧
    (linkHears s l = true → flitOk f = true → ¬ probe → exec (.probeRx l f) s = .next heard) ∧
    (linkHears s l = true → flitOk f = true → probe →
      exec (.probeRx l f) s = .next (traceProbe heard 7 l (flBits f 87 72)))) ∧
  (∀ (s : State) (type l n : Nat), traceProbe s type l n = traceHap s type none false false false (0x600 + l)
    (payloadOf [(0, l), (2, n), (4, getF s (F.LNK_STATUS_PEER_DEV l)), (6, getF s (F.LNK_STATUS_PEER_LINK l))]))

/-- R346 to R349 and R354 to R356. The model's choices: the checks of a flash command and when its bytes are taken
(log entry 75), the corners of the power pins (log entry 77), and which AER bit a failed read sets (log entry 102). -/
def Obligations.HostResetsPowerAndFlash : Prop :=
  (∀ (s : State) (q tag : Nat), ready s = true → memQuiet s = true → q < 1024 →
    let row := if Config.takesNew s.freeCtr q = true then 14 else 15
    let noted := drawn { s with pcie := { s.pcie with
      aer := sput 0 s.pcie.aer (partOf s q) (withBit (sget 0 s.pcie.aer (partOf s q)) row true) } }
    (mayFetch s q = true → (getQueue s q).sq.dev = false → exec (.hostReadTimeout (.ring q)) s = .next (restLayers
      (recomputeAll (raiseQue (setB (queueError noted q) (F.QSTATE_FETCH_ERR q) true) 0x8003 sevError q 0
        (fetchAddr s q))))) ∧
    (mayFetch s q = false ∨ (getQueue s q).sq.dev = true →
      exec (.hostReadTimeout (.ring q)) s = .next (restLayers s)) ∧
    (∀ o, toBegin s q tag 0x30 = some o → s.pcie.up = true → cpSrcHost o.cmd = true → copyReject s o = none →
      exec (.hostReadTimeout (.copy q tag)) s = .next (restLayers (copyPoisoned noted o))) ∧
    (toBegin s q tag 0x30 = none → exec (.hostReadTimeout (.copy q tag)) s = .next (restLayers s))) ∧
  (∀ (s : State) (fn : Nat), ready s = true →
    (1 ≤ fn → fn < 16 → exec (.vfFlr fn) s = .next (partitionReset s fn false none)) ∧
    (let t := partitionReset s 0 false none
     exec .pfFlr s = .next { t with luthier := { t.luthier with
       partRst := t.luthier.partRst.map (fun r => if r.part == 0 then { r with evt := true } else r) } }) ∧
    (∀ p, s.luthier.partRst.find? (fun r => r.part == p) = none →
      (partitionReset s p false none).luthier.partRst = s.luthier.partRst ++
        [{ part := p, since := s.time, drained := false, lut := false, reload := none, evt := false }])) ∧
  (∀ (s : State), 
    let may (u : State) := u.power = .on ∧ u.pins.perst = false ∧ u.luthier.ioRst = false ∧ (ready u = true ∨ 3 < stage u)
    let low := { s with pins := { s.pins with perst := true }, pcie := { Pcie.zero with
      up := s.pcie.up, held := s.pcie.held, msix := s.pcie.msix } }
    let high := { s with pins := { s.pins with perst := false } }
    (s.power = .on → ready s = true → exec .hotReset s = .next (endpointDown s)) ∧
    (s.power = .on → ready s = false → exec .hotReset s = .next { s with pcie := { s.pcie with up := false } }) ∧
    (may s → exec .pcieLinkReturn s = .next (endpointUp s)) ∧
    (¬ may s → exec .pcieLinkReturn s = .next s) ∧
    (s.power ≠ .on → exec .perstN s = .next low) ∧
    (s.power = .on → devState s = 0 → exec .perstN s = .next (endpointDown low)) ∧
    (s.power = .on → devState s ≠ 0 → s.pins.thermtrip = true → exec .perstN s = .next low) ∧
    (s.power = .on → devState s ≠ 0 → s.pins.thermtrip = false → Completes .perstN s (fun t => t.pins.perst = true ∧
      devState t = 0 ∧ getF t F.LUT_STATE_STAGE = 1 ∧ t.mem = [] ∧ t.pcie.up = false ∧ t = warmRequest low)) ∧
    (may high → exec .perstNDeassert s = .next (endpointUp high)) ∧
    (¬ may high → exec .perstNDeassert s = .next high)) ∧
  (∀ (s : State),
    let hit (o : OpenCmd) : Bool := engineOf s o.q == 3 && cOpcode o.cmd == 0x30 && cpDstHost o.cmd && !o.begun
    endpointDown s = forEach (s.open_.filter hit) { s with pcie := { s.pcie with up := false } }
      (fun s o => answer (copyFree s o) o.q o.tag (codeResult stLinkReset 0) 0)) ∧
  (∀ (s : State) (vin : Nat),
    let on := { s with pins := { s.pins with pwrEn := true } }
    let starts := vinStarts s vin
    let high := !starts && (s.pins.vinHigh || decide (inputThreshold 2 < vin))
    let judged := { on with pins := { on.pins with vinOk := starts, vinHigh := high } }
    (s.power = .off → starts = true → exec (.pwrEnAssert vin) s = .next { judged with power := .rising }) ∧
    (s.power = .off → starts = false → exec (.pwrEnAssert vin) s = .next judged) ∧
    (s.power = .holdoff → exec (.pwrEnAssert vin) s = .next judged) ∧
    (s.power = .on ∨ s.power = .rising → exec (.pwrEnAssert vin) s = .next on) ∧
    (s.power = .on ∨ s.power = .rising → Completes .pwrEnDeassert s (fun t => t.power = .holdoff ∧ t.pins.pwrEn = false ∧
      t.mem = [] ∧ t.queues = [] ∧ t.hostMem = s.hostMem ∧ (s.flashOp = none → t.flash = s.flash))) ∧
    (s.power = .off ∨ s.power = .holdoff → exec .pwrEnDeassert s = .next { s with pins := { s.pins with pwrEn := false } }) ∧
    (s.power = .holdoff → exec .powerOnHoldoffEnd s = .next { s with
      power := if s.pins.pwrEn && s.pins.vinOk then .rising else .off }) ∧
    (s.power ≠ .holdoff → exec .powerOnHoldoffEnd s = .next s)) ∧
  (∀ (s : State) (mgmt : Bool) (v : BitVec 32) (i : Instr), ready s = true →
    i ∈ [Instr.erase64k mgmt v, .program mgmt v] →
    let op := v.toNat % 4
    let u := setF (setF s F.NVM_CMD_OP v.toNat) F.NVM_CMD_LEN1 (v.toNat / 4)
    let a := getF s F.NVM_ADDR
    let n := if op = 1 then 65536 else v.toNat / 4 % 2 ^ 9 + 1
    let misaligned := if op = 1 then a % 65536 ≠ 0 else 256 < a % 256 + n
    let busy := getF s F.NVM_STATUS_BUSY = 1 ∨ getF s F.LUT_RELOAD_BUSY = 1
    (v.toNat.testBit 31 = false ∨ op = 0 ∨ op = 3 → exec i s = .next u) ∧
    (v.toNat.testBit 31 = true → op = 1 ∨ op = 2 →
      (misaligned → exec i s = .next (nvmFail u 1)) ∧
      (¬ misaligned → nvmProtected s a n = true → exec i s = .next (nvmFail u 2)) ∧
      (¬ misaligned → nvmProtected s a n = false → busy → exec i s = .next (nvmFail u 3)) ∧
      (¬ misaligned → nvmProtected s a n = false → ¬ busy →
        let w := setB (setB u F.NVM_STATUS_BUSY true) F.NVM_STATUS_SOURCE mgmt
        let buf := (List.range 64).flatMap (fun k => bytesOf 4 (getF s (F.NVM_BUF k)))
        let begun : FlashOp := { erase := op == 1, addr := a, bytes := if op = 1 then [] else buf.take n }
        exec i s = .next { w with flashOp := some begun }))) ∧
  (∀ (s : State) (code : Nat),
    let u := setF (setB s F.NVM_STATUS_ERR true) F.NVM_STATUS_ERR_CODE code
    nvmFail s code = raiseEv u 0x6007 sevWarn none 0x23 0xB00004 (getF u F.NVM_ADDR) code) ∧
  (∀ (s : State) (ok : Bool), s.power = .on →
    (s.flashOp = none → exec (.nvmDone ok) s = .next s) ∧
    (∀ o, s.flashOp = some o →
      let well := { setB s F.NVM_STATUS_BUSY false with flash := flashApply s.flash o, flashOp := none }
      let ill := nvmFail (cutFlash (setB s F.NVM_STATUS_BUSY false)) 4
      (s.luthier.reloadWaits = none ∨ ready s = false → exec (.nvmDone true) s = .next well ∧
        exec (.nvmDone false) s = .next ill) ∧
      (∀ ty part slot, s.luthier.reloadWaits = some (ty, part, slot) → ready s = true →
        let went := { well with luthier := { well.luthier with reloadWaits := none } }
        exec (.nvmDone true) s = .next (reloadNow (setB went F.LUT_RELOAD_BUSY false) ty part slot)) ∧
      (o.erase = true → ∀ x, o.addr ≤ x → x < o.addr + 65536 → slook (flashApply s.flash o) x = none) ∧
      (o.erase = false → ∀ k, k < o.bytes.length →
        (slook (flashApply s.flash o) (o.addr + k)).getD 0xFF#8 = o.bytes.getD k 0#8)))

/-- R4, R5, R294, R295, R348, R350 and R351. The model's choices: the corners of the management target (log entry
76), the widths of a write of LUT_RESET in HALTED (log entry 82), and the fields beside a locked one (log entry 43).
`acting` lists the registers whose write does more than its fields take, `shown` those that read other state. -/
def Obligations.RegisterAndManagementAccesses : Prop :=
  (∀ (s : State) (fn off size : Nat) (bar2 : Bool) (v : BitVec 64), fn < 16 →
    let i := Instr.registerWrite fn bar2 off size v
    (accessOk off size = false → exec i s = .next s) ∧
    (ready s = false → halted s = false → exec i s = .next s) ∧
    (halted s = true → fn ≠ 0 ∨ bar2 = true ∨ off ≠ 0x10010 → exec i s = .next s) ∧
    (s.power = .on → halted s = true → fn = 0 → bar2 = false → off = 0x10010 → accessOk off size = true →
      (v.toNat.testBit 31 = true ∧ v.toNat % 8 = 4 → exec i s = .next (warmRequest s)) ∧
      (v.toNat.testBit 31 = false ∨ v.toNat % 8 ≠ 4 → exec i s = .next s)) ∧
    (ready s = true → accessOk off size = true →
      (bar2 = false → fn ≠ 0 → exec i s = .next s) ∧
      (bar2 = false → fn = 0 → 0x4000000 ≤ off → exec i s = .next s) ∧
      (bar2 = true → bar2On s fn = false → exec i s = .next s) ∧
      (bar2 = true → bar2On s fn = true → off < 0x400000 → queueAt s fn (off / 0x1000) = none → exec i s = .next s) ∧
      (∀ d k, bar2 = false → fn = 0 → size = 4 → off < 0x110000 → findReg off = some (d, k) → d.width ≤ 32 →
        exec i s = .next (wholeWrite s false d k (v.toNat % 2 ^ 32))))) ∧
  (let acting : List Nat := [0x10010, 0x10018, 0x10300, 0x50030, 0x50060, 0x3001C, 0x40A04, 0x60000, 0x60008, 0x6000C,
      0xB00004, 0x400000, 0x210000, 0x210044, 0x300010, 0x300020, 0x400004, 0x50000, 0x500014, 0x500018, 0x500024,
      0x500080, 0x600004, 0x700008, 0x701004, 0x80000C, 0x900000, 0x900008, 0x900010, 0x900030, 0x90003C]
   let shown : List Nat := [0x18, 0x101000, 0x101080, 0x110030, 0x300080, 0x3000A0, 0x40000, 0x20014, 0x20100, 0x210024,
      0x210100, 0x210400, 0x500008, 0x50001C, 0x500024, 0x500080, 0x700004, 0x700018, 0x800010, 0x1030C]
   ∀ (s : State) (d : RegDesc) (k : Nat) (v : BitVec 64), ready s = true → d ∈ regTable →
    findReg (d.off + k) = some (d, k) → d.off + k < 0x110000 ∨ (0x150000 ≤ d.off + k ∧ d.off + k < 0x4000000) →
    (d.off ∉ acting → accessOk (d.off + k) (d.width / 8) = true → ∃ u,
      let locked := d.flds.any (fun x => x.acc == .rwl)
      let noted := if locked = true then Raised u 0x6001 sevWarn none 0x23 (d.off + k) 0 (v.toNat % 2 ^ d.width) else u
      exec (.registerWrite 0 false (d.off + k) (d.width / 8) v) s =
        .next (if allLocked d = true then noted else applyRanges noted d.off k (v.toNat % 2 ^ d.width)) ∧
      SameOutsideFields s u ∧
      (∀ f : Fld, (∀ x ∈ d.flds, f.key ≠ (x.fld.shift k).key) → getF u f = getF s f) ∧
      ∀ x ∈ d.flds, ∀ j, j < x.fld.width →
        let was := (getF s (x.fld.shift k)).testBit j
        let got := (getF u (x.fld.shift k)).testBit j
        let sent := v.toNat.testBit (x.fld.key % 128 + j)
        (x.acc = .ro ∨ x.acc = .rwl → got = was) ∧ (x.acc = .rw → got = sent) ∧
        (x.acc = .wo → 1 < x.fld.width → got = sent) ∧ (x.acc = .w1c → got = (was && !sent))) ∧
    (d.off ∉ shown → ∀ m, m < d.width / 32 → findReg (d.off + k + 4 * m) = some (d, k) → ∀ j, j < 32 →
      (regRead32 s (d.off + k + 4 * m)).testBit j = d.flds.any (fun x => x.acc != .wo &&
        decide (x.fld.key % 128 ≤ 32 * m + j) && decide (32 * m + j < x.fld.key % 128 + x.fld.width) &&
        (getF s (x.fld.shift k)).testBit (32 * m + j - x.fld.key % 128)))) ∧
  (∀ (s : State) (off k raw : Nat),
    ((∀ r ∈ rangesOf off k, r.2.1 ≤ getF s r.1 ∧ getF s r.1 ≤ r.2.2 s) → applyRanges s off k raw = s) ∧
    (∀ r, rangesOf off k = [r] → getF s r.1 < r.2.1 ∨ r.2.2 s < getF s r.1 →
      applyRanges s off k raw = raiseCfg (setF s r.1 r.1.reset) 0x6002 (off + k) raw)) ∧
  (∀ (s : State) (bytes : List Byte) (i : Instr), i ∈ [Instr.read bytes, .write bytes, .summary bytes] →
    (∀ a rest, bytes = a :: rest →
      let addr := a.toNat / 2
      let heard := (ready s = true ∨ (s.power = .on ∧ halted s = true)) ∧ mgmtAddr s addr = true ∧ a.toNat % 2 = 0 ∧ rest ≠ []
      let answers (body : List Byte) (t : State) := t.mgmt.resp = body ++ [pec (BitVec.ofNat 8 (2 * addr + 1) :: body)]
      (¬ heard → exec i s = .next s) ∧
      (heard → pec bytes ≠ 0#8 → Completes i s (fun t => answers [2#8] t ∧
        getF t F.MGT_STATUS_PEC_ERRS = min (getF s F.MGT_STATUS_PEC_ERRS + 1) (2 ^ 16 - 1))) ∧
      (heard → pec bytes = 0#8 →
        (∀ b0 b1 b2 b3, rest.dropLast = [1#8, b0, b1, b2, b3] →
          let off := natOf [b0, b1, b2, b3]
          (off % 4 ≠ 0 ∨ mgmtReach off = false → Completes i s (fun t => ∃ free : List Byte, free.length = 4 ∧
            answers (3#8 :: free) t)) ∧
          (off % 4 = 0 → mgmtReach off = true → halted s = true → 0x20000 ≤ off →
            Completes i s (answers (4#8 :: List.replicate 4 0xFF#8))) ∧
          (off % 4 = 0 → mgmtReach off = true → halted s = false ∨ off < 0x20000 →
            Completes i s (answers (0#8 :: bytesOf 4 (regRead32 s off))))) ∧
        (∀ b0 b1 b2 b3 w0 w1 w2 w3, rest.dropLast = [2#8, b0, b1, b2, b3, w0, w1, w2, w3] →
          let off := natOf [b0, b1, b2, b3]
          let val := natOf [w0, w1, w2, w3]
          (off % 4 ≠ 0 ∨ mgmtReach off = false → Completes i s (answers [3#8])) ∧
          (off % 4 = 0 → mgmtReach off = true → ready s = true →
            exec i s = .next (regWrite (respond s addr 0 []) true off 4 val)) ∧
          (off % 4 = 0 → mgmtReach off = true → halted s = true → off ≠ 0x10010 → Completes i s (answers [4#8]))) ∧
        (rest.dropLast = [3#8] → ready s = true → Completes i s (answers
          (0#8 :: (bytesOf 4 (regRead32 s 0x10) ++ bytesOf 4 (regRead32 s 0x20008) ++ bytesOf 4 (regRead32 s 0x30004)))))))) ∧
  (∀ (s : State) (addr : BitVec 7),
    (ready s = true ∨ (s.power = .on ∧ halted s = true) → Completes (.dynamicAddress addr) s (fun t =>
      getF t F.MGT_STATUS_DYN_ADDR = addr.toNat ∧ SameOutsideFields s t)) ∧
    (s.power ≠ .on ∨ devState s = 0 → exec (.dynamicAddress addr) s = .next s)) ∧
  (∀ (s : State) (fn off size : Nat) (bar2 : Bool),
    let ok := accessOk off size = true ∧ fn < 16 ∧ ((bar2 = true ∧ off < 0x800000) ∨ (bar2 = false ∧ fn = 0 ∧ off < 0x10000000))
    (¬ ok → barRead s fn bar2 off size = .unsupported) ∧
    (ready s = false → s.power ≠ .on ∨ halted s = false → barRead s fn bar2 off size = .unsupported) ∧
    (ok → s.power = .on → halted s = true → bar2 = false → off < 0x20000 → size = 4 →
      barRead s fn bar2 off size = .data (regRead32 s off)) ∧
    (ok → s.power = .on → halted s = true → bar2 = true ∨ 0x20000 ≤ off →
      barRead s fn bar2 off size = .data (2 ^ (8 * size) - 1)) ∧
    (ok → ready s = true → bar2 = false → size = 4 → barRead s fn bar2 off size = .data (regRead32 s off)) ∧
    (ok → ready s = true → bar2 = false → size = 8 →
      barRead s fn bar2 off size = .data (regRead32 s off + regRead32 s (off + 4) * 2 ^ 32)) ∧
    (ok → ready s = true → bar2 = true → bar2On s fn = false → barRead s fn bar2 off size = .data 0) ∧
    (ok → ready s = true → bar2 = true → bar2On s fn = true → size = 4 →
      (∀ w, w < 4096 → off = 0x400000 + 4 * w → barRead s fn bar2 off size = .data (sigGet s fn w)) ∧
      (∀ n, n < 32 → off = 0x500000 + 8 * n → barRead s fn bar2 off size = .data (getF s (F.CNT fn n) % 2 ^ 32))) ∧
    (ready s = false ∨ bar2 = true → hostReadEffect s fn bar2 off size = s) ∧
    (∀ c, ok → ready s = true → bar2 = false → size = 4 → c < 76 → off = 0x40000 + 16 * c →
      hostReadEffect s fn bar2 off size = vminLatch s c) ∧
    (ok → ready s = true → bar2 = false → size = 4 → off = 0x1030C → hostReadEffect s fn bar2 off size = exportRead s)) ∧
  (∀ (s : State),
    (s.power ≠ .on → configAnswer s = .noAnswer) ∧
    (s.power = .on → devState s = 0 → configAnswer s = .retry) ∧
    (s.power = .on → devState s ≠ 0 → configAnswer s = .success))

/-- R6, for every RW-L field of every register that the physical function reaches in BAR0. That the fields beside
it take the write, and the event of a write of the present value, are the model's choices (log entry 43). -/
def Obligations.LockedFieldsKeepTheirValue : Prop :=
  ∀ (s : State) (d : RegDesc) (x : FldDesc) (k : Nat) (v : BitVec 64),
    ready s = true → d ∈ regTable → x ∈ d.flds → x.acc = .rwl → findReg (d.off + k) = some (d, k) →
    let f := x.fld.shift k
    (accessOk (d.off + k) (d.width / 8) = true →
      let raw := v.toNat % 2 ^ d.width
      let t := if allLocked d = true then Raised s 0x6001 sevWarn none 0x23 (d.off + k) 0 raw
        else applyRanges (Raised (writeFlds s d k raw true) 0x6001 sevWarn none 0x23 (d.off + k) 0 raw) d.off k raw
      exec (.registerWrite 0 false (d.off + k) (d.width / 8) v) s = .next t ∧ getF t f = getF s f) ∧
    (d.width = 64 → findReg (d.off + k + 4) = some (d, k) → allLocked d = true ∧
      exec (.registerWrite 0 false (d.off + k) 4 v) s = .next { s with mgmt := { s.mgmt with
        lowWord := sins s.mgmt.lowWord (d.off + k) (v.toNat % 2 ^ 32) } } ∧
      (let low := (slook s.mgmt.lowWord (d.off + k)).getD (regBits s d k % 2 ^ 32)
       let raw := low + v.toNat % 2 ^ 32 * 2 ^ 32
       let u := { s with mgmt := { s.mgmt with lowWord := sdel s.mgmt.lowWord (d.off + k) } }
       let t := Raised u 0x6001 sevWarn none 0x23 (d.off + k) 0 raw
       exec (.registerWrite 0 false (d.off + k + 4) 4 v) s = .next t ∧ getF t f = getF s f))

/-- R295: only a device warm reset or a power-on reset leaves HALTED. The commands named are those that can
ask for one, and the removal of power. -/
def Obligations.HaltedIsLeftOnlyByResetOrPower : Prop :=
  let leaves (i : Instr) : Prop :=
    (∃ v : BitVec 32, v.toNat % 8 = 4 ∧ v.toNat.testBit 31 = true ∧ i ∈ [Instr.coreReset v, .clusterReset v,
      .partitionReset v, .soundboardIoReset v, .deviceWarmReset v]) ∨
    (∃ size v, v.toNat % 8 = 4 ∧ v.toNat.testBit 31 = true ∧ i = .registerWrite 0 false 0x10010 size v) ∨
    (∃ b : List Byte, (∃ a b0 b1 b2 b3 p, b = [a, 2#8, 0x10#8, 0x00#8, 0x01#8, 0x00#8, b0, b1, b2, b3, p] ∧
      natOf [b0, b1, b2, b3] % 8 = 4 ∧ (natOf [b0, b1, b2, b3]).testBit 31 = true) ∧
      i ∈ [Instr.read b, .write b, .summary b]) ∨
    (∃ slot, i = .powerOnReset slot) ∨ (∃ vin, i = .inputVoltageStop vin) ∨ i = .perstN ∨ i = .pwrEnDeassert
  let inv (s : State) : Prop := s.power = .on ∧ devState s = 3 ∧ ∀ i ∈ s.waiting ++ s.pending, ¬ leaves i
  ∀ s t : State, inv s → step s = .next t → inv t

/-- The state after reset. Where the manual gives no reset value, the value is the model's choice (log entry 3). -/
def Obligations.ResetState : Prop :=
  let s := State.reset
  s.power = .on ∧ devState s = 0 ∧ getF s F.LUT_STATE_STAGE = 0 ∧ s.time = 0 ∧ s.pending = [] ∧ s.mem = [] ∧
  s.open_ = [] ∧ s.queues = [] ∧ s.cores = [] ∧ s.events.waiting = [] ∧ Memory.wf s = true ∧
  (∀ f : Fld, getF s f = f.reset % 2 ^ f.width) ∧ ready s = false ∧ halted s = false

/-- The canonical form of the memories is kept by every step. The form itself is the model's own (log entry 4). -/
def Obligations.MemoriesKeepTheirCanonicalForm : Prop :=
  ∀ s t : State, Memory.wf s = true → step s = .next t → Memory.wf t = true
end

