-- ==== Sys2Proof/Laws/Gates.lean ====
section
/-! SUPPORT. The gates under which a command acts, and what a gate that is shut gives. -/

namespace Sys2Proof.Machine

@[simp] theorem onUnit_true (t : State) : onUnit true t = .next t := rfl
@[simp] theorem onUnit_false (t : State) : onUnit false t = .fault .noSuchUnit := rfl
@[simp] theorem done_eq (t : State) : done t = .next t := rfl

theorem onUnit_eq_next {ok : Bool} {t u : State} : onUnit ok t = .next u ↔ ok = true ∧ t = u := by
  cases ok <;> simp [onUnit]

theorem inService_ready {s : State} (f : State → State) (h : ready s = true) : inService s f = f s := by
  simp [inService, h]

theorem inService_shut {s : State} (f : State → State) (h : ready s = false) : inService s f = s := by
  simp [inService, h]

theorem live_on {s : State} (f : State → State) (hp : s.power = .on) (hh : halted s = false) : live s f = f s := by
  simp [live, hp, hh]

theorem live_shut {s : State} (f : State → State) (hh : halted s = true) : live s f = s := by
  simp [live, hh]

theorem powered_on {s : State} (f : State → State) (hp : s.power = .on) : powered s f = f s := by
  simp [powered, hp]

theorem atStage_at {s : State} {n : Nat} (f : State → State) (hp : s.power = .on) (hd : devState s = 0)
    (hs : getF s F.LUT_STATE_STAGE = n) : atStage s n f = f s := by
  simp [atStage, hp, hd, hs]

theorem atStage_shut {s : State} {n : Nat} (f : State → State) (hd : devState s ≠ 0) : atStage s n f = s := by
  simp [atStage, hd]

/-- READY and HALTED exclude each other. -/
theorem not_ready_of_halted {s : State} (h : halted s = true) : ready s = false := by
  simp only [halted, beq_iff_eq] at h
  simp [ready, h]

theorem power_of_ready {s : State} (h : ready s = true) : s.power = .on := by
  simp only [ready, Bool.and_eq_true, beq_iff_eq] at h
  exact h.1

theorem not_halted_of_ready {s : State} (h : ready s = true) : halted s = false := by
  cases hh : halted s with
  | false => rfl
  | true => rw [not_ready_of_halted hh] at h; cases h

end Sys2Proof.Machine
end

