-- ==== Sys2Proof/Laws/Sparse.lean ====
section
/-! SUPPORT. The laws of sparse tables: a read after a write, what a write leaves alone, and that the
canonical form is kept. -/

namespace Sys2Proof.Machine

variable {α : Type}

@[simp] theorem slook_nil (k : Nat) : slook ([] : Sparse α) k = none := rfl

@[simp] theorem slook_sins_self (m : Sparse α) (k : Nat) (v : α) : slook (sins m k v) k = some v := by
  induction m with
  | nil => simp [sins, slook]
  | cons a t ih =>
    obtain ⟨k', w⟩ := a
    simp only [sins]
    split
    · simp [slook]
    · split
      · simp [slook]
      · next h1 h2 => simp [slook, h2, ih]

theorem slook_sins_ne (m : Sparse α) {k j : Nat} (v : α) (h : j ≠ k) : slook (sins m k v) j = slook m j := by
  induction m with
  | nil => simp [sins, slook, h]
  | cons a t ih =>
    obtain ⟨k', w⟩ := a
    simp only [sins]
    split
    · simp [slook, h]
    · split
      · next h2 => subst h2; simp [slook, h]
      · simp [slook, ih]

@[simp] theorem slook_sdel_self (m : Sparse α) (k : Nat) : slook (sdel m k) k = none := by
  induction m with
  | nil => rfl
  | cons a t ih =>
    obtain ⟨k', w⟩ := a
    simp only [sdel]
    split
    · exact ih
    · next h => simp [slook, h, ih]

theorem slook_sdel_ne (m : Sparse α) {k j : Nat} (h : j ≠ k) : slook (sdel m k) j = slook m j := by
  induction m with
  | nil => rfl
  | cons a t ih =>
    obtain ⟨k', w⟩ := a
    simp only [sdel]
    split
    · next h2 => subst h2; simp [slook, h, ih]
    · simp [slook, ih]

@[simp] theorem sget_sput_self [DecidableEq α] (d : α) (m : Sparse α) (k : Nat) (v : α) :
    sget d (sput d m k v) k = v := by
  unfold sput sget
  split
  · next h => simp [h]
  · simp

theorem sget_sput_ne [DecidableEq α] (d : α) (m : Sparse α) {k j : Nat} (v : α) (h : j ≠ k) :
    sget d (sput d m k v) j = sget d m j := by
  unfold sput sget
  split
  · rw [slook_sdel_ne m h]
  · rw [slook_sins_ne m v h]

/-- The keys of a table rise strictly from a bound. -/
def above (b : Nat) : Sparse α → Bool
  | [] => true
  | (k, _) :: t => decide (b ≤ k) && above (k + 1) t

theorem sorted_cons (k : Nat) (v : α) (t : Sparse α) : sorted ((k, v) :: t) = above (k + 1) t := by
  induction t generalizing k v with
  | nil => rfl
  | cons a t ih =>
    obtain ⟨k', w⟩ := a
    simp only [sorted, above, ih k' w]
    rfl

theorem above_mono {b c : Nat} (h : c ≤ b) (m : Sparse α) (hm : above b m = true) : above c m = true := by
  cases m with
  | nil => rfl
  | cons a t =>
    obtain ⟨k, v⟩ := a
    simp only [above, Bool.and_eq_true, decide_eq_true_eq] at *
    exact ⟨by omega, hm.2⟩

theorem above_sins (m : Sparse α) (b k : Nat) (v : α) (hb : b ≤ k) (hm : above b m = true) :
    above b (sins m k v) = true := by
  induction m generalizing b with
  | nil => simp [sins, above, hb]
  | cons a t ih =>
    obtain ⟨k', w⟩ := a
    simp only [above, Bool.and_eq_true, decide_eq_true_eq] at hm
    simp only [sins]
    split
    · next h => simp only [above, Bool.and_eq_true, decide_eq_true_eq]; exact ⟨hb, by omega, hm.2⟩
    · split
      · next h => subst h; simp only [above, Bool.and_eq_true, decide_eq_true_eq]; exact ⟨hb, hm.2⟩
      · next h1 h2 =>
        simp only [above, Bool.and_eq_true, decide_eq_true_eq]
        exact ⟨hm.1, ih _ (by omega) hm.2⟩

theorem above_sdel (m : Sparse α) (b k : Nat) (hm : above b m = true) : above b (sdel m k) = true := by
  induction m generalizing b with
  | nil => rfl
  | cons a t ih =>
    obtain ⟨k', w⟩ := a
    simp only [above, Bool.and_eq_true, decide_eq_true_eq] at hm
    simp only [sdel]
    split
    · exact ih b (above_mono (by omega) t hm.2)
    · simp only [above, Bool.and_eq_true, decide_eq_true_eq]
      exact ⟨hm.1, ih _ hm.2⟩

theorem sorted_eq_above (m : Sparse α) : sorted m = above 0 m := by
  cases m with
  | nil => rfl
  | cons a t =>
    obtain ⟨k, v⟩ := a
    rw [sorted_cons]
    simp [above]

/-- Listing an entry keeps the order. -/
theorem sorted_sins (m : Sparse α) (k : Nat) (v : α) (h : sorted m = true) : sorted (sins m k v) = true := by
  rw [sorted_eq_above] at *
  exact above_sins m 0 k v (by omega) h

/-- Unlisting an entry keeps the order. -/
theorem sorted_sdel (m : Sparse α) (k : Nat) (h : sorted m = true) : sorted (sdel m k) = true := by
  rw [sorted_eq_above] at *
  exact above_sdel m 0 k h

theorem sorted_sput [DecidableEq α] (d : α) (m : Sparse α) (k : Nat) (v : α) (h : sorted m = true) :
    sorted (sput d m k v) = true := by
  unfold sput
  split
  · exact sorted_sdel m k h
  · exact sorted_sins m k v h

theorem all_sins (p : Nat × α → Bool) (m : Sparse α) (k : Nat) (v : α) (h : m.all p = true) (hv : p (k, v) = true) :
    (sins m k v).all p = true := by
  induction m with
  | nil => simp [sins, hv]
  | cons a t ih =>
    obtain ⟨k', w⟩ := a
    simp only [List.all_cons, Bool.and_eq_true] at h
    simp only [sins]
    split
    · simp [hv, h.1, h.2]
    · split
      · simp [hv, h.2]
      · simp only [List.all_cons, Bool.and_eq_true]; exact ⟨h.1, ih h.2⟩

theorem all_sdel (p : Nat × α → Bool) (m : Sparse α) (k : Nat) (h : m.all p = true) : (sdel m k).all p = true := by
  induction m with
  | nil => rfl
  | cons a t ih =>
    obtain ⟨k', w⟩ := a
    simp only [List.all_cons, Bool.and_eq_true] at h
    simp only [sdel]
    split
    · exact ih h.2
    · simp only [List.all_cons, Bool.and_eq_true]; exact ⟨h.1, ih h.2⟩

/-- A write keeps the canonical form: no entry equals the default. -/
theorem swf_sput [DecidableEq α] (d : α) (m : Sparse α) (k : Nat) (v : α) (h : swf d m = true) :
    swf d (sput d m k v) = true := by
  unfold swf at *
  simp only [Bool.and_eq_true] at *
  refine ⟨sorted_sput d m k v h.1, ?_⟩
  unfold sput
  split
  · exact all_sdel _ m k h.2
  · next hv => exact all_sins _ m k v h.2 (by simp [hv])

/-- Dropping entries keeps the order. -/
theorem above_filter (p : Nat × α → Bool) (m : Sparse α) (b : Nat) (h : above b m = true) :
    above b (m.filter p) = true := by
  induction m generalizing b with
  | nil => rfl
  | cons a t ih =>
    obtain ⟨k', w⟩ := a
    simp only [above, Bool.and_eq_true, decide_eq_true_eq] at h
    simp only [List.filter_cons]
    split
    · simp only [above, Bool.and_eq_true, decide_eq_true_eq]; exact ⟨h.1, ih _ h.2⟩
    · exact ih _ (above_mono (by omega) t h.2)

theorem swf_filter [DecidableEq α] (d : α) (p : Nat × α → Bool) (m : Sparse α) (h : swf d m = true) :
    swf d (m.filter p) = true := by
  unfold swf at *
  simp only [Bool.and_eq_true] at *
  refine ⟨?_, ?_⟩
  · rw [sorted_eq_above] at *
    exact above_filter p m 0 h.1
  · simp only [List.all_eq_true, List.mem_filter] at *
    exact fun x hx => h.2 x hx.1

end Sys2Proof.Machine
end

