-- ==== Sys2Proof/Laws/State.lean ====
section
/-! SUPPORT. What each named update of the state leaves alone: one lemma for each field and update. -/

namespace Sys2Proof.Machine

@[simp] theorem setF_pending (s : State) (f : Fld) (v : Nat) : (setF s f v).pending = s.pending := rfl
@[simp] theorem setF_time (s : State) (f : Fld) (v : Nat) : (setF s f v).time = s.time := rfl
@[simp] theorem setF_freeCtr (s : State) (f : Fld) (v : Nat) : (setF s f v).freeCtr = s.freeCtr := rfl
@[simp] theorem setF_memEpoch (s : State) (f : Fld) (v : Nat) : (setF s f v).memEpoch = s.memEpoch := rfl
@[simp] theorem setF_power (s : State) (f : Fld) (v : Nat) : (setF s f v).power = s.power := rfl
@[simp] theorem setF_pins (s : State) (f : Fld) (v : Nat) : (setF s f v).pins = s.pins := rfl
@[simp] theorem setF_pcie (s : State) (f : Fld) (v : Nat) : (setF s f v).pcie = s.pcie := rfl
@[simp] theorem setF_mgmt (s : State) (f : Fld) (v : Nat) : (setF s f v).mgmt = s.mgmt := rfl
@[simp] theorem setF_queues (s : State) (f : Fld) (v : Nat) : (setF s f v).queues = s.queues := rfl
@[simp] theorem setF_turns (s : State) (f : Fld) (v : Nat) : (setF s f v).turns = s.turns := rfl
@[simp] theorem setF_open (s : State) (f : Fld) (v : Nat) : (setF s f v).open_ = s.open_ := rfl
@[simp] theorem setF_sigs (s : State) (f : Fld) (v : Nat) : (setF s f v).sigs = s.sigs := rfl
@[simp] theorem setF_mem (s : State) (f : Fld) (v : Nat) : (setF s f v).mem = s.mem := rfl
@[simp] theorem setF_hostMem (s : State) (f : Fld) (v : Nat) : (setF s f v).hostMem = s.hostMem := rfl
@[simp] theorem setF_hostPoison (s : State) (f : Fld) (v : Nat) : (setF s f v).hostPoison = s.hostPoison := rfl
@[simp] theorem setF_flash (s : State) (f : Fld) (v : Nat) : (setF s f v).flash = s.flash := rfl
@[simp] theorem setF_flashOp (s : State) (f : Fld) (v : Nat) : (setF s f v).flashOp = s.flashOp := rfl
@[simp] theorem setF_saddles (s : State) (f : Fld) (v : Nat) : (setF s f v).saddles = s.saddles := rfl
@[simp] theorem setF_saddleHolds (s : State) (f : Fld) (v : Nat) : (setF s f v).saddleHolds = s.saddleHolds := rfl
@[simp] theorem setF_evac (s : State) (f : Fld) (v : Nat) : (setF s f v).evac = s.evac := rfl
@[simp] theorem setF_layerRst (s : State) (f : Fld) (v : Nat) : (setF s f v).layerRst = s.layerRst := rfl
@[simp] theorem setF_layerDead (s : State) (f : Fld) (v : Nat) : (setF s f v).layerDead = s.layerDead := rfl
@[simp] theorem setF_scrubbed (s : State) (f : Fld) (v : Nat) : (setF s f v).scrubbed = s.scrubbed := rfl
@[simp] theorem setF_channelOut (s : State) (f : Fld) (v : Nat) : (setF s f v).channelOut = s.channelOut := rfl
@[simp] theorem setF_channelBad (s : State) (f : Fld) (v : Nat) : (setF s f v).channelBad = s.channelBad := rfl
@[simp] theorem setF_stalled (s : State) (f : Fld) (v : Nat) : (setF s f v).stalled = s.stalled := rfl
@[simp] theorem setF_waiting (s : State) (f : Fld) (v : Nat) : (setF s f v).waiting = s.waiting := rfl
@[simp] theorem setF_spareCoils (s : State) (f : Fld) (v : Nat) : (setF s f v).spareCoils = s.spareCoils := rfl
@[simp] theorem setF_thruOpen (s : State) (f : Fld) (v : Nat) : (setF s f v).thruOpen = s.thruOpen := rfl
@[simp] theorem setF_tlb (s : State) (f : Fld) (v : Nat) : (setF s f v).tlb = s.tlb := rfl
@[simp] theorem setF_inval (s : State) (f : Fld) (v : Nat) : (setF s f v).inval = s.inval := rfl
@[simp] theorem setF_seqs (s : State) (f : Fld) (v : Nat) : (setF s f v).seqs = s.seqs := rfl
@[simp] theorem setF_nodes (s : State) (f : Fld) (v : Nat) : (setF s f v).nodes = s.nodes := rfl
@[simp] theorem setF_grants (s : State) (f : Fld) (v : Nat) : (setF s f v).grants = s.grants := rfl
@[simp] theorem setF_pages (s : State) (f : Fld) (v : Nat) : (setF s f v).pages = s.pages := rfl
@[simp] theorem setF_poolLast (s : State) (f : Fld) (v : Nat) : (setF s f v).poolLast = s.poolLast := rfl
@[simp] theorem setF_steered (s : State) (f : Fld) (v : Nat) : (setF s f v).steered = s.steered := rfl
@[simp] theorem setF_attends (s : State) (f : Fld) (v : Nat) : (setF s f v).attends = s.attends := rfl
@[simp] theorem setF_cores (s : State) (f : Fld) (v : Nat) : (setF s f v).cores = s.cores := rfl
@[simp] theorem setF_clusters (s : State) (f : Fld) (v : Nat) : (setF s f v).clusters = s.clusters := rfl
@[simp] theorem setF_loads (s : State) (f : Fld) (v : Nat) : (setF s f v).loads = s.loads := rfl
@[simp] theorem setF_bells (s : State) (f : Fld) (v : Nat) : (setF s f v).bells = s.bells := rfl
@[simp] theorem setF_coreSite (s : State) (f : Fld) (v : Nat) : (setF s f v).coreSite = s.coreSite := rfl
@[simp] theorem setF_updOf (s : State) (f : Fld) (v : Nat) : (setF s f v).updOf = s.updOf := rfl
@[simp] theorem setF_groups (s : State) (f : Fld) (v : Nat) : (setF s f v).groups = s.groups := rfl
@[simp] theorem setF_groupStage (s : State) (f : Fld) (v : Nat) : (setF s f v).groupStage = s.groupStage := rfl
@[simp] theorem setF_groupStaged (s : State) (f : Fld) (v : Nat) : (setF s f v).groupStaged = s.groupStaged := rfl
@[simp] theorem setF_pstore (s : State) (f : Fld) (v : Nat) : (setF s f v).pstore = s.pstore := rfl
@[simp] theorem setF_units (s : State) (f : Fld) (v : Nat) : (setF s f v).units = s.units := rfl
@[simp] theorem setF_upds (s : State) (f : Fld) (v : Nat) : (setF s f v).upds = s.upds := rfl
@[simp] theorem setF_noc (s : State) (f : Fld) (v : Nat) : (setF s f v).noc = s.noc := rfl
@[simp] theorem setF_routes (s : State) (f : Fld) (v : Nat) : (setF s f v).routes = s.routes := rfl
@[simp] theorem setF_nocNext (s : State) (f : Fld) (v : Nat) : (setF s f v).nocNext = s.nocNext := rfl
@[simp] theorem setF_nocHeld (s : State) (f : Fld) (v : Nat) : (setF s f v).nocHeld = s.nocHeld := rfl
@[simp] theorem setF_routeChanges (s : State) (f : Fld) (v : Nat) : (setF s f v).routeChanges = s.routeChanges := rfl
@[simp] theorem setF_fallbackClear (s : State) (f : Fld) (v : Nat) : (setF s f v).fallbackClear = s.fallbackClear := rfl
@[simp] theorem setF_delivered (s : State) (f : Fld) (v : Nat) : (setF s f v).delivered = s.delivered := rfl
@[simp] theorem setF_links (s : State) (f : Fld) (v : Nat) : (setF s f v).links = s.links := rfl
@[simp] theorem setF_switch (s : State) (f : Fld) (v : Nat) : (setF s f v).switch = s.switch := rfl
@[simp] theorem setF_recvs (s : State) (f : Fld) (v : Nat) : (setF s f v).recvs = s.recvs := rfl
@[simp] theorem setF_colGroups (s : State) (f : Fld) (v : Nat) : (setF s f v).colGroups = s.colGroups := rfl
@[simp] theorem setF_colls (s : State) (f : Fld) (v : Nat) : (setF s f v).colls = s.colls := rfl
@[simp] theorem setF_retries (s : State) (f : Fld) (v : Nat) : (setF s f v).retries = s.retries := rfl
@[simp] theorem setF_colTags (s : State) (f : Fld) (v : Nat) : (setF s f v).colTags = s.colTags := rfl
@[simp] theorem setF_stretch (s : State) (f : Fld) (v : Nat) : (setF s f v).stretch = s.stretch := rfl
@[simp] theorem setF_regionClk (s : State) (f : Fld) (v : Nat) : (setF s f v).regionClk = s.regionClk := rfl
@[simp] theorem setF_capo (s : State) (f : Fld) (v : Nat) : (setF s f v).capo = s.capo := rfl
@[simp] theorem setF_vminLatch (s : State) (f : Fld) (v : Nat) : (setF s f v).vminLatch = s.vminLatch := rfl
@[simp] theorem setF_vminFrom (s : State) (f : Fld) (v : Nat) : (setF s f v).vminFrom = s.vminFrom := rfl
@[simp] theorem setF_therm (s : State) (f : Fld) (v : Nat) : (setF s f v).therm = s.therm := rfl
@[simp] theorem setF_fuses (s : State) (f : Fld) (v : Nat) : (setF s f v).fuses = s.fuses := rfl
@[simp] theorem setF_luthier (s : State) (f : Fld) (v : Nat) : (setF s f v).luthier = s.luthier := rfl
@[simp] theorem setF_scopes (s : State) (f : Fld) (v : Nat) : (setF s f v).scopes = s.scopes := rfl
@[simp] theorem setF_portWake (s : State) (f : Fld) (v : Nat) : (setF s f v).portWake = s.portWake := rfl
@[simp] theorem setF_woken (s : State) (f : Fld) (v : Nat) : (setF s f v).woken = s.woken := rfl
@[simp] theorem setF_drones (s : State) (f : Fld) (v : Nat) : (setF s f v).drones = s.drones := rfl
@[simp] theorem setF_postponed (s : State) (f : Fld) (v : Nat) : (setF s f v).postponed = s.postponed := rfl
@[simp] theorem setF_events (s : State) (f : Fld) (v : Nat) : (setF s f v).events = s.events := rfl
@[simp] theorem setF_throttle (s : State) (f : Fld) (v : Nat) : (setF s f v).throttle = s.throttle := rfl
@[simp] theorem setF_trace (s : State) (f : Fld) (v : Nat) : (setF s f v).trace = s.trace := rfl
@[simp] theorem setF_stop (s : State) (f : Fld) (v : Nat) : (setF s f v).stop = s.stop := rfl

@[simp] theorem setB_pending (s : State) (f : Fld) (b : Bool) : (setB s f b).pending = s.pending := rfl
@[simp] theorem setB_time (s : State) (f : Fld) (b : Bool) : (setB s f b).time = s.time := rfl
@[simp] theorem setB_freeCtr (s : State) (f : Fld) (b : Bool) : (setB s f b).freeCtr = s.freeCtr := rfl
@[simp] theorem setB_memEpoch (s : State) (f : Fld) (b : Bool) : (setB s f b).memEpoch = s.memEpoch := rfl
@[simp] theorem setB_power (s : State) (f : Fld) (b : Bool) : (setB s f b).power = s.power := rfl
@[simp] theorem setB_pins (s : State) (f : Fld) (b : Bool) : (setB s f b).pins = s.pins := rfl
@[simp] theorem setB_pcie (s : State) (f : Fld) (b : Bool) : (setB s f b).pcie = s.pcie := rfl
@[simp] theorem setB_mgmt (s : State) (f : Fld) (b : Bool) : (setB s f b).mgmt = s.mgmt := rfl
@[simp] theorem setB_queues (s : State) (f : Fld) (b : Bool) : (setB s f b).queues = s.queues := rfl
@[simp] theorem setB_turns (s : State) (f : Fld) (b : Bool) : (setB s f b).turns = s.turns := rfl
@[simp] theorem setB_open (s : State) (f : Fld) (b : Bool) : (setB s f b).open_ = s.open_ := rfl
@[simp] theorem setB_sigs (s : State) (f : Fld) (b : Bool) : (setB s f b).sigs = s.sigs := rfl
@[simp] theorem setB_mem (s : State) (f : Fld) (b : Bool) : (setB s f b).mem = s.mem := rfl
@[simp] theorem setB_hostMem (s : State) (f : Fld) (b : Bool) : (setB s f b).hostMem = s.hostMem := rfl
@[simp] theorem setB_hostPoison (s : State) (f : Fld) (b : Bool) : (setB s f b).hostPoison = s.hostPoison := rfl
@[simp] theorem setB_flash (s : State) (f : Fld) (b : Bool) : (setB s f b).flash = s.flash := rfl
@[simp] theorem setB_flashOp (s : State) (f : Fld) (b : Bool) : (setB s f b).flashOp = s.flashOp := rfl
@[simp] theorem setB_saddles (s : State) (f : Fld) (b : Bool) : (setB s f b).saddles = s.saddles := rfl
@[simp] theorem setB_saddleHolds (s : State) (f : Fld) (b : Bool) : (setB s f b).saddleHolds = s.saddleHolds := rfl
@[simp] theorem setB_evac (s : State) (f : Fld) (b : Bool) : (setB s f b).evac = s.evac := rfl
@[simp] theorem setB_layerRst (s : State) (f : Fld) (b : Bool) : (setB s f b).layerRst = s.layerRst := rfl
@[simp] theorem setB_layerDead (s : State) (f : Fld) (b : Bool) : (setB s f b).layerDead = s.layerDead := rfl
@[simp] theorem setB_scrubbed (s : State) (f : Fld) (b : Bool) : (setB s f b).scrubbed = s.scrubbed := rfl
@[simp] theorem setB_channelOut (s : State) (f : Fld) (b : Bool) : (setB s f b).channelOut = s.channelOut := rfl
@[simp] theorem setB_channelBad (s : State) (f : Fld) (b : Bool) : (setB s f b).channelBad = s.channelBad := rfl
@[simp] theorem setB_stalled (s : State) (f : Fld) (b : Bool) : (setB s f b).stalled = s.stalled := rfl
@[simp] theorem setB_waiting (s : State) (f : Fld) (b : Bool) : (setB s f b).waiting = s.waiting := rfl
@[simp] theorem setB_spareCoils (s : State) (f : Fld) (b : Bool) : (setB s f b).spareCoils = s.spareCoils := rfl
@[simp] theorem setB_thruOpen (s : State) (f : Fld) (b : Bool) : (setB s f b).thruOpen = s.thruOpen := rfl
@[simp] theorem setB_tlb (s : State) (f : Fld) (b : Bool) : (setB s f b).tlb = s.tlb := rfl
@[simp] theorem setB_inval (s : State) (f : Fld) (b : Bool) : (setB s f b).inval = s.inval := rfl
@[simp] theorem setB_seqs (s : State) (f : Fld) (b : Bool) : (setB s f b).seqs = s.seqs := rfl
@[simp] theorem setB_nodes (s : State) (f : Fld) (b : Bool) : (setB s f b).nodes = s.nodes := rfl
@[simp] theorem setB_grants (s : State) (f : Fld) (b : Bool) : (setB s f b).grants = s.grants := rfl
@[simp] theorem setB_pages (s : State) (f : Fld) (b : Bool) : (setB s f b).pages = s.pages := rfl
@[simp] theorem setB_poolLast (s : State) (f : Fld) (b : Bool) : (setB s f b).poolLast = s.poolLast := rfl
@[simp] theorem setB_steered (s : State) (f : Fld) (b : Bool) : (setB s f b).steered = s.steered := rfl
@[simp] theorem setB_attends (s : State) (f : Fld) (b : Bool) : (setB s f b).attends = s.attends := rfl
@[simp] theorem setB_cores (s : State) (f : Fld) (b : Bool) : (setB s f b).cores = s.cores := rfl
@[simp] theorem setB_clusters (s : State) (f : Fld) (b : Bool) : (setB s f b).clusters = s.clusters := rfl
@[simp] theorem setB_loads (s : State) (f : Fld) (b : Bool) : (setB s f b).loads = s.loads := rfl
@[simp] theorem setB_bells (s : State) (f : Fld) (b : Bool) : (setB s f b).bells = s.bells := rfl
@[simp] theorem setB_coreSite (s : State) (f : Fld) (b : Bool) : (setB s f b).coreSite = s.coreSite := rfl
@[simp] theorem setB_updOf (s : State) (f : Fld) (b : Bool) : (setB s f b).updOf = s.updOf := rfl
@[simp] theorem setB_groups (s : State) (f : Fld) (b : Bool) : (setB s f b).groups = s.groups := rfl
@[simp] theorem setB_groupStage (s : State) (f : Fld) (b : Bool) : (setB s f b).groupStage = s.groupStage := rfl
@[simp] theorem setB_groupStaged (s : State) (f : Fld) (b : Bool) : (setB s f b).groupStaged = s.groupStaged := rfl
@[simp] theorem setB_pstore (s : State) (f : Fld) (b : Bool) : (setB s f b).pstore = s.pstore := rfl
@[simp] theorem setB_units (s : State) (f : Fld) (b : Bool) : (setB s f b).units = s.units := rfl
@[simp] theorem setB_upds (s : State) (f : Fld) (b : Bool) : (setB s f b).upds = s.upds := rfl
@[simp] theorem setB_noc (s : State) (f : Fld) (b : Bool) : (setB s f b).noc = s.noc := rfl
@[simp] theorem setB_routes (s : State) (f : Fld) (b : Bool) : (setB s f b).routes = s.routes := rfl
@[simp] theorem setB_nocNext (s : State) (f : Fld) (b : Bool) : (setB s f b).nocNext = s.nocNext := rfl
@[simp] theorem setB_nocHeld (s : State) (f : Fld) (b : Bool) : (setB s f b).nocHeld = s.nocHeld := rfl
@[simp] theorem setB_routeChanges (s : State) (f : Fld) (b : Bool) : (setB s f b).routeChanges = s.routeChanges := rfl
@[simp] theorem setB_fallbackClear (s : State) (f : Fld) (b : Bool) : (setB s f b).fallbackClear = s.fallbackClear := rfl
@[simp] theorem setB_delivered (s : State) (f : Fld) (b : Bool) : (setB s f b).delivered = s.delivered := rfl
@[simp] theorem setB_links (s : State) (f : Fld) (b : Bool) : (setB s f b).links = s.links := rfl
@[simp] theorem setB_switch (s : State) (f : Fld) (b : Bool) : (setB s f b).switch = s.switch := rfl
@[simp] theorem setB_recvs (s : State) (f : Fld) (b : Bool) : (setB s f b).recvs = s.recvs := rfl
@[simp] theorem setB_colGroups (s : State) (f : Fld) (b : Bool) : (setB s f b).colGroups = s.colGroups := rfl
@[simp] theorem setB_colls (s : State) (f : Fld) (b : Bool) : (setB s f b).colls = s.colls := rfl
@[simp] theorem setB_retries (s : State) (f : Fld) (b : Bool) : (setB s f b).retries = s.retries := rfl
@[simp] theorem setB_colTags (s : State) (f : Fld) (b : Bool) : (setB s f b).colTags = s.colTags := rfl
@[simp] theorem setB_stretch (s : State) (f : Fld) (b : Bool) : (setB s f b).stretch = s.stretch := rfl
@[simp] theorem setB_regionClk (s : State) (f : Fld) (b : Bool) : (setB s f b).regionClk = s.regionClk := rfl
@[simp] theorem setB_capo (s : State) (f : Fld) (b : Bool) : (setB s f b).capo = s.capo := rfl
@[simp] theorem setB_vminLatch (s : State) (f : Fld) (b : Bool) : (setB s f b).vminLatch = s.vminLatch := rfl
@[simp] theorem setB_vminFrom (s : State) (f : Fld) (b : Bool) : (setB s f b).vminFrom = s.vminFrom := rfl
@[simp] theorem setB_therm (s : State) (f : Fld) (b : Bool) : (setB s f b).therm = s.therm := rfl
@[simp] theorem setB_fuses (s : State) (f : Fld) (b : Bool) : (setB s f b).fuses = s.fuses := rfl
@[simp] theorem setB_luthier (s : State) (f : Fld) (b : Bool) : (setB s f b).luthier = s.luthier := rfl
@[simp] theorem setB_scopes (s : State) (f : Fld) (b : Bool) : (setB s f b).scopes = s.scopes := rfl
@[simp] theorem setB_portWake (s : State) (f : Fld) (b : Bool) : (setB s f b).portWake = s.portWake := rfl
@[simp] theorem setB_woken (s : State) (f : Fld) (b : Bool) : (setB s f b).woken = s.woken := rfl
@[simp] theorem setB_drones (s : State) (f : Fld) (b : Bool) : (setB s f b).drones = s.drones := rfl
@[simp] theorem setB_postponed (s : State) (f : Fld) (b : Bool) : (setB s f b).postponed = s.postponed := rfl
@[simp] theorem setB_events (s : State) (f : Fld) (b : Bool) : (setB s f b).events = s.events := rfl
@[simp] theorem setB_throttle (s : State) (f : Fld) (b : Bool) : (setB s f b).throttle = s.throttle := rfl
@[simp] theorem setB_trace (s : State) (f : Fld) (b : Bool) : (setB s f b).trace = s.trace := rfl
@[simp] theorem setB_stop (s : State) (f : Fld) (b : Bool) : (setB s f b).stop = s.stop := rfl

@[simp] theorem setBit_pending (s : State) (f : Fld) (i : Nat) (b : Bool) : (setBit s f i b).pending = s.pending := rfl
@[simp] theorem setBit_time (s : State) (f : Fld) (i : Nat) (b : Bool) : (setBit s f i b).time = s.time := rfl
@[simp] theorem setBit_freeCtr (s : State) (f : Fld) (i : Nat) (b : Bool) : (setBit s f i b).freeCtr = s.freeCtr := rfl
@[simp] theorem setBit_memEpoch (s : State) (f : Fld) (i : Nat) (b : Bool) : (setBit s f i b).memEpoch = s.memEpoch := rfl
@[simp] theorem setBit_power (s : State) (f : Fld) (i : Nat) (b : Bool) : (setBit s f i b).power = s.power := rfl
@[simp] theorem setBit_pins (s : State) (f : Fld) (i : Nat) (b : Bool) : (setBit s f i b).pins = s.pins := rfl
@[simp] theorem setBit_pcie (s : State) (f : Fld) (i : Nat) (b : Bool) : (setBit s f i b).pcie = s.pcie := rfl
@[simp] theorem setBit_mgmt (s : State) (f : Fld) (i : Nat) (b : Bool) : (setBit s f i b).mgmt = s.mgmt := rfl
@[simp] theorem setBit_queues (s : State) (f : Fld) (i : Nat) (b : Bool) : (setBit s f i b).queues = s.queues := rfl
@[simp] theorem setBit_turns (s : State) (f : Fld) (i : Nat) (b : Bool) : (setBit s f i b).turns = s.turns := rfl
@[simp] theorem setBit_open (s : State) (f : Fld) (i : Nat) (b : Bool) : (setBit s f i b).open_ = s.open_ := rfl
@[simp] theorem setBit_sigs (s : State) (f : Fld) (i : Nat) (b : Bool) : (setBit s f i b).sigs = s.sigs := rfl
@[simp] theorem setBit_mem (s : State) (f : Fld) (i : Nat) (b : Bool) : (setBit s f i b).mem = s.mem := rfl
@[simp] theorem setBit_hostMem (s : State) (f : Fld) (i : Nat) (b : Bool) : (setBit s f i b).hostMem = s.hostMem := rfl
@[simp] theorem setBit_hostPoison (s : State) (f : Fld) (i : Nat) (b : Bool) : (setBit s f i b).hostPoison = s.hostPoison := rfl
@[simp] theorem setBit_flash (s : State) (f : Fld) (i : Nat) (b : Bool) : (setBit s f i b).flash = s.flash := rfl
@[simp] theorem setBit_flashOp (s : State) (f : Fld) (i : Nat) (b : Bool) : (setBit s f i b).flashOp = s.flashOp := rfl
@[simp] theorem setBit_saddles (s : State) (f : Fld) (i : Nat) (b : Bool) : (setBit s f i b).saddles = s.saddles := rfl
@[simp] theorem setBit_saddleHolds (s : State) (f : Fld) (i : Nat) (b : Bool) : (setBit s f i b).saddleHolds = s.saddleHolds := rfl
@[simp] theorem setBit_evac (s : State) (f : Fld) (i : Nat) (b : Bool) : (setBit s f i b).evac = s.evac := rfl
@[simp] theorem setBit_layerRst (s : State) (f : Fld) (i : Nat) (b : Bool) : (setBit s f i b).layerRst = s.layerRst := rfl
@[simp] theorem setBit_layerDead (s : State) (f : Fld) (i : Nat) (b : Bool) : (setBit s f i b).layerDead = s.layerDead := rfl
@[simp] theorem setBit_scrubbed (s : State) (f : Fld) (i : Nat) (b : Bool) : (setBit s f i b).scrubbed = s.scrubbed := rfl
@[simp] theorem setBit_channelOut (s : State) (f : Fld) (i : Nat) (b : Bool) : (setBit s f i b).channelOut = s.channelOut := rfl
@[simp] theorem setBit_channelBad (s : State) (f : Fld) (i : Nat) (b : Bool) : (setBit s f i b).channelBad = s.channelBad := rfl
@[simp] theorem setBit_stalled (s : State) (f : Fld) (i : Nat) (b : Bool) : (setBit s f i b).stalled = s.stalled := rfl
@[simp] theorem setBit_waiting (s : State) (f : Fld) (i : Nat) (b : Bool) : (setBit s f i b).waiting = s.waiting := rfl
@[simp] theorem setBit_spareCoils (s : State) (f : Fld) (i : Nat) (b : Bool) : (setBit s f i b).spareCoils = s.spareCoils := rfl
@[simp] theorem setBit_thruOpen (s : State) (f : Fld) (i : Nat) (b : Bool) : (setBit s f i b).thruOpen = s.thruOpen := rfl
@[simp] theorem setBit_tlb (s : State) (f : Fld) (i : Nat) (b : Bool) : (setBit s f i b).tlb = s.tlb := rfl
@[simp] theorem setBit_inval (s : State) (f : Fld) (i : Nat) (b : Bool) : (setBit s f i b).inval = s.inval := rfl
@[simp] theorem setBit_seqs (s : State) (f : Fld) (i : Nat) (b : Bool) : (setBit s f i b).seqs = s.seqs := rfl
@[simp] theorem setBit_nodes (s : State) (f : Fld) (i : Nat) (b : Bool) : (setBit s f i b).nodes = s.nodes := rfl
@[simp] theorem setBit_grants (s : State) (f : Fld) (i : Nat) (b : Bool) : (setBit s f i b).grants = s.grants := rfl
@[simp] theorem setBit_pages (s : State) (f : Fld) (i : Nat) (b : Bool) : (setBit s f i b).pages = s.pages := rfl
@[simp] theorem setBit_poolLast (s : State) (f : Fld) (i : Nat) (b : Bool) : (setBit s f i b).poolLast = s.poolLast := rfl
@[simp] theorem setBit_steered (s : State) (f : Fld) (i : Nat) (b : Bool) : (setBit s f i b).steered = s.steered := rfl
@[simp] theorem setBit_attends (s : State) (f : Fld) (i : Nat) (b : Bool) : (setBit s f i b).attends = s.attends := rfl
@[simp] theorem setBit_cores (s : State) (f : Fld) (i : Nat) (b : Bool) : (setBit s f i b).cores = s.cores := rfl
@[simp] theorem setBit_clusters (s : State) (f : Fld) (i : Nat) (b : Bool) : (setBit s f i b).clusters = s.clusters := rfl
@[simp] theorem setBit_loads (s : State) (f : Fld) (i : Nat) (b : Bool) : (setBit s f i b).loads = s.loads := rfl
@[simp] theorem setBit_bells (s : State) (f : Fld) (i : Nat) (b : Bool) : (setBit s f i b).bells = s.bells := rfl
@[simp] theorem setBit_coreSite (s : State) (f : Fld) (i : Nat) (b : Bool) : (setBit s f i b).coreSite = s.coreSite := rfl
@[simp] theorem setBit_updOf (s : State) (f : Fld) (i : Nat) (b : Bool) : (setBit s f i b).updOf = s.updOf := rfl
@[simp] theorem setBit_groups (s : State) (f : Fld) (i : Nat) (b : Bool) : (setBit s f i b).groups = s.groups := rfl
@[simp] theorem setBit_groupStage (s : State) (f : Fld) (i : Nat) (b : Bool) : (setBit s f i b).groupStage = s.groupStage := rfl
@[simp] theorem setBit_groupStaged (s : State) (f : Fld) (i : Nat) (b : Bool) : (setBit s f i b).groupStaged = s.groupStaged := rfl
@[simp] theorem setBit_pstore (s : State) (f : Fld) (i : Nat) (b : Bool) : (setBit s f i b).pstore = s.pstore := rfl
@[simp] theorem setBit_units (s : State) (f : Fld) (i : Nat) (b : Bool) : (setBit s f i b).units = s.units := rfl
@[simp] theorem setBit_upds (s : State) (f : Fld) (i : Nat) (b : Bool) : (setBit s f i b).upds = s.upds := rfl
@[simp] theorem setBit_noc (s : State) (f : Fld) (i : Nat) (b : Bool) : (setBit s f i b).noc = s.noc := rfl
@[simp] theorem setBit_routes (s : State) (f : Fld) (i : Nat) (b : Bool) : (setBit s f i b).routes = s.routes := rfl
@[simp] theorem setBit_nocNext (s : State) (f : Fld) (i : Nat) (b : Bool) : (setBit s f i b).nocNext = s.nocNext := rfl
@[simp] theorem setBit_nocHeld (s : State) (f : Fld) (i : Nat) (b : Bool) : (setBit s f i b).nocHeld = s.nocHeld := rfl
@[simp] theorem setBit_routeChanges (s : State) (f : Fld) (i : Nat) (b : Bool) : (setBit s f i b).routeChanges = s.routeChanges := rfl
@[simp] theorem setBit_fallbackClear (s : State) (f : Fld) (i : Nat) (b : Bool) : (setBit s f i b).fallbackClear = s.fallbackClear := rfl
@[simp] theorem setBit_delivered (s : State) (f : Fld) (i : Nat) (b : Bool) : (setBit s f i b).delivered = s.delivered := rfl
@[simp] theorem setBit_links (s : State) (f : Fld) (i : Nat) (b : Bool) : (setBit s f i b).links = s.links := rfl
@[simp] theorem setBit_switch (s : State) (f : Fld) (i : Nat) (b : Bool) : (setBit s f i b).switch = s.switch := rfl
@[simp] theorem setBit_recvs (s : State) (f : Fld) (i : Nat) (b : Bool) : (setBit s f i b).recvs = s.recvs := rfl
@[simp] theorem setBit_colGroups (s : State) (f : Fld) (i : Nat) (b : Bool) : (setBit s f i b).colGroups = s.colGroups := rfl
@[simp] theorem setBit_colls (s : State) (f : Fld) (i : Nat) (b : Bool) : (setBit s f i b).colls = s.colls := rfl
@[simp] theorem setBit_retries (s : State) (f : Fld) (i : Nat) (b : Bool) : (setBit s f i b).retries = s.retries := rfl
@[simp] theorem setBit_colTags (s : State) (f : Fld) (i : Nat) (b : Bool) : (setBit s f i b).colTags = s.colTags := rfl
@[simp] theorem setBit_stretch (s : State) (f : Fld) (i : Nat) (b : Bool) : (setBit s f i b).stretch = s.stretch := rfl
@[simp] theorem setBit_regionClk (s : State) (f : Fld) (i : Nat) (b : Bool) : (setBit s f i b).regionClk = s.regionClk := rfl
@[simp] theorem setBit_capo (s : State) (f : Fld) (i : Nat) (b : Bool) : (setBit s f i b).capo = s.capo := rfl
@[simp] theorem setBit_vminLatch (s : State) (f : Fld) (i : Nat) (b : Bool) : (setBit s f i b).vminLatch = s.vminLatch := rfl
@[simp] theorem setBit_vminFrom (s : State) (f : Fld) (i : Nat) (b : Bool) : (setBit s f i b).vminFrom = s.vminFrom := rfl
@[simp] theorem setBit_therm (s : State) (f : Fld) (i : Nat) (b : Bool) : (setBit s f i b).therm = s.therm := rfl
@[simp] theorem setBit_fuses (s : State) (f : Fld) (i : Nat) (b : Bool) : (setBit s f i b).fuses = s.fuses := rfl
@[simp] theorem setBit_luthier (s : State) (f : Fld) (i : Nat) (b : Bool) : (setBit s f i b).luthier = s.luthier := rfl
@[simp] theorem setBit_scopes (s : State) (f : Fld) (i : Nat) (b : Bool) : (setBit s f i b).scopes = s.scopes := rfl
@[simp] theorem setBit_portWake (s : State) (f : Fld) (i : Nat) (b : Bool) : (setBit s f i b).portWake = s.portWake := rfl
@[simp] theorem setBit_woken (s : State) (f : Fld) (i : Nat) (b : Bool) : (setBit s f i b).woken = s.woken := rfl
@[simp] theorem setBit_drones (s : State) (f : Fld) (i : Nat) (b : Bool) : (setBit s f i b).drones = s.drones := rfl
@[simp] theorem setBit_postponed (s : State) (f : Fld) (i : Nat) (b : Bool) : (setBit s f i b).postponed = s.postponed := rfl
@[simp] theorem setBit_events (s : State) (f : Fld) (i : Nat) (b : Bool) : (setBit s f i b).events = s.events := rfl
@[simp] theorem setBit_throttle (s : State) (f : Fld) (i : Nat) (b : Bool) : (setBit s f i b).throttle = s.throttle := rfl
@[simp] theorem setBit_trace (s : State) (f : Fld) (i : Nat) (b : Bool) : (setBit s f i b).trace = s.trace := rfl
@[simp] theorem setBit_stop (s : State) (f : Fld) (i : Nat) (b : Bool) : (setBit s f i b).stop = s.stop := rfl

@[simp] theorem addF_pending (s : State) (f : Fld) (n : Nat) : (addF s f n).pending = s.pending := rfl
@[simp] theorem addF_time (s : State) (f : Fld) (n : Nat) : (addF s f n).time = s.time := rfl
@[simp] theorem addF_freeCtr (s : State) (f : Fld) (n : Nat) : (addF s f n).freeCtr = s.freeCtr := rfl
@[simp] theorem addF_memEpoch (s : State) (f : Fld) (n : Nat) : (addF s f n).memEpoch = s.memEpoch := rfl
@[simp] theorem addF_power (s : State) (f : Fld) (n : Nat) : (addF s f n).power = s.power := rfl
@[simp] theorem addF_pins (s : State) (f : Fld) (n : Nat) : (addF s f n).pins = s.pins := rfl
@[simp] theorem addF_pcie (s : State) (f : Fld) (n : Nat) : (addF s f n).pcie = s.pcie := rfl
@[simp] theorem addF_mgmt (s : State) (f : Fld) (n : Nat) : (addF s f n).mgmt = s.mgmt := rfl
@[simp] theorem addF_queues (s : State) (f : Fld) (n : Nat) : (addF s f n).queues = s.queues := rfl
@[simp] theorem addF_turns (s : State) (f : Fld) (n : Nat) : (addF s f n).turns = s.turns := rfl
@[simp] theorem addF_open (s : State) (f : Fld) (n : Nat) : (addF s f n).open_ = s.open_ := rfl
@[simp] theorem addF_sigs (s : State) (f : Fld) (n : Nat) : (addF s f n).sigs = s.sigs := rfl
@[simp] theorem addF_mem (s : State) (f : Fld) (n : Nat) : (addF s f n).mem = s.mem := rfl
@[simp] theorem addF_hostMem (s : State) (f : Fld) (n : Nat) : (addF s f n).hostMem = s.hostMem := rfl
@[simp] theorem addF_hostPoison (s : State) (f : Fld) (n : Nat) : (addF s f n).hostPoison = s.hostPoison := rfl
@[simp] theorem addF_flash (s : State) (f : Fld) (n : Nat) : (addF s f n).flash = s.flash := rfl
@[simp] theorem addF_flashOp (s : State) (f : Fld) (n : Nat) : (addF s f n).flashOp = s.flashOp := rfl
@[simp] theorem addF_saddles (s : State) (f : Fld) (n : Nat) : (addF s f n).saddles = s.saddles := rfl
@[simp] theorem addF_saddleHolds (s : State) (f : Fld) (n : Nat) : (addF s f n).saddleHolds = s.saddleHolds := rfl
@[simp] theorem addF_evac (s : State) (f : Fld) (n : Nat) : (addF s f n).evac = s.evac := rfl
@[simp] theorem addF_layerRst (s : State) (f : Fld) (n : Nat) : (addF s f n).layerRst = s.layerRst := rfl
@[simp] theorem addF_layerDead (s : State) (f : Fld) (n : Nat) : (addF s f n).layerDead = s.layerDead := rfl
@[simp] theorem addF_scrubbed (s : State) (f : Fld) (n : Nat) : (addF s f n).scrubbed = s.scrubbed := rfl
@[simp] theorem addF_channelOut (s : State) (f : Fld) (n : Nat) : (addF s f n).channelOut = s.channelOut := rfl
@[simp] theorem addF_channelBad (s : State) (f : Fld) (n : Nat) : (addF s f n).channelBad = s.channelBad := rfl
@[simp] theorem addF_stalled (s : State) (f : Fld) (n : Nat) : (addF s f n).stalled = s.stalled := rfl
@[simp] theorem addF_waiting (s : State) (f : Fld) (n : Nat) : (addF s f n).waiting = s.waiting := rfl
@[simp] theorem addF_spareCoils (s : State) (f : Fld) (n : Nat) : (addF s f n).spareCoils = s.spareCoils := rfl
@[simp] theorem addF_thruOpen (s : State) (f : Fld) (n : Nat) : (addF s f n).thruOpen = s.thruOpen := rfl
@[simp] theorem addF_tlb (s : State) (f : Fld) (n : Nat) : (addF s f n).tlb = s.tlb := rfl
@[simp] theorem addF_inval (s : State) (f : Fld) (n : Nat) : (addF s f n).inval = s.inval := rfl
@[simp] theorem addF_seqs (s : State) (f : Fld) (n : Nat) : (addF s f n).seqs = s.seqs := rfl
@[simp] theorem addF_nodes (s : State) (f : Fld) (n : Nat) : (addF s f n).nodes = s.nodes := rfl
@[simp] theorem addF_grants (s : State) (f : Fld) (n : Nat) : (addF s f n).grants = s.grants := rfl
@[simp] theorem addF_pages (s : State) (f : Fld) (n : Nat) : (addF s f n).pages = s.pages := rfl
@[simp] theorem addF_poolLast (s : State) (f : Fld) (n : Nat) : (addF s f n).poolLast = s.poolLast := rfl
@[simp] theorem addF_steered (s : State) (f : Fld) (n : Nat) : (addF s f n).steered = s.steered := rfl
@[simp] theorem addF_attends (s : State) (f : Fld) (n : Nat) : (addF s f n).attends = s.attends := rfl
@[simp] theorem addF_cores (s : State) (f : Fld) (n : Nat) : (addF s f n).cores = s.cores := rfl
@[simp] theorem addF_clusters (s : State) (f : Fld) (n : Nat) : (addF s f n).clusters = s.clusters := rfl
@[simp] theorem addF_loads (s : State) (f : Fld) (n : Nat) : (addF s f n).loads = s.loads := rfl
@[simp] theorem addF_bells (s : State) (f : Fld) (n : Nat) : (addF s f n).bells = s.bells := rfl
@[simp] theorem addF_coreSite (s : State) (f : Fld) (n : Nat) : (addF s f n).coreSite = s.coreSite := rfl
@[simp] theorem addF_updOf (s : State) (f : Fld) (n : Nat) : (addF s f n).updOf = s.updOf := rfl
@[simp] theorem addF_groups (s : State) (f : Fld) (n : Nat) : (addF s f n).groups = s.groups := rfl
@[simp] theorem addF_groupStage (s : State) (f : Fld) (n : Nat) : (addF s f n).groupStage = s.groupStage := rfl
@[simp] theorem addF_groupStaged (s : State) (f : Fld) (n : Nat) : (addF s f n).groupStaged = s.groupStaged := rfl
@[simp] theorem addF_pstore (s : State) (f : Fld) (n : Nat) : (addF s f n).pstore = s.pstore := rfl
@[simp] theorem addF_units (s : State) (f : Fld) (n : Nat) : (addF s f n).units = s.units := rfl
@[simp] theorem addF_upds (s : State) (f : Fld) (n : Nat) : (addF s f n).upds = s.upds := rfl
@[simp] theorem addF_noc (s : State) (f : Fld) (n : Nat) : (addF s f n).noc = s.noc := rfl
@[simp] theorem addF_routes (s : State) (f : Fld) (n : Nat) : (addF s f n).routes = s.routes := rfl
@[simp] theorem addF_nocNext (s : State) (f : Fld) (n : Nat) : (addF s f n).nocNext = s.nocNext := rfl
@[simp] theorem addF_nocHeld (s : State) (f : Fld) (n : Nat) : (addF s f n).nocHeld = s.nocHeld := rfl
@[simp] theorem addF_routeChanges (s : State) (f : Fld) (n : Nat) : (addF s f n).routeChanges = s.routeChanges := rfl
@[simp] theorem addF_fallbackClear (s : State) (f : Fld) (n : Nat) : (addF s f n).fallbackClear = s.fallbackClear := rfl
@[simp] theorem addF_delivered (s : State) (f : Fld) (n : Nat) : (addF s f n).delivered = s.delivered := rfl
@[simp] theorem addF_links (s : State) (f : Fld) (n : Nat) : (addF s f n).links = s.links := rfl
@[simp] theorem addF_switch (s : State) (f : Fld) (n : Nat) : (addF s f n).switch = s.switch := rfl
@[simp] theorem addF_recvs (s : State) (f : Fld) (n : Nat) : (addF s f n).recvs = s.recvs := rfl
@[simp] theorem addF_colGroups (s : State) (f : Fld) (n : Nat) : (addF s f n).colGroups = s.colGroups := rfl
@[simp] theorem addF_colls (s : State) (f : Fld) (n : Nat) : (addF s f n).colls = s.colls := rfl
@[simp] theorem addF_retries (s : State) (f : Fld) (n : Nat) : (addF s f n).retries = s.retries := rfl
@[simp] theorem addF_colTags (s : State) (f : Fld) (n : Nat) : (addF s f n).colTags = s.colTags := rfl
@[simp] theorem addF_stretch (s : State) (f : Fld) (n : Nat) : (addF s f n).stretch = s.stretch := rfl
@[simp] theorem addF_regionClk (s : State) (f : Fld) (n : Nat) : (addF s f n).regionClk = s.regionClk := rfl
@[simp] theorem addF_capo (s : State) (f : Fld) (n : Nat) : (addF s f n).capo = s.capo := rfl
@[simp] theorem addF_vminLatch (s : State) (f : Fld) (n : Nat) : (addF s f n).vminLatch = s.vminLatch := rfl
@[simp] theorem addF_vminFrom (s : State) (f : Fld) (n : Nat) : (addF s f n).vminFrom = s.vminFrom := rfl
@[simp] theorem addF_therm (s : State) (f : Fld) (n : Nat) : (addF s f n).therm = s.therm := rfl
@[simp] theorem addF_fuses (s : State) (f : Fld) (n : Nat) : (addF s f n).fuses = s.fuses := rfl
@[simp] theorem addF_luthier (s : State) (f : Fld) (n : Nat) : (addF s f n).luthier = s.luthier := rfl
@[simp] theorem addF_scopes (s : State) (f : Fld) (n : Nat) : (addF s f n).scopes = s.scopes := rfl
@[simp] theorem addF_portWake (s : State) (f : Fld) (n : Nat) : (addF s f n).portWake = s.portWake := rfl
@[simp] theorem addF_woken (s : State) (f : Fld) (n : Nat) : (addF s f n).woken = s.woken := rfl
@[simp] theorem addF_drones (s : State) (f : Fld) (n : Nat) : (addF s f n).drones = s.drones := rfl
@[simp] theorem addF_postponed (s : State) (f : Fld) (n : Nat) : (addF s f n).postponed = s.postponed := rfl
@[simp] theorem addF_events (s : State) (f : Fld) (n : Nat) : (addF s f n).events = s.events := rfl
@[simp] theorem addF_throttle (s : State) (f : Fld) (n : Nat) : (addF s f n).throttle = s.throttle := rfl
@[simp] theorem addF_trace (s : State) (f : Fld) (n : Nat) : (addF s f n).trace = s.trace := rfl
@[simp] theorem addF_stop (s : State) (f : Fld) (n : Nat) : (addF s f n).stop = s.stop := rfl

@[simp] theorem incF_pending (s : State) (f : Fld) : (incF s f).pending = s.pending := rfl
@[simp] theorem incF_time (s : State) (f : Fld) : (incF s f).time = s.time := rfl
@[simp] theorem incF_freeCtr (s : State) (f : Fld) : (incF s f).freeCtr = s.freeCtr := rfl
@[simp] theorem incF_memEpoch (s : State) (f : Fld) : (incF s f).memEpoch = s.memEpoch := rfl
@[simp] theorem incF_power (s : State) (f : Fld) : (incF s f).power = s.power := rfl
@[simp] theorem incF_pins (s : State) (f : Fld) : (incF s f).pins = s.pins := rfl
@[simp] theorem incF_pcie (s : State) (f : Fld) : (incF s f).pcie = s.pcie := rfl
@[simp] theorem incF_mgmt (s : State) (f : Fld) : (incF s f).mgmt = s.mgmt := rfl
@[simp] theorem incF_queues (s : State) (f : Fld) : (incF s f).queues = s.queues := rfl
@[simp] theorem incF_turns (s : State) (f : Fld) : (incF s f).turns = s.turns := rfl
@[simp] theorem incF_open (s : State) (f : Fld) : (incF s f).open_ = s.open_ := rfl
@[simp] theorem incF_sigs (s : State) (f : Fld) : (incF s f).sigs = s.sigs := rfl
@[simp] theorem incF_mem (s : State) (f : Fld) : (incF s f).mem = s.mem := rfl
@[simp] theorem incF_hostMem (s : State) (f : Fld) : (incF s f).hostMem = s.hostMem := rfl
@[simp] theorem incF_hostPoison (s : State) (f : Fld) : (incF s f).hostPoison = s.hostPoison := rfl
@[simp] theorem incF_flash (s : State) (f : Fld) : (incF s f).flash = s.flash := rfl
@[simp] theorem incF_flashOp (s : State) (f : Fld) : (incF s f).flashOp = s.flashOp := rfl
@[simp] theorem incF_saddles (s : State) (f : Fld) : (incF s f).saddles = s.saddles := rfl
@[simp] theorem incF_saddleHolds (s : State) (f : Fld) : (incF s f).saddleHolds = s.saddleHolds := rfl
@[simp] theorem incF_evac (s : State) (f : Fld) : (incF s f).evac = s.evac := rfl
@[simp] theorem incF_layerRst (s : State) (f : Fld) : (incF s f).layerRst = s.layerRst := rfl
@[simp] theorem incF_layerDead (s : State) (f : Fld) : (incF s f).layerDead = s.layerDead := rfl
@[simp] theorem incF_scrubbed (s : State) (f : Fld) : (incF s f).scrubbed = s.scrubbed := rfl
@[simp] theorem incF_channelOut (s : State) (f : Fld) : (incF s f).channelOut = s.channelOut := rfl
@[simp] theorem incF_channelBad (s : State) (f : Fld) : (incF s f).channelBad = s.channelBad := rfl
@[simp] theorem incF_stalled (s : State) (f : Fld) : (incF s f).stalled = s.stalled := rfl
@[simp] theorem incF_waiting (s : State) (f : Fld) : (incF s f).waiting = s.waiting := rfl
@[simp] theorem incF_spareCoils (s : State) (f : Fld) : (incF s f).spareCoils = s.spareCoils := rfl
@[simp] theorem incF_thruOpen (s : State) (f : Fld) : (incF s f).thruOpen = s.thruOpen := rfl
@[simp] theorem incF_tlb (s : State) (f : Fld) : (incF s f).tlb = s.tlb := rfl
@[simp] theorem incF_inval (s : State) (f : Fld) : (incF s f).inval = s.inval := rfl
@[simp] theorem incF_seqs (s : State) (f : Fld) : (incF s f).seqs = s.seqs := rfl
@[simp] theorem incF_nodes (s : State) (f : Fld) : (incF s f).nodes = s.nodes := rfl
@[simp] theorem incF_grants (s : State) (f : Fld) : (incF s f).grants = s.grants := rfl
@[simp] theorem incF_pages (s : State) (f : Fld) : (incF s f).pages = s.pages := rfl
@[simp] theorem incF_poolLast (s : State) (f : Fld) : (incF s f).poolLast = s.poolLast := rfl
@[simp] theorem incF_steered (s : State) (f : Fld) : (incF s f).steered = s.steered := rfl
@[simp] theorem incF_attends (s : State) (f : Fld) : (incF s f).attends = s.attends := rfl
@[simp] theorem incF_cores (s : State) (f : Fld) : (incF s f).cores = s.cores := rfl
@[simp] theorem incF_clusters (s : State) (f : Fld) : (incF s f).clusters = s.clusters := rfl
@[simp] theorem incF_loads (s : State) (f : Fld) : (incF s f).loads = s.loads := rfl
@[simp] theorem incF_bells (s : State) (f : Fld) : (incF s f).bells = s.bells := rfl
@[simp] theorem incF_coreSite (s : State) (f : Fld) : (incF s f).coreSite = s.coreSite := rfl
@[simp] theorem incF_updOf (s : State) (f : Fld) : (incF s f).updOf = s.updOf := rfl
@[simp] theorem incF_groups (s : State) (f : Fld) : (incF s f).groups = s.groups := rfl
@[simp] theorem incF_groupStage (s : State) (f : Fld) : (incF s f).groupStage = s.groupStage := rfl
@[simp] theorem incF_groupStaged (s : State) (f : Fld) : (incF s f).groupStaged = s.groupStaged := rfl
@[simp] theorem incF_pstore (s : State) (f : Fld) : (incF s f).pstore = s.pstore := rfl
@[simp] theorem incF_units (s : State) (f : Fld) : (incF s f).units = s.units := rfl
@[simp] theorem incF_upds (s : State) (f : Fld) : (incF s f).upds = s.upds := rfl
@[simp] theorem incF_noc (s : State) (f : Fld) : (incF s f).noc = s.noc := rfl
@[simp] theorem incF_routes (s : State) (f : Fld) : (incF s f).routes = s.routes := rfl
@[simp] theorem incF_nocNext (s : State) (f : Fld) : (incF s f).nocNext = s.nocNext := rfl
@[simp] theorem incF_nocHeld (s : State) (f : Fld) : (incF s f).nocHeld = s.nocHeld := rfl
@[simp] theorem incF_routeChanges (s : State) (f : Fld) : (incF s f).routeChanges = s.routeChanges := rfl
@[simp] theorem incF_fallbackClear (s : State) (f : Fld) : (incF s f).fallbackClear = s.fallbackClear := rfl
@[simp] theorem incF_delivered (s : State) (f : Fld) : (incF s f).delivered = s.delivered := rfl
@[simp] theorem incF_links (s : State) (f : Fld) : (incF s f).links = s.links := rfl
@[simp] theorem incF_switch (s : State) (f : Fld) : (incF s f).switch = s.switch := rfl
@[simp] theorem incF_recvs (s : State) (f : Fld) : (incF s f).recvs = s.recvs := rfl
@[simp] theorem incF_colGroups (s : State) (f : Fld) : (incF s f).colGroups = s.colGroups := rfl
@[simp] theorem incF_colls (s : State) (f : Fld) : (incF s f).colls = s.colls := rfl
@[simp] theorem incF_retries (s : State) (f : Fld) : (incF s f).retries = s.retries := rfl
@[simp] theorem incF_colTags (s : State) (f : Fld) : (incF s f).colTags = s.colTags := rfl
@[simp] theorem incF_stretch (s : State) (f : Fld) : (incF s f).stretch = s.stretch := rfl
@[simp] theorem incF_regionClk (s : State) (f : Fld) : (incF s f).regionClk = s.regionClk := rfl
@[simp] theorem incF_capo (s : State) (f : Fld) : (incF s f).capo = s.capo := rfl
@[simp] theorem incF_vminLatch (s : State) (f : Fld) : (incF s f).vminLatch = s.vminLatch := rfl
@[simp] theorem incF_vminFrom (s : State) (f : Fld) : (incF s f).vminFrom = s.vminFrom := rfl
@[simp] theorem incF_therm (s : State) (f : Fld) : (incF s f).therm = s.therm := rfl
@[simp] theorem incF_fuses (s : State) (f : Fld) : (incF s f).fuses = s.fuses := rfl
@[simp] theorem incF_luthier (s : State) (f : Fld) : (incF s f).luthier = s.luthier := rfl
@[simp] theorem incF_scopes (s : State) (f : Fld) : (incF s f).scopes = s.scopes := rfl
@[simp] theorem incF_portWake (s : State) (f : Fld) : (incF s f).portWake = s.portWake := rfl
@[simp] theorem incF_woken (s : State) (f : Fld) : (incF s f).woken = s.woken := rfl
@[simp] theorem incF_drones (s : State) (f : Fld) : (incF s f).drones = s.drones := rfl
@[simp] theorem incF_postponed (s : State) (f : Fld) : (incF s f).postponed = s.postponed := rfl
@[simp] theorem incF_events (s : State) (f : Fld) : (incF s f).events = s.events := rfl
@[simp] theorem incF_throttle (s : State) (f : Fld) : (incF s f).throttle = s.throttle := rfl
@[simp] theorem incF_trace (s : State) (f : Fld) : (incF s f).trace = s.trace := rfl
@[simp] theorem incF_stop (s : State) (f : Fld) : (incF s f).stop = s.stop := rfl

@[simp] theorem setCore_pending (s : State) (c : Nat) (k : Core) : (setCore s c k).pending = s.pending := rfl
@[simp] theorem setCore_time (s : State) (c : Nat) (k : Core) : (setCore s c k).time = s.time := rfl
@[simp] theorem setCore_freeCtr (s : State) (c : Nat) (k : Core) : (setCore s c k).freeCtr = s.freeCtr := rfl
@[simp] theorem setCore_memEpoch (s : State) (c : Nat) (k : Core) : (setCore s c k).memEpoch = s.memEpoch := rfl
@[simp] theorem setCore_fields (s : State) (c : Nat) (k : Core) : (setCore s c k).fields = s.fields := rfl
@[simp] theorem setCore_power (s : State) (c : Nat) (k : Core) : (setCore s c k).power = s.power := rfl
@[simp] theorem setCore_pins (s : State) (c : Nat) (k : Core) : (setCore s c k).pins = s.pins := rfl
@[simp] theorem setCore_pcie (s : State) (c : Nat) (k : Core) : (setCore s c k).pcie = s.pcie := rfl
@[simp] theorem setCore_mgmt (s : State) (c : Nat) (k : Core) : (setCore s c k).mgmt = s.mgmt := rfl
@[simp] theorem setCore_queues (s : State) (c : Nat) (k : Core) : (setCore s c k).queues = s.queues := rfl
@[simp] theorem setCore_turns (s : State) (c : Nat) (k : Core) : (setCore s c k).turns = s.turns := rfl
@[simp] theorem setCore_open (s : State) (c : Nat) (k : Core) : (setCore s c k).open_ = s.open_ := rfl
@[simp] theorem setCore_sigs (s : State) (c : Nat) (k : Core) : (setCore s c k).sigs = s.sigs := rfl
@[simp] theorem setCore_mem (s : State) (c : Nat) (k : Core) : (setCore s c k).mem = s.mem := rfl
@[simp] theorem setCore_hostMem (s : State) (c : Nat) (k : Core) : (setCore s c k).hostMem = s.hostMem := rfl
@[simp] theorem setCore_hostPoison (s : State) (c : Nat) (k : Core) : (setCore s c k).hostPoison = s.hostPoison := rfl
@[simp] theorem setCore_flash (s : State) (c : Nat) (k : Core) : (setCore s c k).flash = s.flash := rfl
@[simp] theorem setCore_flashOp (s : State) (c : Nat) (k : Core) : (setCore s c k).flashOp = s.flashOp := rfl
@[simp] theorem setCore_saddles (s : State) (c : Nat) (k : Core) : (setCore s c k).saddles = s.saddles := rfl
@[simp] theorem setCore_saddleHolds (s : State) (c : Nat) (k : Core) : (setCore s c k).saddleHolds = s.saddleHolds := rfl
@[simp] theorem setCore_evac (s : State) (c : Nat) (k : Core) : (setCore s c k).evac = s.evac := rfl
@[simp] theorem setCore_layerRst (s : State) (c : Nat) (k : Core) : (setCore s c k).layerRst = s.layerRst := rfl
@[simp] theorem setCore_layerDead (s : State) (c : Nat) (k : Core) : (setCore s c k).layerDead = s.layerDead := rfl
@[simp] theorem setCore_scrubbed (s : State) (c : Nat) (k : Core) : (setCore s c k).scrubbed = s.scrubbed := rfl
@[simp] theorem setCore_channelOut (s : State) (c : Nat) (k : Core) : (setCore s c k).channelOut = s.channelOut := rfl
@[simp] theorem setCore_channelBad (s : State) (c : Nat) (k : Core) : (setCore s c k).channelBad = s.channelBad := rfl
@[simp] theorem setCore_stalled (s : State) (c : Nat) (k : Core) : (setCore s c k).stalled = s.stalled := rfl
@[simp] theorem setCore_waiting (s : State) (c : Nat) (k : Core) : (setCore s c k).waiting = s.waiting := rfl
@[simp] theorem setCore_spareCoils (s : State) (c : Nat) (k : Core) : (setCore s c k).spareCoils = s.spareCoils := rfl
@[simp] theorem setCore_thruOpen (s : State) (c : Nat) (k : Core) : (setCore s c k).thruOpen = s.thruOpen := rfl
@[simp] theorem setCore_tlb (s : State) (c : Nat) (k : Core) : (setCore s c k).tlb = s.tlb := rfl
@[simp] theorem setCore_inval (s : State) (c : Nat) (k : Core) : (setCore s c k).inval = s.inval := rfl
@[simp] theorem setCore_seqs (s : State) (c : Nat) (k : Core) : (setCore s c k).seqs = s.seqs := rfl
@[simp] theorem setCore_nodes (s : State) (c : Nat) (k : Core) : (setCore s c k).nodes = s.nodes := rfl
@[simp] theorem setCore_grants (s : State) (c : Nat) (k : Core) : (setCore s c k).grants = s.grants := rfl
@[simp] theorem setCore_pages (s : State) (c : Nat) (k : Core) : (setCore s c k).pages = s.pages := rfl
@[simp] theorem setCore_poolLast (s : State) (c : Nat) (k : Core) : (setCore s c k).poolLast = s.poolLast := rfl
@[simp] theorem setCore_steered (s : State) (c : Nat) (k : Core) : (setCore s c k).steered = s.steered := rfl
@[simp] theorem setCore_attends (s : State) (c : Nat) (k : Core) : (setCore s c k).attends = s.attends := rfl
@[simp] theorem setCore_clusters (s : State) (c : Nat) (k : Core) : (setCore s c k).clusters = s.clusters := rfl
@[simp] theorem setCore_loads (s : State) (c : Nat) (k : Core) : (setCore s c k).loads = s.loads := rfl
@[simp] theorem setCore_bells (s : State) (c : Nat) (k : Core) : (setCore s c k).bells = s.bells := rfl
@[simp] theorem setCore_coreSite (s : State) (c : Nat) (k : Core) : (setCore s c k).coreSite = s.coreSite := rfl
@[simp] theorem setCore_updOf (s : State) (c : Nat) (k : Core) : (setCore s c k).updOf = s.updOf := rfl
@[simp] theorem setCore_groups (s : State) (c : Nat) (k : Core) : (setCore s c k).groups = s.groups := rfl
@[simp] theorem setCore_groupStage (s : State) (c : Nat) (k : Core) : (setCore s c k).groupStage = s.groupStage := rfl
@[simp] theorem setCore_groupStaged (s : State) (c : Nat) (k : Core) : (setCore s c k).groupStaged = s.groupStaged := rfl
@[simp] theorem setCore_pstore (s : State) (c : Nat) (k : Core) : (setCore s c k).pstore = s.pstore := rfl
@[simp] theorem setCore_units (s : State) (c : Nat) (k : Core) : (setCore s c k).units = s.units := rfl
@[simp] theorem setCore_upds (s : State) (c : Nat) (k : Core) : (setCore s c k).upds = s.upds := rfl
@[simp] theorem setCore_noc (s : State) (c : Nat) (k : Core) : (setCore s c k).noc = s.noc := rfl
@[simp] theorem setCore_routes (s : State) (c : Nat) (k : Core) : (setCore s c k).routes = s.routes := rfl
@[simp] theorem setCore_nocNext (s : State) (c : Nat) (k : Core) : (setCore s c k).nocNext = s.nocNext := rfl
@[simp] theorem setCore_nocHeld (s : State) (c : Nat) (k : Core) : (setCore s c k).nocHeld = s.nocHeld := rfl
@[simp] theorem setCore_routeChanges (s : State) (c : Nat) (k : Core) : (setCore s c k).routeChanges = s.routeChanges := rfl
@[simp] theorem setCore_fallbackClear (s : State) (c : Nat) (k : Core) : (setCore s c k).fallbackClear = s.fallbackClear := rfl
@[simp] theorem setCore_delivered (s : State) (c : Nat) (k : Core) : (setCore s c k).delivered = s.delivered := rfl
@[simp] theorem setCore_links (s : State) (c : Nat) (k : Core) : (setCore s c k).links = s.links := rfl
@[simp] theorem setCore_switch (s : State) (c : Nat) (k : Core) : (setCore s c k).switch = s.switch := rfl
@[simp] theorem setCore_recvs (s : State) (c : Nat) (k : Core) : (setCore s c k).recvs = s.recvs := rfl
@[simp] theorem setCore_colGroups (s : State) (c : Nat) (k : Core) : (setCore s c k).colGroups = s.colGroups := rfl
@[simp] theorem setCore_colls (s : State) (c : Nat) (k : Core) : (setCore s c k).colls = s.colls := rfl
@[simp] theorem setCore_retries (s : State) (c : Nat) (k : Core) : (setCore s c k).retries = s.retries := rfl
@[simp] theorem setCore_colTags (s : State) (c : Nat) (k : Core) : (setCore s c k).colTags = s.colTags := rfl
@[simp] theorem setCore_stretch (s : State) (c : Nat) (k : Core) : (setCore s c k).stretch = s.stretch := rfl
@[simp] theorem setCore_regionClk (s : State) (c : Nat) (k : Core) : (setCore s c k).regionClk = s.regionClk := rfl
@[simp] theorem setCore_capo (s : State) (c : Nat) (k : Core) : (setCore s c k).capo = s.capo := rfl
@[simp] theorem setCore_vminLatch (s : State) (c : Nat) (k : Core) : (setCore s c k).vminLatch = s.vminLatch := rfl
@[simp] theorem setCore_vminFrom (s : State) (c : Nat) (k : Core) : (setCore s c k).vminFrom = s.vminFrom := rfl
@[simp] theorem setCore_therm (s : State) (c : Nat) (k : Core) : (setCore s c k).therm = s.therm := rfl
@[simp] theorem setCore_fuses (s : State) (c : Nat) (k : Core) : (setCore s c k).fuses = s.fuses := rfl
@[simp] theorem setCore_luthier (s : State) (c : Nat) (k : Core) : (setCore s c k).luthier = s.luthier := rfl
@[simp] theorem setCore_scopes (s : State) (c : Nat) (k : Core) : (setCore s c k).scopes = s.scopes := rfl
@[simp] theorem setCore_portWake (s : State) (c : Nat) (k : Core) : (setCore s c k).portWake = s.portWake := rfl
@[simp] theorem setCore_woken (s : State) (c : Nat) (k : Core) : (setCore s c k).woken = s.woken := rfl
@[simp] theorem setCore_drones (s : State) (c : Nat) (k : Core) : (setCore s c k).drones = s.drones := rfl
@[simp] theorem setCore_postponed (s : State) (c : Nat) (k : Core) : (setCore s c k).postponed = s.postponed := rfl
@[simp] theorem setCore_events (s : State) (c : Nat) (k : Core) : (setCore s c k).events = s.events := rfl
@[simp] theorem setCore_throttle (s : State) (c : Nat) (k : Core) : (setCore s c k).throttle = s.throttle := rfl
@[simp] theorem setCore_trace (s : State) (c : Nat) (k : Core) : (setCore s c k).trace = s.trace := rfl
@[simp] theorem setCore_stop (s : State) (c : Nat) (k : Core) : (setCore s c k).stop = s.stop := rfl

@[simp] theorem setCluster_pending (s : State) (l : Nat) (k : Cluster) : (setCluster s l k).pending = s.pending := rfl
@[simp] theorem setCluster_time (s : State) (l : Nat) (k : Cluster) : (setCluster s l k).time = s.time := rfl
@[simp] theorem setCluster_freeCtr (s : State) (l : Nat) (k : Cluster) : (setCluster s l k).freeCtr = s.freeCtr := rfl
@[simp] theorem setCluster_memEpoch (s : State) (l : Nat) (k : Cluster) : (setCluster s l k).memEpoch = s.memEpoch := rfl
@[simp] theorem setCluster_fields (s : State) (l : Nat) (k : Cluster) : (setCluster s l k).fields = s.fields := rfl
@[simp] theorem setCluster_power (s : State) (l : Nat) (k : Cluster) : (setCluster s l k).power = s.power := rfl
@[simp] theorem setCluster_pins (s : State) (l : Nat) (k : Cluster) : (setCluster s l k).pins = s.pins := rfl
@[simp] theorem setCluster_pcie (s : State) (l : Nat) (k : Cluster) : (setCluster s l k).pcie = s.pcie := rfl
@[simp] theorem setCluster_mgmt (s : State) (l : Nat) (k : Cluster) : (setCluster s l k).mgmt = s.mgmt := rfl
@[simp] theorem setCluster_queues (s : State) (l : Nat) (k : Cluster) : (setCluster s l k).queues = s.queues := rfl
@[simp] theorem setCluster_turns (s : State) (l : Nat) (k : Cluster) : (setCluster s l k).turns = s.turns := rfl
@[simp] theorem setCluster_open (s : State) (l : Nat) (k : Cluster) : (setCluster s l k).open_ = s.open_ := rfl
@[simp] theorem setCluster_sigs (s : State) (l : Nat) (k : Cluster) : (setCluster s l k).sigs = s.sigs := rfl
@[simp] theorem setCluster_mem (s : State) (l : Nat) (k : Cluster) : (setCluster s l k).mem = s.mem := rfl
@[simp] theorem setCluster_hostMem (s : State) (l : Nat) (k : Cluster) : (setCluster s l k).hostMem = s.hostMem := rfl
@[simp] theorem setCluster_hostPoison (s : State) (l : Nat) (k : Cluster) : (setCluster s l k).hostPoison = s.hostPoison := rfl
@[simp] theorem setCluster_flash (s : State) (l : Nat) (k : Cluster) : (setCluster s l k).flash = s.flash := rfl
@[simp] theorem setCluster_flashOp (s : State) (l : Nat) (k : Cluster) : (setCluster s l k).flashOp = s.flashOp := rfl
@[simp] theorem setCluster_saddles (s : State) (l : Nat) (k : Cluster) : (setCluster s l k).saddles = s.saddles := rfl
@[simp] theorem setCluster_saddleHolds (s : State) (l : Nat) (k : Cluster) : (setCluster s l k).saddleHolds = s.saddleHolds := rfl
@[simp] theorem setCluster_evac (s : State) (l : Nat) (k : Cluster) : (setCluster s l k).evac = s.evac := rfl
@[simp] theorem setCluster_layerRst (s : State) (l : Nat) (k : Cluster) : (setCluster s l k).layerRst = s.layerRst := rfl
@[simp] theorem setCluster_layerDead (s : State) (l : Nat) (k : Cluster) : (setCluster s l k).layerDead = s.layerDead := rfl
@[simp] theorem setCluster_scrubbed (s : State) (l : Nat) (k : Cluster) : (setCluster s l k).scrubbed = s.scrubbed := rfl
@[simp] theorem setCluster_channelOut (s : State) (l : Nat) (k : Cluster) : (setCluster s l k).channelOut = s.channelOut := rfl
@[simp] theorem setCluster_channelBad (s : State) (l : Nat) (k : Cluster) : (setCluster s l k).channelBad = s.channelBad := rfl
@[simp] theorem setCluster_stalled (s : State) (l : Nat) (k : Cluster) : (setCluster s l k).stalled = s.stalled := rfl
@[simp] theorem setCluster_waiting (s : State) (l : Nat) (k : Cluster) : (setCluster s l k).waiting = s.waiting := rfl
@[simp] theorem setCluster_spareCoils (s : State) (l : Nat) (k : Cluster) : (setCluster s l k).spareCoils = s.spareCoils := rfl
@[simp] theorem setCluster_thruOpen (s : State) (l : Nat) (k : Cluster) : (setCluster s l k).thruOpen = s.thruOpen := rfl
@[simp] theorem setCluster_tlb (s : State) (l : Nat) (k : Cluster) : (setCluster s l k).tlb = s.tlb := rfl
@[simp] theorem setCluster_inval (s : State) (l : Nat) (k : Cluster) : (setCluster s l k).inval = s.inval := rfl
@[simp] theorem setCluster_seqs (s : State) (l : Nat) (k : Cluster) : (setCluster s l k).seqs = s.seqs := rfl
@[simp] theorem setCluster_nodes (s : State) (l : Nat) (k : Cluster) : (setCluster s l k).nodes = s.nodes := rfl
@[simp] theorem setCluster_grants (s : State) (l : Nat) (k : Cluster) : (setCluster s l k).grants = s.grants := rfl
@[simp] theorem setCluster_pages (s : State) (l : Nat) (k : Cluster) : (setCluster s l k).pages = s.pages := rfl
@[simp] theorem setCluster_poolLast (s : State) (l : Nat) (k : Cluster) : (setCluster s l k).poolLast = s.poolLast := rfl
@[simp] theorem setCluster_steered (s : State) (l : Nat) (k : Cluster) : (setCluster s l k).steered = s.steered := rfl
@[simp] theorem setCluster_attends (s : State) (l : Nat) (k : Cluster) : (setCluster s l k).attends = s.attends := rfl
@[simp] theorem setCluster_cores (s : State) (l : Nat) (k : Cluster) : (setCluster s l k).cores = s.cores := rfl
@[simp] theorem setCluster_loads (s : State) (l : Nat) (k : Cluster) : (setCluster s l k).loads = s.loads := rfl
@[simp] theorem setCluster_bells (s : State) (l : Nat) (k : Cluster) : (setCluster s l k).bells = s.bells := rfl
@[simp] theorem setCluster_coreSite (s : State) (l : Nat) (k : Cluster) : (setCluster s l k).coreSite = s.coreSite := rfl
@[simp] theorem setCluster_updOf (s : State) (l : Nat) (k : Cluster) : (setCluster s l k).updOf = s.updOf := rfl
@[simp] theorem setCluster_groups (s : State) (l : Nat) (k : Cluster) : (setCluster s l k).groups = s.groups := rfl
@[simp] theorem setCluster_groupStage (s : State) (l : Nat) (k : Cluster) : (setCluster s l k).groupStage = s.groupStage := rfl
@[simp] theorem setCluster_groupStaged (s : State) (l : Nat) (k : Cluster) : (setCluster s l k).groupStaged = s.groupStaged := rfl
@[simp] theorem setCluster_pstore (s : State) (l : Nat) (k : Cluster) : (setCluster s l k).pstore = s.pstore := rfl
@[simp] theorem setCluster_units (s : State) (l : Nat) (k : Cluster) : (setCluster s l k).units = s.units := rfl
@[simp] theorem setCluster_upds (s : State) (l : Nat) (k : Cluster) : (setCluster s l k).upds = s.upds := rfl
@[simp] theorem setCluster_noc (s : State) (l : Nat) (k : Cluster) : (setCluster s l k).noc = s.noc := rfl
@[simp] theorem setCluster_routes (s : State) (l : Nat) (k : Cluster) : (setCluster s l k).routes = s.routes := rfl
@[simp] theorem setCluster_nocNext (s : State) (l : Nat) (k : Cluster) : (setCluster s l k).nocNext = s.nocNext := rfl
@[simp] theorem setCluster_nocHeld (s : State) (l : Nat) (k : Cluster) : (setCluster s l k).nocHeld = s.nocHeld := rfl
@[simp] theorem setCluster_routeChanges (s : State) (l : Nat) (k : Cluster) : (setCluster s l k).routeChanges = s.routeChanges := rfl
@[simp] theorem setCluster_fallbackClear (s : State) (l : Nat) (k : Cluster) : (setCluster s l k).fallbackClear = s.fallbackClear := rfl
@[simp] theorem setCluster_delivered (s : State) (l : Nat) (k : Cluster) : (setCluster s l k).delivered = s.delivered := rfl
@[simp] theorem setCluster_links (s : State) (l : Nat) (k : Cluster) : (setCluster s l k).links = s.links := rfl
@[simp] theorem setCluster_switch (s : State) (l : Nat) (k : Cluster) : (setCluster s l k).switch = s.switch := rfl
@[simp] theorem setCluster_recvs (s : State) (l : Nat) (k : Cluster) : (setCluster s l k).recvs = s.recvs := rfl
@[simp] theorem setCluster_colGroups (s : State) (l : Nat) (k : Cluster) : (setCluster s l k).colGroups = s.colGroups := rfl
@[simp] theorem setCluster_colls (s : State) (l : Nat) (k : Cluster) : (setCluster s l k).colls = s.colls := rfl
@[simp] theorem setCluster_retries (s : State) (l : Nat) (k : Cluster) : (setCluster s l k).retries = s.retries := rfl
@[simp] theorem setCluster_colTags (s : State) (l : Nat) (k : Cluster) : (setCluster s l k).colTags = s.colTags := rfl
@[simp] theorem setCluster_stretch (s : State) (l : Nat) (k : Cluster) : (setCluster s l k).stretch = s.stretch := rfl
@[simp] theorem setCluster_regionClk (s : State) (l : Nat) (k : Cluster) : (setCluster s l k).regionClk = s.regionClk := rfl
@[simp] theorem setCluster_capo (s : State) (l : Nat) (k : Cluster) : (setCluster s l k).capo = s.capo := rfl
@[simp] theorem setCluster_vminLatch (s : State) (l : Nat) (k : Cluster) : (setCluster s l k).vminLatch = s.vminLatch := rfl
@[simp] theorem setCluster_vminFrom (s : State) (l : Nat) (k : Cluster) : (setCluster s l k).vminFrom = s.vminFrom := rfl
@[simp] theorem setCluster_therm (s : State) (l : Nat) (k : Cluster) : (setCluster s l k).therm = s.therm := rfl
@[simp] theorem setCluster_fuses (s : State) (l : Nat) (k : Cluster) : (setCluster s l k).fuses = s.fuses := rfl
@[simp] theorem setCluster_luthier (s : State) (l : Nat) (k : Cluster) : (setCluster s l k).luthier = s.luthier := rfl
@[simp] theorem setCluster_scopes (s : State) (l : Nat) (k : Cluster) : (setCluster s l k).scopes = s.scopes := rfl
@[simp] theorem setCluster_portWake (s : State) (l : Nat) (k : Cluster) : (setCluster s l k).portWake = s.portWake := rfl
@[simp] theorem setCluster_woken (s : State) (l : Nat) (k : Cluster) : (setCluster s l k).woken = s.woken := rfl
@[simp] theorem setCluster_drones (s : State) (l : Nat) (k : Cluster) : (setCluster s l k).drones = s.drones := rfl
@[simp] theorem setCluster_postponed (s : State) (l : Nat) (k : Cluster) : (setCluster s l k).postponed = s.postponed := rfl
@[simp] theorem setCluster_events (s : State) (l : Nat) (k : Cluster) : (setCluster s l k).events = s.events := rfl
@[simp] theorem setCluster_throttle (s : State) (l : Nat) (k : Cluster) : (setCluster s l k).throttle = s.throttle := rfl
@[simp] theorem setCluster_trace (s : State) (l : Nat) (k : Cluster) : (setCluster s l k).trace = s.trace := rfl
@[simp] theorem setCluster_stop (s : State) (l : Nat) (k : Cluster) : (setCluster s l k).stop = s.stop := rfl

@[simp] theorem setQueue_pending (s : State) (q : Nat) (k : Queue) : (setQueue s q k).pending = s.pending := rfl
@[simp] theorem setQueue_time (s : State) (q : Nat) (k : Queue) : (setQueue s q k).time = s.time := rfl
@[simp] theorem setQueue_freeCtr (s : State) (q : Nat) (k : Queue) : (setQueue s q k).freeCtr = s.freeCtr := rfl
@[simp] theorem setQueue_memEpoch (s : State) (q : Nat) (k : Queue) : (setQueue s q k).memEpoch = s.memEpoch := rfl
@[simp] theorem setQueue_fields (s : State) (q : Nat) (k : Queue) : (setQueue s q k).fields = s.fields := rfl
@[simp] theorem setQueue_power (s : State) (q : Nat) (k : Queue) : (setQueue s q k).power = s.power := rfl
@[simp] theorem setQueue_pins (s : State) (q : Nat) (k : Queue) : (setQueue s q k).pins = s.pins := rfl
@[simp] theorem setQueue_pcie (s : State) (q : Nat) (k : Queue) : (setQueue s q k).pcie = s.pcie := rfl
@[simp] theorem setQueue_mgmt (s : State) (q : Nat) (k : Queue) : (setQueue s q k).mgmt = s.mgmt := rfl
@[simp] theorem setQueue_turns (s : State) (q : Nat) (k : Queue) : (setQueue s q k).turns = s.turns := rfl
@[simp] theorem setQueue_open (s : State) (q : Nat) (k : Queue) : (setQueue s q k).open_ = s.open_ := rfl
@[simp] theorem setQueue_sigs (s : State) (q : Nat) (k : Queue) : (setQueue s q k).sigs = s.sigs := rfl
@[simp] theorem setQueue_mem (s : State) (q : Nat) (k : Queue) : (setQueue s q k).mem = s.mem := rfl
@[simp] theorem setQueue_hostMem (s : State) (q : Nat) (k : Queue) : (setQueue s q k).hostMem = s.hostMem := rfl
@[simp] theorem setQueue_hostPoison (s : State) (q : Nat) (k : Queue) : (setQueue s q k).hostPoison = s.hostPoison := rfl
@[simp] theorem setQueue_flash (s : State) (q : Nat) (k : Queue) : (setQueue s q k).flash = s.flash := rfl
@[simp] theorem setQueue_flashOp (s : State) (q : Nat) (k : Queue) : (setQueue s q k).flashOp = s.flashOp := rfl
@[simp] theorem setQueue_saddles (s : State) (q : Nat) (k : Queue) : (setQueue s q k).saddles = s.saddles := rfl
@[simp] theorem setQueue_saddleHolds (s : State) (q : Nat) (k : Queue) : (setQueue s q k).saddleHolds = s.saddleHolds := rfl
@[simp] theorem setQueue_evac (s : State) (q : Nat) (k : Queue) : (setQueue s q k).evac = s.evac := rfl
@[simp] theorem setQueue_layerRst (s : State) (q : Nat) (k : Queue) : (setQueue s q k).layerRst = s.layerRst := rfl
@[simp] theorem setQueue_layerDead (s : State) (q : Nat) (k : Queue) : (setQueue s q k).layerDead = s.layerDead := rfl
@[simp] theorem setQueue_scrubbed (s : State) (q : Nat) (k : Queue) : (setQueue s q k).scrubbed = s.scrubbed := rfl
@[simp] theorem setQueue_channelOut (s : State) (q : Nat) (k : Queue) : (setQueue s q k).channelOut = s.channelOut := rfl
@[simp] theorem setQueue_channelBad (s : State) (q : Nat) (k : Queue) : (setQueue s q k).channelBad = s.channelBad := rfl
@[simp] theorem setQueue_stalled (s : State) (q : Nat) (k : Queue) : (setQueue s q k).stalled = s.stalled := rfl
@[simp] theorem setQueue_waiting (s : State) (q : Nat) (k : Queue) : (setQueue s q k).waiting = s.waiting := rfl
@[simp] theorem setQueue_spareCoils (s : State) (q : Nat) (k : Queue) : (setQueue s q k).spareCoils = s.spareCoils := rfl
@[simp] theorem setQueue_thruOpen (s : State) (q : Nat) (k : Queue) : (setQueue s q k).thruOpen = s.thruOpen := rfl
@[simp] theorem setQueue_tlb (s : State) (q : Nat) (k : Queue) : (setQueue s q k).tlb = s.tlb := rfl
@[simp] theorem setQueue_inval (s : State) (q : Nat) (k : Queue) : (setQueue s q k).inval = s.inval := rfl
@[simp] theorem setQueue_seqs (s : State) (q : Nat) (k : Queue) : (setQueue s q k).seqs = s.seqs := rfl
@[simp] theorem setQueue_nodes (s : State) (q : Nat) (k : Queue) : (setQueue s q k).nodes = s.nodes := rfl
@[simp] theorem setQueue_grants (s : State) (q : Nat) (k : Queue) : (setQueue s q k).grants = s.grants := rfl
@[simp] theorem setQueue_pages (s : State) (q : Nat) (k : Queue) : (setQueue s q k).pages = s.pages := rfl
@[simp] theorem setQueue_poolLast (s : State) (q : Nat) (k : Queue) : (setQueue s q k).poolLast = s.poolLast := rfl
@[simp] theorem setQueue_steered (s : State) (q : Nat) (k : Queue) : (setQueue s q k).steered = s.steered := rfl
@[simp] theorem setQueue_attends (s : State) (q : Nat) (k : Queue) : (setQueue s q k).attends = s.attends := rfl
@[simp] theorem setQueue_cores (s : State) (q : Nat) (k : Queue) : (setQueue s q k).cores = s.cores := rfl
@[simp] theorem setQueue_clusters (s : State) (q : Nat) (k : Queue) : (setQueue s q k).clusters = s.clusters := rfl
@[simp] theorem setQueue_loads (s : State) (q : Nat) (k : Queue) : (setQueue s q k).loads = s.loads := rfl
@[simp] theorem setQueue_bells (s : State) (q : Nat) (k : Queue) : (setQueue s q k).bells = s.bells := rfl
@[simp] theorem setQueue_coreSite (s : State) (q : Nat) (k : Queue) : (setQueue s q k).coreSite = s.coreSite := rfl
@[simp] theorem setQueue_updOf (s : State) (q : Nat) (k : Queue) : (setQueue s q k).updOf = s.updOf := rfl
@[simp] theorem setQueue_groups (s : State) (q : Nat) (k : Queue) : (setQueue s q k).groups = s.groups := rfl
@[simp] theorem setQueue_groupStage (s : State) (q : Nat) (k : Queue) : (setQueue s q k).groupStage = s.groupStage := rfl
@[simp] theorem setQueue_groupStaged (s : State) (q : Nat) (k : Queue) : (setQueue s q k).groupStaged = s.groupStaged := rfl
@[simp] theorem setQueue_pstore (s : State) (q : Nat) (k : Queue) : (setQueue s q k).pstore = s.pstore := rfl
@[simp] theorem setQueue_units (s : State) (q : Nat) (k : Queue) : (setQueue s q k).units = s.units := rfl
@[simp] theorem setQueue_upds (s : State) (q : Nat) (k : Queue) : (setQueue s q k).upds = s.upds := rfl
@[simp] theorem setQueue_noc (s : State) (q : Nat) (k : Queue) : (setQueue s q k).noc = s.noc := rfl
@[simp] theorem setQueue_routes (s : State) (q : Nat) (k : Queue) : (setQueue s q k).routes = s.routes := rfl
@[simp] theorem setQueue_nocNext (s : State) (q : Nat) (k : Queue) : (setQueue s q k).nocNext = s.nocNext := rfl
@[simp] theorem setQueue_nocHeld (s : State) (q : Nat) (k : Queue) : (setQueue s q k).nocHeld = s.nocHeld := rfl
@[simp] theorem setQueue_routeChanges (s : State) (q : Nat) (k : Queue) : (setQueue s q k).routeChanges = s.routeChanges := rfl
@[simp] theorem setQueue_fallbackClear (s : State) (q : Nat) (k : Queue) : (setQueue s q k).fallbackClear = s.fallbackClear := rfl
@[simp] theorem setQueue_delivered (s : State) (q : Nat) (k : Queue) : (setQueue s q k).delivered = s.delivered := rfl
@[simp] theorem setQueue_links (s : State) (q : Nat) (k : Queue) : (setQueue s q k).links = s.links := rfl
@[simp] theorem setQueue_switch (s : State) (q : Nat) (k : Queue) : (setQueue s q k).switch = s.switch := rfl
@[simp] theorem setQueue_recvs (s : State) (q : Nat) (k : Queue) : (setQueue s q k).recvs = s.recvs := rfl
@[simp] theorem setQueue_colGroups (s : State) (q : Nat) (k : Queue) : (setQueue s q k).colGroups = s.colGroups := rfl
@[simp] theorem setQueue_colls (s : State) (q : Nat) (k : Queue) : (setQueue s q k).colls = s.colls := rfl
@[simp] theorem setQueue_retries (s : State) (q : Nat) (k : Queue) : (setQueue s q k).retries = s.retries := rfl
@[simp] theorem setQueue_colTags (s : State) (q : Nat) (k : Queue) : (setQueue s q k).colTags = s.colTags := rfl
@[simp] theorem setQueue_stretch (s : State) (q : Nat) (k : Queue) : (setQueue s q k).stretch = s.stretch := rfl
@[simp] theorem setQueue_regionClk (s : State) (q : Nat) (k : Queue) : (setQueue s q k).regionClk = s.regionClk := rfl
@[simp] theorem setQueue_capo (s : State) (q : Nat) (k : Queue) : (setQueue s q k).capo = s.capo := rfl
@[simp] theorem setQueue_vminLatch (s : State) (q : Nat) (k : Queue) : (setQueue s q k).vminLatch = s.vminLatch := rfl
@[simp] theorem setQueue_vminFrom (s : State) (q : Nat) (k : Queue) : (setQueue s q k).vminFrom = s.vminFrom := rfl
@[simp] theorem setQueue_therm (s : State) (q : Nat) (k : Queue) : (setQueue s q k).therm = s.therm := rfl
@[simp] theorem setQueue_fuses (s : State) (q : Nat) (k : Queue) : (setQueue s q k).fuses = s.fuses := rfl
@[simp] theorem setQueue_luthier (s : State) (q : Nat) (k : Queue) : (setQueue s q k).luthier = s.luthier := rfl
@[simp] theorem setQueue_scopes (s : State) (q : Nat) (k : Queue) : (setQueue s q k).scopes = s.scopes := rfl
@[simp] theorem setQueue_portWake (s : State) (q : Nat) (k : Queue) : (setQueue s q k).portWake = s.portWake := rfl
@[simp] theorem setQueue_woken (s : State) (q : Nat) (k : Queue) : (setQueue s q k).woken = s.woken := rfl
@[simp] theorem setQueue_drones (s : State) (q : Nat) (k : Queue) : (setQueue s q k).drones = s.drones := rfl
@[simp] theorem setQueue_postponed (s : State) (q : Nat) (k : Queue) : (setQueue s q k).postponed = s.postponed := rfl
@[simp] theorem setQueue_events (s : State) (q : Nat) (k : Queue) : (setQueue s q k).events = s.events := rfl
@[simp] theorem setQueue_throttle (s : State) (q : Nat) (k : Queue) : (setQueue s q k).throttle = s.throttle := rfl
@[simp] theorem setQueue_trace (s : State) (q : Nat) (k : Queue) : (setQueue s q k).trace = s.trace := rfl
@[simp] theorem setQueue_stop (s : State) (q : Nat) (k : Queue) : (setQueue s q k).stop = s.stop := rfl

@[simp] theorem setLink_pending (s : State) (l : Nat) (k : Link) : (setLink s l k).pending = s.pending := rfl
@[simp] theorem setLink_time (s : State) (l : Nat) (k : Link) : (setLink s l k).time = s.time := rfl
@[simp] theorem setLink_freeCtr (s : State) (l : Nat) (k : Link) : (setLink s l k).freeCtr = s.freeCtr := rfl
@[simp] theorem setLink_memEpoch (s : State) (l : Nat) (k : Link) : (setLink s l k).memEpoch = s.memEpoch := rfl
@[simp] theorem setLink_fields (s : State) (l : Nat) (k : Link) : (setLink s l k).fields = s.fields := rfl
@[simp] theorem setLink_power (s : State) (l : Nat) (k : Link) : (setLink s l k).power = s.power := rfl
@[simp] theorem setLink_pins (s : State) (l : Nat) (k : Link) : (setLink s l k).pins = s.pins := rfl
@[simp] theorem setLink_pcie (s : State) (l : Nat) (k : Link) : (setLink s l k).pcie = s.pcie := rfl
@[simp] theorem setLink_mgmt (s : State) (l : Nat) (k : Link) : (setLink s l k).mgmt = s.mgmt := rfl
@[simp] theorem setLink_queues (s : State) (l : Nat) (k : Link) : (setLink s l k).queues = s.queues := rfl
@[simp] theorem setLink_turns (s : State) (l : Nat) (k : Link) : (setLink s l k).turns = s.turns := rfl
@[simp] theorem setLink_open (s : State) (l : Nat) (k : Link) : (setLink s l k).open_ = s.open_ := rfl
@[simp] theorem setLink_sigs (s : State) (l : Nat) (k : Link) : (setLink s l k).sigs = s.sigs := rfl
@[simp] theorem setLink_mem (s : State) (l : Nat) (k : Link) : (setLink s l k).mem = s.mem := rfl
@[simp] theorem setLink_hostMem (s : State) (l : Nat) (k : Link) : (setLink s l k).hostMem = s.hostMem := rfl
@[simp] theorem setLink_hostPoison (s : State) (l : Nat) (k : Link) : (setLink s l k).hostPoison = s.hostPoison := rfl
@[simp] theorem setLink_flash (s : State) (l : Nat) (k : Link) : (setLink s l k).flash = s.flash := rfl
@[simp] theorem setLink_flashOp (s : State) (l : Nat) (k : Link) : (setLink s l k).flashOp = s.flashOp := rfl
@[simp] theorem setLink_saddles (s : State) (l : Nat) (k : Link) : (setLink s l k).saddles = s.saddles := rfl
@[simp] theorem setLink_saddleHolds (s : State) (l : Nat) (k : Link) : (setLink s l k).saddleHolds = s.saddleHolds := rfl
@[simp] theorem setLink_evac (s : State) (l : Nat) (k : Link) : (setLink s l k).evac = s.evac := rfl
@[simp] theorem setLink_layerRst (s : State) (l : Nat) (k : Link) : (setLink s l k).layerRst = s.layerRst := rfl
@[simp] theorem setLink_layerDead (s : State) (l : Nat) (k : Link) : (setLink s l k).layerDead = s.layerDead := rfl
@[simp] theorem setLink_scrubbed (s : State) (l : Nat) (k : Link) : (setLink s l k).scrubbed = s.scrubbed := rfl
@[simp] theorem setLink_channelOut (s : State) (l : Nat) (k : Link) : (setLink s l k).channelOut = s.channelOut := rfl
@[simp] theorem setLink_channelBad (s : State) (l : Nat) (k : Link) : (setLink s l k).channelBad = s.channelBad := rfl
@[simp] theorem setLink_stalled (s : State) (l : Nat) (k : Link) : (setLink s l k).stalled = s.stalled := rfl
@[simp] theorem setLink_waiting (s : State) (l : Nat) (k : Link) : (setLink s l k).waiting = s.waiting := rfl
@[simp] theorem setLink_spareCoils (s : State) (l : Nat) (k : Link) : (setLink s l k).spareCoils = s.spareCoils := rfl
@[simp] theorem setLink_thruOpen (s : State) (l : Nat) (k : Link) : (setLink s l k).thruOpen = s.thruOpen := rfl
@[simp] theorem setLink_tlb (s : State) (l : Nat) (k : Link) : (setLink s l k).tlb = s.tlb := rfl
@[simp] theorem setLink_inval (s : State) (l : Nat) (k : Link) : (setLink s l k).inval = s.inval := rfl
@[simp] theorem setLink_seqs (s : State) (l : Nat) (k : Link) : (setLink s l k).seqs = s.seqs := rfl
@[simp] theorem setLink_nodes (s : State) (l : Nat) (k : Link) : (setLink s l k).nodes = s.nodes := rfl
@[simp] theorem setLink_grants (s : State) (l : Nat) (k : Link) : (setLink s l k).grants = s.grants := rfl
@[simp] theorem setLink_pages (s : State) (l : Nat) (k : Link) : (setLink s l k).pages = s.pages := rfl
@[simp] theorem setLink_poolLast (s : State) (l : Nat) (k : Link) : (setLink s l k).poolLast = s.poolLast := rfl
@[simp] theorem setLink_steered (s : State) (l : Nat) (k : Link) : (setLink s l k).steered = s.steered := rfl
@[simp] theorem setLink_attends (s : State) (l : Nat) (k : Link) : (setLink s l k).attends = s.attends := rfl
@[simp] theorem setLink_cores (s : State) (l : Nat) (k : Link) : (setLink s l k).cores = s.cores := rfl
@[simp] theorem setLink_clusters (s : State) (l : Nat) (k : Link) : (setLink s l k).clusters = s.clusters := rfl
@[simp] theorem setLink_loads (s : State) (l : Nat) (k : Link) : (setLink s l k).loads = s.loads := rfl
@[simp] theorem setLink_bells (s : State) (l : Nat) (k : Link) : (setLink s l k).bells = s.bells := rfl
@[simp] theorem setLink_coreSite (s : State) (l : Nat) (k : Link) : (setLink s l k).coreSite = s.coreSite := rfl
@[simp] theorem setLink_updOf (s : State) (l : Nat) (k : Link) : (setLink s l k).updOf = s.updOf := rfl
@[simp] theorem setLink_groups (s : State) (l : Nat) (k : Link) : (setLink s l k).groups = s.groups := rfl
@[simp] theorem setLink_groupStage (s : State) (l : Nat) (k : Link) : (setLink s l k).groupStage = s.groupStage := rfl
@[simp] theorem setLink_groupStaged (s : State) (l : Nat) (k : Link) : (setLink s l k).groupStaged = s.groupStaged := rfl
@[simp] theorem setLink_pstore (s : State) (l : Nat) (k : Link) : (setLink s l k).pstore = s.pstore := rfl
@[simp] theorem setLink_units (s : State) (l : Nat) (k : Link) : (setLink s l k).units = s.units := rfl
@[simp] theorem setLink_upds (s : State) (l : Nat) (k : Link) : (setLink s l k).upds = s.upds := rfl
@[simp] theorem setLink_noc (s : State) (l : Nat) (k : Link) : (setLink s l k).noc = s.noc := rfl
@[simp] theorem setLink_routes (s : State) (l : Nat) (k : Link) : (setLink s l k).routes = s.routes := rfl
@[simp] theorem setLink_nocNext (s : State) (l : Nat) (k : Link) : (setLink s l k).nocNext = s.nocNext := rfl
@[simp] theorem setLink_nocHeld (s : State) (l : Nat) (k : Link) : (setLink s l k).nocHeld = s.nocHeld := rfl
@[simp] theorem setLink_routeChanges (s : State) (l : Nat) (k : Link) : (setLink s l k).routeChanges = s.routeChanges := rfl
@[simp] theorem setLink_fallbackClear (s : State) (l : Nat) (k : Link) : (setLink s l k).fallbackClear = s.fallbackClear := rfl
@[simp] theorem setLink_delivered (s : State) (l : Nat) (k : Link) : (setLink s l k).delivered = s.delivered := rfl
@[simp] theorem setLink_switch (s : State) (l : Nat) (k : Link) : (setLink s l k).switch = s.switch := rfl
@[simp] theorem setLink_recvs (s : State) (l : Nat) (k : Link) : (setLink s l k).recvs = s.recvs := rfl
@[simp] theorem setLink_colGroups (s : State) (l : Nat) (k : Link) : (setLink s l k).colGroups = s.colGroups := rfl
@[simp] theorem setLink_colls (s : State) (l : Nat) (k : Link) : (setLink s l k).colls = s.colls := rfl
@[simp] theorem setLink_retries (s : State) (l : Nat) (k : Link) : (setLink s l k).retries = s.retries := rfl
@[simp] theorem setLink_colTags (s : State) (l : Nat) (k : Link) : (setLink s l k).colTags = s.colTags := rfl
@[simp] theorem setLink_stretch (s : State) (l : Nat) (k : Link) : (setLink s l k).stretch = s.stretch := rfl
@[simp] theorem setLink_regionClk (s : State) (l : Nat) (k : Link) : (setLink s l k).regionClk = s.regionClk := rfl
@[simp] theorem setLink_capo (s : State) (l : Nat) (k : Link) : (setLink s l k).capo = s.capo := rfl
@[simp] theorem setLink_vminLatch (s : State) (l : Nat) (k : Link) : (setLink s l k).vminLatch = s.vminLatch := rfl
@[simp] theorem setLink_vminFrom (s : State) (l : Nat) (k : Link) : (setLink s l k).vminFrom = s.vminFrom := rfl
@[simp] theorem setLink_therm (s : State) (l : Nat) (k : Link) : (setLink s l k).therm = s.therm := rfl
@[simp] theorem setLink_fuses (s : State) (l : Nat) (k : Link) : (setLink s l k).fuses = s.fuses := rfl
@[simp] theorem setLink_luthier (s : State) (l : Nat) (k : Link) : (setLink s l k).luthier = s.luthier := rfl
@[simp] theorem setLink_scopes (s : State) (l : Nat) (k : Link) : (setLink s l k).scopes = s.scopes := rfl
@[simp] theorem setLink_portWake (s : State) (l : Nat) (k : Link) : (setLink s l k).portWake = s.portWake := rfl
@[simp] theorem setLink_woken (s : State) (l : Nat) (k : Link) : (setLink s l k).woken = s.woken := rfl
@[simp] theorem setLink_drones (s : State) (l : Nat) (k : Link) : (setLink s l k).drones = s.drones := rfl
@[simp] theorem setLink_postponed (s : State) (l : Nat) (k : Link) : (setLink s l k).postponed = s.postponed := rfl
@[simp] theorem setLink_events (s : State) (l : Nat) (k : Link) : (setLink s l k).events = s.events := rfl
@[simp] theorem setLink_throttle (s : State) (l : Nat) (k : Link) : (setLink s l k).throttle = s.throttle := rfl
@[simp] theorem setLink_trace (s : State) (l : Nat) (k : Link) : (setLink s l k).trace = s.trace := rfl
@[simp] theorem setLink_stop (s : State) (l : Nat) (k : Link) : (setLink s l k).stop = s.stop := rfl

@[simp] theorem setScope_pending (s : State) (i : Nat) (k : Scope) : (setScope s i k).pending = s.pending := rfl
@[simp] theorem setScope_time (s : State) (i : Nat) (k : Scope) : (setScope s i k).time = s.time := rfl
@[simp] theorem setScope_freeCtr (s : State) (i : Nat) (k : Scope) : (setScope s i k).freeCtr = s.freeCtr := rfl
@[simp] theorem setScope_memEpoch (s : State) (i : Nat) (k : Scope) : (setScope s i k).memEpoch = s.memEpoch := rfl
@[simp] theorem setScope_fields (s : State) (i : Nat) (k : Scope) : (setScope s i k).fields = s.fields := rfl
@[simp] theorem setScope_power (s : State) (i : Nat) (k : Scope) : (setScope s i k).power = s.power := rfl
@[simp] theorem setScope_pins (s : State) (i : Nat) (k : Scope) : (setScope s i k).pins = s.pins := rfl
@[simp] theorem setScope_pcie (s : State) (i : Nat) (k : Scope) : (setScope s i k).pcie = s.pcie := rfl
@[simp] theorem setScope_mgmt (s : State) (i : Nat) (k : Scope) : (setScope s i k).mgmt = s.mgmt := rfl
@[simp] theorem setScope_queues (s : State) (i : Nat) (k : Scope) : (setScope s i k).queues = s.queues := rfl
@[simp] theorem setScope_turns (s : State) (i : Nat) (k : Scope) : (setScope s i k).turns = s.turns := rfl
@[simp] theorem setScope_open (s : State) (i : Nat) (k : Scope) : (setScope s i k).open_ = s.open_ := rfl
@[simp] theorem setScope_sigs (s : State) (i : Nat) (k : Scope) : (setScope s i k).sigs = s.sigs := rfl
@[simp] theorem setScope_mem (s : State) (i : Nat) (k : Scope) : (setScope s i k).mem = s.mem := rfl
@[simp] theorem setScope_hostMem (s : State) (i : Nat) (k : Scope) : (setScope s i k).hostMem = s.hostMem := rfl
@[simp] theorem setScope_hostPoison (s : State) (i : Nat) (k : Scope) : (setScope s i k).hostPoison = s.hostPoison := rfl
@[simp] theorem setScope_flash (s : State) (i : Nat) (k : Scope) : (setScope s i k).flash = s.flash := rfl
@[simp] theorem setScope_flashOp (s : State) (i : Nat) (k : Scope) : (setScope s i k).flashOp = s.flashOp := rfl
@[simp] theorem setScope_saddles (s : State) (i : Nat) (k : Scope) : (setScope s i k).saddles = s.saddles := rfl
@[simp] theorem setScope_saddleHolds (s : State) (i : Nat) (k : Scope) : (setScope s i k).saddleHolds = s.saddleHolds := rfl
@[simp] theorem setScope_evac (s : State) (i : Nat) (k : Scope) : (setScope s i k).evac = s.evac := rfl
@[simp] theorem setScope_layerRst (s : State) (i : Nat) (k : Scope) : (setScope s i k).layerRst = s.layerRst := rfl
@[simp] theorem setScope_layerDead (s : State) (i : Nat) (k : Scope) : (setScope s i k).layerDead = s.layerDead := rfl
@[simp] theorem setScope_scrubbed (s : State) (i : Nat) (k : Scope) : (setScope s i k).scrubbed = s.scrubbed := rfl
@[simp] theorem setScope_channelOut (s : State) (i : Nat) (k : Scope) : (setScope s i k).channelOut = s.channelOut := rfl
@[simp] theorem setScope_channelBad (s : State) (i : Nat) (k : Scope) : (setScope s i k).channelBad = s.channelBad := rfl
@[simp] theorem setScope_stalled (s : State) (i : Nat) (k : Scope) : (setScope s i k).stalled = s.stalled := rfl
@[simp] theorem setScope_waiting (s : State) (i : Nat) (k : Scope) : (setScope s i k).waiting = s.waiting := rfl
@[simp] theorem setScope_spareCoils (s : State) (i : Nat) (k : Scope) : (setScope s i k).spareCoils = s.spareCoils := rfl
@[simp] theorem setScope_thruOpen (s : State) (i : Nat) (k : Scope) : (setScope s i k).thruOpen = s.thruOpen := rfl
@[simp] theorem setScope_tlb (s : State) (i : Nat) (k : Scope) : (setScope s i k).tlb = s.tlb := rfl
@[simp] theorem setScope_inval (s : State) (i : Nat) (k : Scope) : (setScope s i k).inval = s.inval := rfl
@[simp] theorem setScope_seqs (s : State) (i : Nat) (k : Scope) : (setScope s i k).seqs = s.seqs := rfl
@[simp] theorem setScope_nodes (s : State) (i : Nat) (k : Scope) : (setScope s i k).nodes = s.nodes := rfl
@[simp] theorem setScope_grants (s : State) (i : Nat) (k : Scope) : (setScope s i k).grants = s.grants := rfl
@[simp] theorem setScope_pages (s : State) (i : Nat) (k : Scope) : (setScope s i k).pages = s.pages := rfl
@[simp] theorem setScope_poolLast (s : State) (i : Nat) (k : Scope) : (setScope s i k).poolLast = s.poolLast := rfl
@[simp] theorem setScope_steered (s : State) (i : Nat) (k : Scope) : (setScope s i k).steered = s.steered := rfl
@[simp] theorem setScope_attends (s : State) (i : Nat) (k : Scope) : (setScope s i k).attends = s.attends := rfl
@[simp] theorem setScope_cores (s : State) (i : Nat) (k : Scope) : (setScope s i k).cores = s.cores := rfl
@[simp] theorem setScope_clusters (s : State) (i : Nat) (k : Scope) : (setScope s i k).clusters = s.clusters := rfl
@[simp] theorem setScope_loads (s : State) (i : Nat) (k : Scope) : (setScope s i k).loads = s.loads := rfl
@[simp] theorem setScope_bells (s : State) (i : Nat) (k : Scope) : (setScope s i k).bells = s.bells := rfl
@[simp] theorem setScope_coreSite (s : State) (i : Nat) (k : Scope) : (setScope s i k).coreSite = s.coreSite := rfl
@[simp] theorem setScope_updOf (s : State) (i : Nat) (k : Scope) : (setScope s i k).updOf = s.updOf := rfl
@[simp] theorem setScope_groups (s : State) (i : Nat) (k : Scope) : (setScope s i k).groups = s.groups := rfl
@[simp] theorem setScope_groupStage (s : State) (i : Nat) (k : Scope) : (setScope s i k).groupStage = s.groupStage := rfl
@[simp] theorem setScope_groupStaged (s : State) (i : Nat) (k : Scope) : (setScope s i k).groupStaged = s.groupStaged := rfl
@[simp] theorem setScope_pstore (s : State) (i : Nat) (k : Scope) : (setScope s i k).pstore = s.pstore := rfl
@[simp] theorem setScope_units (s : State) (i : Nat) (k : Scope) : (setScope s i k).units = s.units := rfl
@[simp] theorem setScope_upds (s : State) (i : Nat) (k : Scope) : (setScope s i k).upds = s.upds := rfl
@[simp] theorem setScope_noc (s : State) (i : Nat) (k : Scope) : (setScope s i k).noc = s.noc := rfl
@[simp] theorem setScope_routes (s : State) (i : Nat) (k : Scope) : (setScope s i k).routes = s.routes := rfl
@[simp] theorem setScope_nocNext (s : State) (i : Nat) (k : Scope) : (setScope s i k).nocNext = s.nocNext := rfl
@[simp] theorem setScope_nocHeld (s : State) (i : Nat) (k : Scope) : (setScope s i k).nocHeld = s.nocHeld := rfl
@[simp] theorem setScope_routeChanges (s : State) (i : Nat) (k : Scope) : (setScope s i k).routeChanges = s.routeChanges := rfl
@[simp] theorem setScope_fallbackClear (s : State) (i : Nat) (k : Scope) : (setScope s i k).fallbackClear = s.fallbackClear := rfl
@[simp] theorem setScope_delivered (s : State) (i : Nat) (k : Scope) : (setScope s i k).delivered = s.delivered := rfl
@[simp] theorem setScope_links (s : State) (i : Nat) (k : Scope) : (setScope s i k).links = s.links := rfl
@[simp] theorem setScope_switch (s : State) (i : Nat) (k : Scope) : (setScope s i k).switch = s.switch := rfl
@[simp] theorem setScope_recvs (s : State) (i : Nat) (k : Scope) : (setScope s i k).recvs = s.recvs := rfl
@[simp] theorem setScope_colGroups (s : State) (i : Nat) (k : Scope) : (setScope s i k).colGroups = s.colGroups := rfl
@[simp] theorem setScope_colls (s : State) (i : Nat) (k : Scope) : (setScope s i k).colls = s.colls := rfl
@[simp] theorem setScope_retries (s : State) (i : Nat) (k : Scope) : (setScope s i k).retries = s.retries := rfl
@[simp] theorem setScope_colTags (s : State) (i : Nat) (k : Scope) : (setScope s i k).colTags = s.colTags := rfl
@[simp] theorem setScope_stretch (s : State) (i : Nat) (k : Scope) : (setScope s i k).stretch = s.stretch := rfl
@[simp] theorem setScope_regionClk (s : State) (i : Nat) (k : Scope) : (setScope s i k).regionClk = s.regionClk := rfl
@[simp] theorem setScope_capo (s : State) (i : Nat) (k : Scope) : (setScope s i k).capo = s.capo := rfl
@[simp] theorem setScope_vminLatch (s : State) (i : Nat) (k : Scope) : (setScope s i k).vminLatch = s.vminLatch := rfl
@[simp] theorem setScope_vminFrom (s : State) (i : Nat) (k : Scope) : (setScope s i k).vminFrom = s.vminFrom := rfl
@[simp] theorem setScope_therm (s : State) (i : Nat) (k : Scope) : (setScope s i k).therm = s.therm := rfl
@[simp] theorem setScope_fuses (s : State) (i : Nat) (k : Scope) : (setScope s i k).fuses = s.fuses := rfl
@[simp] theorem setScope_luthier (s : State) (i : Nat) (k : Scope) : (setScope s i k).luthier = s.luthier := rfl
@[simp] theorem setScope_portWake (s : State) (i : Nat) (k : Scope) : (setScope s i k).portWake = s.portWake := rfl
@[simp] theorem setScope_woken (s : State) (i : Nat) (k : Scope) : (setScope s i k).woken = s.woken := rfl
@[simp] theorem setScope_drones (s : State) (i : Nat) (k : Scope) : (setScope s i k).drones = s.drones := rfl
@[simp] theorem setScope_postponed (s : State) (i : Nat) (k : Scope) : (setScope s i k).postponed = s.postponed := rfl
@[simp] theorem setScope_events (s : State) (i : Nat) (k : Scope) : (setScope s i k).events = s.events := rfl
@[simp] theorem setScope_throttle (s : State) (i : Nat) (k : Scope) : (setScope s i k).throttle = s.throttle := rfl
@[simp] theorem setScope_trace (s : State) (i : Nat) (k : Scope) : (setScope s i k).trace = s.trace := rfl
@[simp] theorem setScope_stop (s : State) (i : Nat) (k : Scope) : (setScope s i k).stop = s.stop := rfl

@[simp] theorem setUnit_pending (s : State) (n : Nat) (k : UpdUnit) : (setUnit s n k).pending = s.pending := rfl
@[simp] theorem setUnit_time (s : State) (n : Nat) (k : UpdUnit) : (setUnit s n k).time = s.time := rfl
@[simp] theorem setUnit_freeCtr (s : State) (n : Nat) (k : UpdUnit) : (setUnit s n k).freeCtr = s.freeCtr := rfl
@[simp] theorem setUnit_memEpoch (s : State) (n : Nat) (k : UpdUnit) : (setUnit s n k).memEpoch = s.memEpoch := rfl
@[simp] theorem setUnit_fields (s : State) (n : Nat) (k : UpdUnit) : (setUnit s n k).fields = s.fields := rfl
@[simp] theorem setUnit_power (s : State) (n : Nat) (k : UpdUnit) : (setUnit s n k).power = s.power := rfl
@[simp] theorem setUnit_pins (s : State) (n : Nat) (k : UpdUnit) : (setUnit s n k).pins = s.pins := rfl
@[simp] theorem setUnit_pcie (s : State) (n : Nat) (k : UpdUnit) : (setUnit s n k).pcie = s.pcie := rfl
@[simp] theorem setUnit_mgmt (s : State) (n : Nat) (k : UpdUnit) : (setUnit s n k).mgmt = s.mgmt := rfl
@[simp] theorem setUnit_queues (s : State) (n : Nat) (k : UpdUnit) : (setUnit s n k).queues = s.queues := rfl
@[simp] theorem setUnit_turns (s : State) (n : Nat) (k : UpdUnit) : (setUnit s n k).turns = s.turns := rfl
@[simp] theorem setUnit_open (s : State) (n : Nat) (k : UpdUnit) : (setUnit s n k).open_ = s.open_ := rfl
@[simp] theorem setUnit_sigs (s : State) (n : Nat) (k : UpdUnit) : (setUnit s n k).sigs = s.sigs := rfl
@[simp] theorem setUnit_mem (s : State) (n : Nat) (k : UpdUnit) : (setUnit s n k).mem = s.mem := rfl
@[simp] theorem setUnit_hostMem (s : State) (n : Nat) (k : UpdUnit) : (setUnit s n k).hostMem = s.hostMem := rfl
@[simp] theorem setUnit_hostPoison (s : State) (n : Nat) (k : UpdUnit) : (setUnit s n k).hostPoison = s.hostPoison := rfl
@[simp] theorem setUnit_flash (s : State) (n : Nat) (k : UpdUnit) : (setUnit s n k).flash = s.flash := rfl
@[simp] theorem setUnit_flashOp (s : State) (n : Nat) (k : UpdUnit) : (setUnit s n k).flashOp = s.flashOp := rfl
@[simp] theorem setUnit_saddles (s : State) (n : Nat) (k : UpdUnit) : (setUnit s n k).saddles = s.saddles := rfl
@[simp] theorem setUnit_saddleHolds (s : State) (n : Nat) (k : UpdUnit) : (setUnit s n k).saddleHolds = s.saddleHolds := rfl
@[simp] theorem setUnit_evac (s : State) (n : Nat) (k : UpdUnit) : (setUnit s n k).evac = s.evac := rfl
@[simp] theorem setUnit_layerRst (s : State) (n : Nat) (k : UpdUnit) : (setUnit s n k).layerRst = s.layerRst := rfl
@[simp] theorem setUnit_layerDead (s : State) (n : Nat) (k : UpdUnit) : (setUnit s n k).layerDead = s.layerDead := rfl
@[simp] theorem setUnit_scrubbed (s : State) (n : Nat) (k : UpdUnit) : (setUnit s n k).scrubbed = s.scrubbed := rfl
@[simp] theorem setUnit_channelOut (s : State) (n : Nat) (k : UpdUnit) : (setUnit s n k).channelOut = s.channelOut := rfl
@[simp] theorem setUnit_channelBad (s : State) (n : Nat) (k : UpdUnit) : (setUnit s n k).channelBad = s.channelBad := rfl
@[simp] theorem setUnit_stalled (s : State) (n : Nat) (k : UpdUnit) : (setUnit s n k).stalled = s.stalled := rfl
@[simp] theorem setUnit_waiting (s : State) (n : Nat) (k : UpdUnit) : (setUnit s n k).waiting = s.waiting := rfl
@[simp] theorem setUnit_spareCoils (s : State) (n : Nat) (k : UpdUnit) : (setUnit s n k).spareCoils = s.spareCoils := rfl
@[simp] theorem setUnit_thruOpen (s : State) (n : Nat) (k : UpdUnit) : (setUnit s n k).thruOpen = s.thruOpen := rfl
@[simp] theorem setUnit_tlb (s : State) (n : Nat) (k : UpdUnit) : (setUnit s n k).tlb = s.tlb := rfl
@[simp] theorem setUnit_inval (s : State) (n : Nat) (k : UpdUnit) : (setUnit s n k).inval = s.inval := rfl
@[simp] theorem setUnit_seqs (s : State) (n : Nat) (k : UpdUnit) : (setUnit s n k).seqs = s.seqs := rfl
@[simp] theorem setUnit_nodes (s : State) (n : Nat) (k : UpdUnit) : (setUnit s n k).nodes = s.nodes := rfl
@[simp] theorem setUnit_grants (s : State) (n : Nat) (k : UpdUnit) : (setUnit s n k).grants = s.grants := rfl
@[simp] theorem setUnit_pages (s : State) (n : Nat) (k : UpdUnit) : (setUnit s n k).pages = s.pages := rfl
@[simp] theorem setUnit_poolLast (s : State) (n : Nat) (k : UpdUnit) : (setUnit s n k).poolLast = s.poolLast := rfl
@[simp] theorem setUnit_steered (s : State) (n : Nat) (k : UpdUnit) : (setUnit s n k).steered = s.steered := rfl
@[simp] theorem setUnit_attends (s : State) (n : Nat) (k : UpdUnit) : (setUnit s n k).attends = s.attends := rfl
@[simp] theorem setUnit_cores (s : State) (n : Nat) (k : UpdUnit) : (setUnit s n k).cores = s.cores := rfl
@[simp] theorem setUnit_clusters (s : State) (n : Nat) (k : UpdUnit) : (setUnit s n k).clusters = s.clusters := rfl
@[simp] theorem setUnit_loads (s : State) (n : Nat) (k : UpdUnit) : (setUnit s n k).loads = s.loads := rfl
@[simp] theorem setUnit_bells (s : State) (n : Nat) (k : UpdUnit) : (setUnit s n k).bells = s.bells := rfl
@[simp] theorem setUnit_coreSite (s : State) (n : Nat) (k : UpdUnit) : (setUnit s n k).coreSite = s.coreSite := rfl
@[simp] theorem setUnit_updOf (s : State) (n : Nat) (k : UpdUnit) : (setUnit s n k).updOf = s.updOf := rfl
@[simp] theorem setUnit_groups (s : State) (n : Nat) (k : UpdUnit) : (setUnit s n k).groups = s.groups := rfl
@[simp] theorem setUnit_groupStage (s : State) (n : Nat) (k : UpdUnit) : (setUnit s n k).groupStage = s.groupStage := rfl
@[simp] theorem setUnit_groupStaged (s : State) (n : Nat) (k : UpdUnit) : (setUnit s n k).groupStaged = s.groupStaged := rfl
@[simp] theorem setUnit_pstore (s : State) (n : Nat) (k : UpdUnit) : (setUnit s n k).pstore = s.pstore := rfl
@[simp] theorem setUnit_upds (s : State) (n : Nat) (k : UpdUnit) : (setUnit s n k).upds = s.upds := rfl
@[simp] theorem setUnit_noc (s : State) (n : Nat) (k : UpdUnit) : (setUnit s n k).noc = s.noc := rfl
@[simp] theorem setUnit_routes (s : State) (n : Nat) (k : UpdUnit) : (setUnit s n k).routes = s.routes := rfl
@[simp] theorem setUnit_nocNext (s : State) (n : Nat) (k : UpdUnit) : (setUnit s n k).nocNext = s.nocNext := rfl
@[simp] theorem setUnit_nocHeld (s : State) (n : Nat) (k : UpdUnit) : (setUnit s n k).nocHeld = s.nocHeld := rfl
@[simp] theorem setUnit_routeChanges (s : State) (n : Nat) (k : UpdUnit) : (setUnit s n k).routeChanges = s.routeChanges := rfl
@[simp] theorem setUnit_fallbackClear (s : State) (n : Nat) (k : UpdUnit) : (setUnit s n k).fallbackClear = s.fallbackClear := rfl
@[simp] theorem setUnit_delivered (s : State) (n : Nat) (k : UpdUnit) : (setUnit s n k).delivered = s.delivered := rfl
@[simp] theorem setUnit_links (s : State) (n : Nat) (k : UpdUnit) : (setUnit s n k).links = s.links := rfl
@[simp] theorem setUnit_switch (s : State) (n : Nat) (k : UpdUnit) : (setUnit s n k).switch = s.switch := rfl
@[simp] theorem setUnit_recvs (s : State) (n : Nat) (k : UpdUnit) : (setUnit s n k).recvs = s.recvs := rfl
@[simp] theorem setUnit_colGroups (s : State) (n : Nat) (k : UpdUnit) : (setUnit s n k).colGroups = s.colGroups := rfl
@[simp] theorem setUnit_colls (s : State) (n : Nat) (k : UpdUnit) : (setUnit s n k).colls = s.colls := rfl
@[simp] theorem setUnit_retries (s : State) (n : Nat) (k : UpdUnit) : (setUnit s n k).retries = s.retries := rfl
@[simp] theorem setUnit_colTags (s : State) (n : Nat) (k : UpdUnit) : (setUnit s n k).colTags = s.colTags := rfl
@[simp] theorem setUnit_stretch (s : State) (n : Nat) (k : UpdUnit) : (setUnit s n k).stretch = s.stretch := rfl
@[simp] theorem setUnit_regionClk (s : State) (n : Nat) (k : UpdUnit) : (setUnit s n k).regionClk = s.regionClk := rfl
@[simp] theorem setUnit_capo (s : State) (n : Nat) (k : UpdUnit) : (setUnit s n k).capo = s.capo := rfl
@[simp] theorem setUnit_vminLatch (s : State) (n : Nat) (k : UpdUnit) : (setUnit s n k).vminLatch = s.vminLatch := rfl
@[simp] theorem setUnit_vminFrom (s : State) (n : Nat) (k : UpdUnit) : (setUnit s n k).vminFrom = s.vminFrom := rfl
@[simp] theorem setUnit_therm (s : State) (n : Nat) (k : UpdUnit) : (setUnit s n k).therm = s.therm := rfl
@[simp] theorem setUnit_fuses (s : State) (n : Nat) (k : UpdUnit) : (setUnit s n k).fuses = s.fuses := rfl
@[simp] theorem setUnit_luthier (s : State) (n : Nat) (k : UpdUnit) : (setUnit s n k).luthier = s.luthier := rfl
@[simp] theorem setUnit_scopes (s : State) (n : Nat) (k : UpdUnit) : (setUnit s n k).scopes = s.scopes := rfl
@[simp] theorem setUnit_portWake (s : State) (n : Nat) (k : UpdUnit) : (setUnit s n k).portWake = s.portWake := rfl
@[simp] theorem setUnit_woken (s : State) (n : Nat) (k : UpdUnit) : (setUnit s n k).woken = s.woken := rfl
@[simp] theorem setUnit_drones (s : State) (n : Nat) (k : UpdUnit) : (setUnit s n k).drones = s.drones := rfl
@[simp] theorem setUnit_postponed (s : State) (n : Nat) (k : UpdUnit) : (setUnit s n k).postponed = s.postponed := rfl
@[simp] theorem setUnit_events (s : State) (n : Nat) (k : UpdUnit) : (setUnit s n k).events = s.events := rfl
@[simp] theorem setUnit_throttle (s : State) (n : Nat) (k : UpdUnit) : (setUnit s n k).throttle = s.throttle := rfl
@[simp] theorem setUnit_trace (s : State) (n : Nat) (k : UpdUnit) : (setUnit s n k).trace = s.trace := rfl
@[simp] theorem setUnit_stop (s : State) (n : Nat) (k : UpdUnit) : (setUnit s n k).stop = s.stop := rfl

@[simp] theorem drawn_freeCtr (s : State) : (drawn s).freeCtr = s.freeCtr + 1 := rfl

@[simp] theorem drawn_pending (s : State) : (drawn s).pending = s.pending := rfl
@[simp] theorem drawn_time (s : State) : (drawn s).time = s.time := rfl
@[simp] theorem drawn_memEpoch (s : State) : (drawn s).memEpoch = s.memEpoch := rfl
@[simp] theorem drawn_fields (s : State) : (drawn s).fields = s.fields := rfl
@[simp] theorem drawn_power (s : State) : (drawn s).power = s.power := rfl
@[simp] theorem drawn_pins (s : State) : (drawn s).pins = s.pins := rfl
@[simp] theorem drawn_pcie (s : State) : (drawn s).pcie = s.pcie := rfl
@[simp] theorem drawn_mgmt (s : State) : (drawn s).mgmt = s.mgmt := rfl
@[simp] theorem drawn_queues (s : State) : (drawn s).queues = s.queues := rfl
@[simp] theorem drawn_turns (s : State) : (drawn s).turns = s.turns := rfl
@[simp] theorem drawn_open (s : State) : (drawn s).open_ = s.open_ := rfl
@[simp] theorem drawn_sigs (s : State) : (drawn s).sigs = s.sigs := rfl
@[simp] theorem drawn_mem (s : State) : (drawn s).mem = s.mem := rfl
@[simp] theorem drawn_hostMem (s : State) : (drawn s).hostMem = s.hostMem := rfl
@[simp] theorem drawn_hostPoison (s : State) : (drawn s).hostPoison = s.hostPoison := rfl
@[simp] theorem drawn_flash (s : State) : (drawn s).flash = s.flash := rfl
@[simp] theorem drawn_flashOp (s : State) : (drawn s).flashOp = s.flashOp := rfl
@[simp] theorem drawn_saddles (s : State) : (drawn s).saddles = s.saddles := rfl
@[simp] theorem drawn_saddleHolds (s : State) : (drawn s).saddleHolds = s.saddleHolds := rfl
@[simp] theorem drawn_evac (s : State) : (drawn s).evac = s.evac := rfl
@[simp] theorem drawn_layerRst (s : State) : (drawn s).layerRst = s.layerRst := rfl
@[simp] theorem drawn_layerDead (s : State) : (drawn s).layerDead = s.layerDead := rfl
@[simp] theorem drawn_scrubbed (s : State) : (drawn s).scrubbed = s.scrubbed := rfl
@[simp] theorem drawn_channelOut (s : State) : (drawn s).channelOut = s.channelOut := rfl
@[simp] theorem drawn_channelBad (s : State) : (drawn s).channelBad = s.channelBad := rfl
@[simp] theorem drawn_stalled (s : State) : (drawn s).stalled = s.stalled := rfl
@[simp] theorem drawn_waiting (s : State) : (drawn s).waiting = s.waiting := rfl
@[simp] theorem drawn_spareCoils (s : State) : (drawn s).spareCoils = s.spareCoils := rfl
@[simp] theorem drawn_thruOpen (s : State) : (drawn s).thruOpen = s.thruOpen := rfl
@[simp] theorem drawn_tlb (s : State) : (drawn s).tlb = s.tlb := rfl
@[simp] theorem drawn_inval (s : State) : (drawn s).inval = s.inval := rfl
@[simp] theorem drawn_seqs (s : State) : (drawn s).seqs = s.seqs := rfl
@[simp] theorem drawn_nodes (s : State) : (drawn s).nodes = s.nodes := rfl
@[simp] theorem drawn_grants (s : State) : (drawn s).grants = s.grants := rfl
@[simp] theorem drawn_pages (s : State) : (drawn s).pages = s.pages := rfl
@[simp] theorem drawn_poolLast (s : State) : (drawn s).poolLast = s.poolLast := rfl
@[simp] theorem drawn_steered (s : State) : (drawn s).steered = s.steered := rfl
@[simp] theorem drawn_attends (s : State) : (drawn s).attends = s.attends := rfl
@[simp] theorem drawn_cores (s : State) : (drawn s).cores = s.cores := rfl
@[simp] theorem drawn_clusters (s : State) : (drawn s).clusters = s.clusters := rfl
@[simp] theorem drawn_loads (s : State) : (drawn s).loads = s.loads := rfl
@[simp] theorem drawn_bells (s : State) : (drawn s).bells = s.bells := rfl
@[simp] theorem drawn_coreSite (s : State) : (drawn s).coreSite = s.coreSite := rfl
@[simp] theorem drawn_updOf (s : State) : (drawn s).updOf = s.updOf := rfl
@[simp] theorem drawn_groups (s : State) : (drawn s).groups = s.groups := rfl
@[simp] theorem drawn_groupStage (s : State) : (drawn s).groupStage = s.groupStage := rfl
@[simp] theorem drawn_groupStaged (s : State) : (drawn s).groupStaged = s.groupStaged := rfl
@[simp] theorem drawn_pstore (s : State) : (drawn s).pstore = s.pstore := rfl
@[simp] theorem drawn_units (s : State) : (drawn s).units = s.units := rfl
@[simp] theorem drawn_upds (s : State) : (drawn s).upds = s.upds := rfl
@[simp] theorem drawn_noc (s : State) : (drawn s).noc = s.noc := rfl
@[simp] theorem drawn_routes (s : State) : (drawn s).routes = s.routes := rfl
@[simp] theorem drawn_nocNext (s : State) : (drawn s).nocNext = s.nocNext := rfl
@[simp] theorem drawn_nocHeld (s : State) : (drawn s).nocHeld = s.nocHeld := rfl
@[simp] theorem drawn_routeChanges (s : State) : (drawn s).routeChanges = s.routeChanges := rfl
@[simp] theorem drawn_fallbackClear (s : State) : (drawn s).fallbackClear = s.fallbackClear := rfl
@[simp] theorem drawn_delivered (s : State) : (drawn s).delivered = s.delivered := rfl
@[simp] theorem drawn_links (s : State) : (drawn s).links = s.links := rfl
@[simp] theorem drawn_switch (s : State) : (drawn s).switch = s.switch := rfl
@[simp] theorem drawn_recvs (s : State) : (drawn s).recvs = s.recvs := rfl
@[simp] theorem drawn_colGroups (s : State) : (drawn s).colGroups = s.colGroups := rfl
@[simp] theorem drawn_colls (s : State) : (drawn s).colls = s.colls := rfl
@[simp] theorem drawn_retries (s : State) : (drawn s).retries = s.retries := rfl
@[simp] theorem drawn_colTags (s : State) : (drawn s).colTags = s.colTags := rfl
@[simp] theorem drawn_stretch (s : State) : (drawn s).stretch = s.stretch := rfl
@[simp] theorem drawn_regionClk (s : State) : (drawn s).regionClk = s.regionClk := rfl
@[simp] theorem drawn_capo (s : State) : (drawn s).capo = s.capo := rfl
@[simp] theorem drawn_vminLatch (s : State) : (drawn s).vminLatch = s.vminLatch := rfl
@[simp] theorem drawn_vminFrom (s : State) : (drawn s).vminFrom = s.vminFrom := rfl
@[simp] theorem drawn_therm (s : State) : (drawn s).therm = s.therm := rfl
@[simp] theorem drawn_fuses (s : State) : (drawn s).fuses = s.fuses := rfl
@[simp] theorem drawn_luthier (s : State) : (drawn s).luthier = s.luthier := rfl
@[simp] theorem drawn_scopes (s : State) : (drawn s).scopes = s.scopes := rfl
@[simp] theorem drawn_portWake (s : State) : (drawn s).portWake = s.portWake := rfl
@[simp] theorem drawn_woken (s : State) : (drawn s).woken = s.woken := rfl
@[simp] theorem drawn_drones (s : State) : (drawn s).drones = s.drones := rfl
@[simp] theorem drawn_postponed (s : State) : (drawn s).postponed = s.postponed := rfl
@[simp] theorem drawn_events (s : State) : (drawn s).events = s.events := rfl
@[simp] theorem drawn_throttle (s : State) : (drawn s).throttle = s.throttle := rfl
@[simp] theorem drawn_trace (s : State) : (drawn s).trace = s.trace := rfl
@[simp] theorem drawn_stop (s : State) : (drawn s).stop = s.stop := rfl

/-- A field reads what was written to it, cut to its width. -/
@[simp] theorem getF_setF_self (s : State) (f : Fld) (v : Nat) : getF (setF s f v) f = v % 2 ^ f.width := by
  simp [getF, setF]

/-- A write of a field leaves fields at other bits alone. -/
theorem getF_setF_ne (s : State) {f g : Fld} (v : Nat) (h : g.key ≠ f.key) : getF (setF s f v) g = getF s g := by
  by_cases hr : g.reset = f.reset
  · simp only [getF, setF, hr]; rw [sget_sput_ne _ _ _ h]
  · simp only [getF, setF, sget, sput]
    split
    · rw [slook_sdel_ne _ h]
    · rw [slook_sins_ne _ _ h]

@[simp] theorem getCore_setCore_self (s : State) (c : Nat) (k : Core) : getCore (setCore s c k) c = k := by
  simp [getCore, setCore]

theorem getCore_setCore_ne (s : State) {c d : Nat} (k : Core) (h : d ≠ c) : getCore (setCore s c k) d = getCore s d :=
  sget_sput_ne _ _ _ h

@[simp] theorem getUnit_setUnit_self (s : State) (n : Nat) (k : UpdUnit) : getUnit (setUnit s n k) n = k := by
  simp [getUnit, setUnit]

theorem getUnit_setUnit_ne (s : State) {n m : Nat} (k : UpdUnit) (h : m ≠ n) : getUnit (setUnit s n k) m = getUnit s m :=
  sget_sput_ne _ _ _ h

@[simp] theorem getCluster_setCluster_self (s : State) (l : Nat) (k : Cluster) : getCluster (setCluster s l k) l = k := by
  simp [getCluster, setCluster]

@[simp] theorem getQueue_setQueue_self (s : State) (q : Nat) (k : Queue) : getQueue (setQueue s q k) q = k := by
  simp [getQueue, setQueue]

@[simp] theorem getLink_setLink_self (s : State) (l : Nat) (k : Link) : getLink (setLink s l k) l = k := by
  simp [getLink, setLink]

@[simp] theorem getScope_setScope_self (s : State) (i : Nat) (k : Scope) : getScope (setScope s i k) i = k := by
  simp [getScope, setScope]

/-- A register field stays as it is where `fields` does. -/
theorem getF_congr {s t : State} (h : t.fields = s.fields) (f : Fld) : getF t f = getF s f := by
  simp [getF, h]

@[simp] theorem getF_setCore (s : State) (c : Nat) (k : Core) (f : Fld) : getF (setCore s c k) f = getF s f := rfl
@[simp] theorem getF_setCluster (s : State) (c : Nat) (k : Cluster) (f : Fld) : getF (setCluster s c k) f = getF s f := rfl
@[simp] theorem getF_setQueue (s : State) (c : Nat) (k : Queue) (f : Fld) : getF (setQueue s c k) f = getF s f := rfl
@[simp] theorem getF_setLink (s : State) (c : Nat) (k : Link) (f : Fld) : getF (setLink s c k) f = getF s f := rfl
@[simp] theorem getF_setScope (s : State) (c : Nat) (k : Scope) (f : Fld) : getF (setScope s c k) f = getF s f := rfl
@[simp] theorem getF_setUnit (s : State) (c : Nat) (k : UpdUnit) (f : Fld) : getF (setUnit s c k) f = getF s f := rfl
@[simp] theorem getCore_setF (s : State) (f : Fld) (v c : Nat) : getCore (setF s f v) c = getCore s c := rfl
@[simp] theorem getUnit_setF (s : State) (f : Fld) (v n : Nat) : getUnit (setF s f v) n = getUnit s n := rfl
@[simp] theorem getQueue_setF (s : State) (f : Fld) (v q : Nat) : getQueue (setF s f v) q = getQueue s q := rfl

end Sys2Proof.Machine
end

