-- ==== Sys2Proof/Laws/Cores.lean ====
section
/-! SUPPORT. The laws of the registers of a unit and of issue. -/

namespace Sys2Proof.Machine

@[simp] theorem getRf_setRf (s : State) (u : Exu) (r : RegFile) : getRf (setRf s u r) u = r := by
  cases u <;> simp [getRf, setRf]

@[simp] theorem getRf_countIssue (s : State) (u : Exu) : getRf (countIssue s u) u = getRf s u := by
  cases u <;> simp [getRf, countIssue]

@[simp] theorem codeLen_countIssue (s : State) (u : Exu) : codeLen (countIssue s u) u = codeLen s u := by
  cases u <;> simp [codeLen, countIssue, getCluster]

@[simp] theorem ready_setRf (s : State) (u : Exu) (r : RegFile) : ready (setRf s u r) = ready s := by
  cases u <;> rfl

@[simp] theorem ready_countIssue (s : State) (u : Exu) : ready (countIssue s u) = ready s := by
  cases u <;> rfl

/-- Everything that `issue` can do: nothing, PC_RANGE, ILLEGAL_INSTR, or the instruction. -/
theorem issue_runs {s : State} {u : Exu} {len : Nat} (h : Runs s u len) (f : State → State) :
    issue s u len true f = f (countIssue s u) := by
  obtain ⟨_, _, hm, hp⟩ := h
  have hp' : ¬ codeLen s u < (getRf s u).pc + len := by omega
  simp [issue, hm, hp']

theorem issue_illegal {s : State} {u : Exu} {len : Nat} (h : Runs s u len) (f : State → State) :
    issue s u len false f = raiseExc (countIssue s u) u .illegalInstr := by
  obtain ⟨_, _, hm, hp⟩ := h
  have hp' : ¬ codeLen s u < (getRf s u).pc + len := by omega
  simp [issue, hm, hp']

theorem issue_idle {s : State} {u : Exu} {len : Nat} {ok : Bool} (h : mayIssue s u = false) (f : State → State) :
    issue s u len ok f = s := by
  simp [issue, h]

theorem issueRegs_runs {s : State} {u : Exu} {len : Nat} (h : Runs s u len) (f : RegFile → RegFile) :
    issueRegs s u len true f = Issued s u (advance len (f (getRf s u))) := by
  simp [issueRegs, issue_runs h, Issued]

theorem issueCore_runs {s : State} {c len : Nat} (h : Runs s (.core c) len) (f : State → Nat → State) :
    issueCore s (.core c) len true f = f (countIssue s (.core c)) c := by
  simp [issueCore, issue_runs h]

/-- x0 reads 0. -/
@[simp] theorem xget_zero (r : RegFile) : xget r 0#5 = pzero := by simp [xget]

/-- A write to x0 is discarded. -/
@[simp] theorem xput_zero (r : RegFile) (v : PWord) : xput r 0#5 v = r := by simp [xput]

theorem xget_xput_self (r : RegFile) {i : BitVec 5} (v : PWord) (h : i ≠ 0) : xget (xput r i v) i = v := by
  unfold xget xput
  rw [if_neg h, if_neg h]
  exact sget_sput_self (α := PWord) _ _ _ _

theorem xget_xput_ne (r : RegFile) {i j : BitVec 5} (v : PWord) (h : j ≠ i) : xget (xput r i v) j = xget r j := by
  unfold xget xput
  by_cases hj : j = 0
  · rw [if_pos hj, if_pos hj]
  · rw [if_neg hj, if_neg hj]
    by_cases hi : i = 0
    · rw [if_pos hi]
    · rw [if_neg hi]
      exact sget_sput_ne (α := PWord) _ _ _ (fun e => h (BitVec.eq_of_toNat_eq e))

@[simp] theorem xput_pc (r : RegFile) (i : BitVec 5) (v : PWord) : (xput r i v).pc = r.pc := by
  unfold xput; split <;> rfl

@[simp] theorem xput_v (r : RegFile) (i : BitVec 5) (v : PWord) : (xput r i v).v = r.v := by
  unfold xput; split <;> rfl

@[simp] theorem xput_p (r : RegFile) (i : BitVec 5) (v : PWord) : (xput r i v).p = r.p := by
  unfold xput; split <;> rfl

end Sys2Proof.Machine
end

