-- ==== Sys2Proof/Laws/Events.lean ====
section
/-! SUPPORT. What raising an event does, and what it leaves. -/

namespace Sys2Proof.Machine

theorem devState_of_ready {s : State} (h : ready s = true) : devState s = 1 ∨ devState s = 2 := by
  simp only [ready, Bool.and_eq_true, Bool.or_eq_true, beq_iff_eq] at h
  exact h.2

theorem devState_ne_zero_of_ready {s : State} (h : ready s = true) : devState s ≠ 0 := by
  rcases devState_of_ready h with h | h <;> omega

/-- Everything that an event raised after bring-up changes. -/
theorem raiseEv_service {s : State} (h : devState s ≠ 0) (famCode sev : Nat) (part : Option Nat)
    (kind index aux data : Nat) :
    raiseEv s famCode sev part kind index aux data =
      { s with events := { s.events with waiting := s.events.waiting ++
        [{ time := s.time, famCode := famCode, sev := sev, part := part, srcKind := kind, srcIndex := index,
           suppressed := 0, aux := aux, data := data }] } } := by
  have h' : (devState { s with events := { s.events with waiting := s.events.waiting ++
        [{ time := s.time, famCode := famCode, sev := sev, part := part, srcKind := kind, srcIndex := index,
           suppressed := 0, aux := aux, data := data }] } } == 0) = false := by
    simpa [devState, getF] using h
  simp only [raiseEv, h']
  rfl

theorem raises_raiseEv {s : State} (h : devState s ≠ 0) (famCode sev : Nat) (part : Option Nat)
    (kind index aux data : Nat) : Raises s (raiseEv s famCode sev part kind index aux data) famCode sev part kind index aux data := by
  simp [raiseEv_service h, Raises]

/-- Outside bring-up an event changes no register field. -/
theorem getF_raiseEv {s : State} (h : devState s ≠ 0) (famCode sev : Nat) (part : Option Nat)
    (kind index aux data : Nat) (f : Fld) : getF (raiseEv s famCode sev part kind index aux data) f = getF s f := by
  rw [raiseEv_service h]; rfl

end Sys2Proof.Machine
end

