-- ==== Sys2Proof/Laws/Frames.lean ====
section
/-! SUPPORT. What the shared operations may change: one lemma for each, as an equation that names the fields. -/

namespace Sys2Proof.Machine

/-- A trace record changes the trace, and the count of those dropped. -/
theorem traceHapAt_frame (s : State) (time type : Nat) (part : Option Nat) (x r f : Bool) (src : Nat)
    (p : BitVec 160) :
    let t := traceHapAt s time type part x r f src p
    t = { s with fields := t.fields, trace := t.trace } := by
  simp only [traceHapAt, traceStage]
  repeat' split
  all_goals rfl

theorem traceHap_frame (s : State) (type : Nat) (part : Option Nat) (x r f : Bool) (src : Nat) (p : BitVec 160) :
    let t := traceHap s type part x r f src p
    t = { s with fields := t.fields, trace := t.trace } :=
  traceHapAt_frame s s.time type part x r f src p

theorem traceForce_frame (s : State) (r : TraceRec) : traceForce s r = { s with trace := (traceForce s r).trace } := by
  simp only [traceForce]; split <;> rfl

/-- An event changes the events and the count of its stage. -/
theorem raiseEv_frame (s : State) (famCode sev : Nat) (part : Option Nat) (kind index aux data : Nat) :
    let t := raiseEv s famCode sev part kind index aux data
    t = { s with fields := t.fields, events := t.events } := by
  simp only [raiseEv]; split <;> rfl

/-- The states that agree but for register fields, events, trace and stop. -/
def SameButDebug (s t : State) : Prop := t = { s with fields := t.fields, events := t.events, trace := t.trace, stop := t.stop }

theorem SameButDebug.refl (s : State) : SameButDebug s s := rfl

theorem SameButDebug.trans {s t u : State} (h : SameButDebug s t) (k : SameButDebug t u) : SameButDebug s u := by
  unfold SameButDebug at *
  rw [k, h]

theorem SameButDebug.setF {s t : State} (h : SameButDebug s t) (f : Fld) (v : Nat) : SameButDebug s (setF t f v) := by
  unfold SameButDebug at *
  rw [h]; rfl

theorem SameButDebug.raiseEv {s t : State} (h : SameButDebug s t) (famCode sev : Nat) (part : Option Nat)
    (kind index aux data : Nat) : SameButDebug s (raiseEv t famCode sev part kind index aux data) := by
  refine h.trans ?_
  have := raiseEv_frame t famCode sev part kind index aux data
  unfold SameButDebug
  rw [this]

theorem SameButDebug.forEach {α : Type} {s t : State} (h : SameButDebug s t) (l : List α) (f : State → α → State)
    (hf : ∀ u a, SameButDebug u (f u a)) : SameButDebug s (forEach l t f) := by
  unfold Sys2Proof.Machine.forEach
  induction l generalizing t with
  | nil => exact h
  | cons a r ih => exact ih (h.trans (hf t a))

theorem traceForce_same (s : State) (r : TraceRec) : SameButDebug s (traceForce s r) := by
  unfold SameButDebug
  rw [traceForce_frame]

theorem traceHap_same (s : State) (type : Nat) (part : Option Nat) (x r f : Bool) (src : Nat) (p : BitVec 160) :
    SameButDebug s (traceHap s type part x r f src p) := by
  have h := traceHap_frame s type part x r f src p
  unfold SameButDebug
  rw [h]

/-- The stop token changes nothing but fields, events, the trace and the stop itself (R338). -/
theorem stopToken_same (s : State) (n : Nat) : SameButDebug s (stopToken s n) := by
  unfold stopToken
  split
  · simp only
    refine SameButDebug.raiseEv (SameButDebug.trans (SameButDebug.forEach ?_ _ _ ?_) (traceForce_same _ _)) _ _ _ _ _ _ _
    · rfl
    · exact fun u a => (SameButDebug.refl u).setF _ _
  · rfl

theorem fireTrigger_same (s : State) (cause matched : Nat) : SameButDebug s (fireTrigger s cause matched) := by
  unfold fireTrigger
  simp only
  refine SameButDebug.raiseEv (SameButDebug.trans ?_ (traceForce_same _ _)) _ _ _ _ _ _ _
  split <;> rfl

/-- So does the trace trigger (R336). -/
theorem traceTrigger_same (s : State) (cause matched : Nat) : SameButDebug s (traceTrigger s cause matched) := by
  unfold traceTrigger
  split
  · split
    · exact (SameButDebug.refl s).setF _ _
    · have h := fireTrigger_same s cause matched
      simp only
      split
      · split
        · exact (h.trans (stopToken_same _ _)).setF _ _
        · exact h.trans (stopToken_same _ _)
      · exact h
  · rfl

/-- A throttle reason changes, beside these, what the capo keeps of its reasons (R266). -/
theorem setReason_frame (s : State) (i : Nat) (on : Bool) :
    setReason s i on = { s with
      fields := (setReason s i on).fields, events := (setReason s i on).events, trace := (setReason s i on).trace,
      stop := (setReason s i on).stop, capo := { s.capo with reasonSince := (setReason s i on).capo.reasonSince } } := by
  have key : ∀ u : State, (∃ c, SameButDebug { s with capo := { s.capo with reasonSince := c } } u) →
      u = { s with fields := u.fields, events := u.events, trace := u.trace, stop := u.stop,
                   capo := { s.capo with reasonSince := u.capo.reasonSince } } := by
    rintro u ⟨c, h⟩
    unfold SameButDebug at h
    rw [h]
  apply key
  have ite : ∀ {v x y : State} {q : Prop} [Decidable q], SameButDebug v x → SameButDebug v y →
      SameButDebug v (if q then x else y) := by
    intro v x y q _ hx hy
    split
    · exact hx
    · exact hy
  cases on with
  | true =>
    by_cases hc : (getF s F.CAPO_REASON_REASONS).testBit i = true
    · exact ⟨s.capo.reasonSince, by simp [setReason, hc]; rfl⟩
    · refine ⟨sput 0 s.capo.reasonSince i s.time, ?_⟩
      unfold setReason
      dsimp only
      rw [if_neg hc, if_pos rfl]
      refine ite ?_ ?_
      · refine SameButDebug.trans (SameButDebug.trans ?_ (traceHap_same _ _ _ _ _ _ _ _)) (traceTrigger_same _ _ _)
        rfl
      · refine SameButDebug.trans ?_ (traceHap_same _ _ _ _ _ _ _ _)
        rfl
  | false =>
    refine ⟨s.capo.reasonSince, ?_⟩
    unfold setReason
    simp only [Bool.false_and, Bool.false_eq_true, if_false]
    refine ite rfl ?_
    refine SameButDebug.trans ?_ (traceHap_same _ _ _ _ _ _ _ _)
    rfl

/-- What is bound for the host changes host memory and the PCIe state alone. -/
theorem hostSend_frame (s : State) (o : HostOut) :
    hostSend s o = { s with
      hostMem := (hostSend s o).hostMem, hostPoison := (hostSend s o).hostPoison, pcie := (hostSend s o).pcie } := by
  unfold hostSend
  split
  · cases o <;> rfl
  · rfl

/-- A command that an unpowered or halted device meets inside itself does nothing, and one that is out of
service neither. -/
theorem gates_halted {s : State} (h : halted s = true) (f : State → State) (n : Nat) :
    live s f = s ∧ inService s f = s ∧ atStage s n f = s := by
  refine ⟨live_shut f h, inService_shut f (not_ready_of_halted h), atStage_shut f ?_⟩
  simp only [halted, beq_iff_eq] at h
  omega

end Sys2Proof.Machine
end

