-- ==== Sys2Proof/Laws/Lanes.lean ====
section
/-! SUPPORT. Lanes of vector registers: what is written reads back, and a write of lanes says what every lane then
holds (R161, R167). -/

namespace Sys2Proof.Machine

theorem vget_vput_self (r : RegFile) (n : BitVec 5) (i : Nat) (v : Word × Bool) : vget (vput r n i v) n i = v := by
  simp [vget, vput]

theorem vget_vput_ne (r : RegFile) {n m : BitVec 5} {i j : Nat} (v : Word × Bool) (hi : i < 32) (hj : j < 32)
    (h : m ≠ n ∨ j ≠ i) : vget (vput r n i v) m j = vget r m j := by
  have hk : m.toNat * 32 + j ≠ n.toNat * 32 + i := by
    intro e
    have hm : m.toNat = n.toNat := by omega
    rcases h with h | h
    · exact h (BitVec.eq_of_toNat_eq hm)
    · omega
  simp [vget, vput, sget_sput_ne _ _ _ hk]

/-- One write of lanes, over any list of them without repeats. -/
theorem vget_putLanes_aux (d : BitVec 5) (pz : Bool) (on : List Nat) (f : Nat → Word × Bool) (l : List Nat)
    (hl : ∀ i ∈ l, i < 32) (r : RegFile) (n : BitVec 5) (i : Nat) (hi : i < 32) (hd : l.Nodup) :
    let t := l.foldl (fun acc i => if on.contains i then vput acc d i (f i) else if pz then vput acc d i (0, false) else acc) r
    vget t n i = (if n = d ∧ i ∈ l then (if on.contains i then f i else if pz then (0, false) else vget r d i)
      else vget r n i) ∧ t.x = r.x ∧ t.p = r.p ∧ t.pc = r.pc := by
  induction l generalizing r with
  | nil => simp
  | cons a t ih =>
    have ha : a < 32 := hl a (by simp)
    simp only [List.nodup_cons] at hd
    simp only [List.foldl_cons]
    obtain ⟨h1, h2, h3, h4⟩ := ih (fun i h => hl i (by simp [h]))
      (if on.contains a then vput r d a (f a) else if pz then vput r d a (0, false) else r) hd.2
    refine ⟨?_, ?_, ?_, ?_⟩
    · rw [h1]
      by_cases hn : n = d
      · subst hn
        by_cases hia : i = a
        · subst hia
          simp only [hd.1, and_false, if_false, true_and, List.mem_cons, true_or, if_true]
          split
          · exact vget_vput_self r n i (f i)
          · split
            · exact vget_vput_self r n i (0, false)
            · rfl
        · have hne : ∀ v, vget (vput r n a v) n i = vget r n i := fun v => vget_vput_ne r v ha hi (.inr hia)
          have : vget (if on.contains a = true then vput r n a (f a) else if pz = true then vput r n a (0, false) else r) n i
              = vget r n i := by
            split
            · exact hne _
            · split
              · exact hne _
              · rfl
          simp only [true_and, List.mem_cons, hia, false_or, this]
      · have hne : ∀ v, vget (vput r d a v) n i = vget r n i := fun v => vget_vput_ne r v ha hi (.inl hn)
        simp only [hn, false_and, if_false]
        split
        · exact hne _
        · split
          · exact hne _
          · rfl
    · rw [h2]
      split
      · rfl
      · split <;> rfl
    · rw [h3]
      split
      · rfl
      · split <;> rfl
    · rw [h4]
      split
      · rfl
      · split <;> rfl

/-- Writing lanes: the register `d` holds `f` where `on` says so, and keeps its other lanes or clears them. -/
theorem vget_putLanes (d : BitVec 5) (pz : Bool) (on : List Nat) (f : Nat → Word × Bool) (r : RegFile)
    (n : BitVec 5) (i : Nat) (hi : i < 32) :
    vget (putLanes d pz on f r) n i =
      (if n = d then (if on.contains i then f i else if pz then (0, false) else vget r d i) else vget r n i) := by
  have h := (vget_putLanes_aux d pz on f lanes (by decide) r n i hi (by decide)).1
  have hm : i ∈ lanes := by simp [lanes, List.mem_range, hi]
  unfold putLanes
  rw [h]
  simp [hm]

theorem putLanes_rest (d : BitVec 5) (pz : Bool) (on : List Nat) (f : Nat → Word × Bool) (r : RegFile) :
    (putLanes d pz on f r).x = r.x ∧ (putLanes d pz on f r).p = r.p ∧ (putLanes d pz on f r).pc = r.pc :=
  (vget_putLanes_aux d pz on f lanes (by decide) r d 0 (by decide) (by decide)).2

end Sys2Proof.Machine
end

