-- ==== Sys2Proof/Laws/Links.lean ====
section
/-! SUPPORT. The CRC of flits: a flit made by `mkFlit` passes its check, and its header fields and packet are those
given. -/

namespace Sys2Proof.Machine

/-- A flit with a CRC put into bits 63:48. -/
def withCrc (f : FlitWord) (c : BitVec 16) : FlitWord := f ||| BitVec.ofNat 2048 (c.toNat * 2 ^ 48)

theorem withCrc_testBit (f : FlitWord) (c : BitVec 16) (i : Nat) :
    (withCrc f c).toNat.testBit i = (f.toNat.testBit i || (decide (48 ≤ i) && c.toNat.testBit (i - 48))) := by
  have hc : c.toNat * 2 ^ 48 < 2 ^ 2048 := by
    have h : c.toNat * 2 ^ 48 < 2 ^ 64 := by have := c.isLt; omega
    exact Nat.lt_trans h (Nat.pow_lt_pow_right (by decide) (by decide))
  rw [withCrc, BitVec.toNat_or, Nat.testBit_or, BitVec.toNat_ofNat, Nat.mod_eq_of_lt hc, Nat.testBit_mul_two_pow]

theorem bits_testBit (v hi lo i : Nat) : (bits v hi lo).testBit i = (decide (i < hi + 1 - lo) && v.testBit (i + lo)) := by
  rw [bits, Nat.testBit_mod_two_pow, Nat.testBit_div_two_pow]

/-- A field outside bits 63:48 does not see the CRC. -/
theorem flBits_withCrc (f : FlitWord) (c : BitVec 16) (hi lo : Nat) (h : hi < 48 ∨ 64 ≤ lo) :
    flBits (withCrc f c) hi lo = flBits f hi lo := by
  apply Nat.eq_of_testBit_eq
  intro i
  unfold flBits
  rw [bits_testBit, bits_testBit, withCrc_testBit]
  by_cases hi' : i < hi + 1 - lo
  · have : (decide (48 ≤ i + lo) && c.toNat.testBit (i + lo - 48)) = false := by
      rcases h with h | h
      · have : ¬ 48 ≤ i + lo := by omega
        simp [this]
      · have hb : c.toNat.testBit (i + lo - 48) = false := by
          apply Nat.testBit_lt_two_pow
          exact Nat.lt_of_lt_of_le c.isLt (Nat.pow_le_pow_right (by decide) (by omega))
        simp [hb]
    simp [this]
  · simp [hi']

/-- Bytes 0 to 5 and 8 to 255 do not see the CRC. -/
theorem byte_withCrc (f : FlitWord) (c : BitVec 16) (i : Nat) (h : i < 6 ∨ 8 ≤ i) :
    BitVec.ofNat 8 ((withCrc f c).toNat / 2 ^ (8 * i)) = BitVec.ofNat 8 (f.toNat / 2 ^ (8 * i)) := by
  have := flBits_withCrc f c (8 * i + 7) (8 * i) (by omega)
  unfold flBits bits at this
  apply BitVec.eq_of_toNat_eq
  have e : 8 * i + 7 + 1 - 8 * i = 8 := by omega
  rw [e] at this
  simpa using this

theorem flitCrc_withCrc (f : FlitWord) (c : BitVec 16) : flitCrc (withCrc f c) = flitCrc f := by
  have h : ∀ (g : FlitWord), (bytesOf 256 g.toNat).take 6 ++ (bytesOf 256 g.toNat).drop 8 =
      ((List.range 6) ++ (List.range' 8 248)).map (fun i => BitVec.ofNat 8 (g.toNat / 2 ^ (8 * i))) := by
    intro g
    have e6 : (List.range 256).take 6 = List.range 6 := by simp [List.take_range]
    have e8 : (List.range 256).drop 8 = List.range' 8 248 := by simp [List.range_eq_range', List.drop_range']
    rw [bytesOf, ← List.map_take, ← List.map_drop, e6, e8, List.map_append]
  unfold flitCrc
  simp only [h]
  congr 1
  apply List.map_congr_left
  intro i hi
  apply byte_withCrc
  simp [List.mem_range'] at hi
  omega

/-- A flit whose CRC bits were 0 passes its check once its CRC is in place. -/
theorem flitOk_withCrc (f : FlitWord) (h : flBits f 63 48 = 0) : flitOk (withCrc f (flitCrc f)) = true := by
  unfold flitOk
  rw [flitCrc_withCrc, beq_iff_eq]
  apply Nat.eq_of_testBit_eq
  intro i
  have hz : ∀ j, (flBits f 63 48).testBit j = false := by simp [h]
  have hi := hz i
  unfold flBits at hi ⊢
  rw [bits_testBit] at hi ⊢
  rw [withCrc_testBit]
  by_cases h16 : i < 16
  · have : decide (i < 63 + 1 - 48) = true := by simpa using h16
    rw [this, Bool.true_and] at hi ⊢
    simp [hi]
  · have hb : (flitCrc f).toNat.testBit i = false := by
      apply Nat.testBit_lt_two_pow
      exact Nat.lt_of_lt_of_le (flitCrc f).isLt (Nat.pow_le_pow_right (by decide) (by omega))
    simp [h16, hb]

/-- The flit that `mkFlit` seals. -/
def rawFlit (kind vc crVc crCnt : Nat) (ack : Option Nat) (seq epoch body : Nat) : FlitWord :=
  BitVec.ofNat 2048 (kind + vc * 2 ^ 2 + crVc * 2 ^ 4 + crCnt * 2 ^ 8 + (if ack.isSome then 2 ^ 14 else 0) +
    seq * 2 ^ 16 + ack.getD 0 * 2 ^ 28 + epoch * 2 ^ 40 + body * 2 ^ 64)

theorem mkFlit_eq (kind vc crVc crCnt : Nat) (ack : Option Nat) (seq epoch body : Nat) :
    mkFlit kind vc crVc crCnt ack seq epoch body =
      withCrc (rawFlit kind vc crVc crCnt ack seq epoch body) (flitCrc (rawFlit kind vc crVc crCnt ack seq epoch body)) := rfl

/-- Every flit that the model makes passes its check. -/
theorem flitOk_mkFlit (kind vc crVc crCnt : Nat) (ack : Option Nat) (seq epoch body : Nat)
    (h : flBits (rawFlit kind vc crVc crCnt ack seq epoch body) 63 48 = 0) :
    flitOk (mkFlit kind vc crVc crCnt ack seq epoch body) = true := by
  rw [mkFlit_eq]; exact flitOk_withCrc _ h

/-- Its header fields and its body are those given to it. -/
theorem flBits_mkFlit (kind vc crVc crCnt : Nat) (ack : Option Nat) (seq epoch body hi lo : Nat) (h : hi < 48 ∨ 64 ≤ lo) :
    flBits (mkFlit kind vc crVc crCnt ack seq epoch body) hi lo =
      flBits (rawFlit kind vc crVc crCnt ack seq epoch body) hi lo := by
  rw [mkFlit_eq]; exact flBits_withCrc _ _ _ _ h

end Sys2Proof.Machine
end

