-- ==== Sys2Proof/Laws/Memory.lean ====
section
/-! SUPPORT. Every operation that writes device memory, host memory or the flash keeps their canonical form;
a word stored reads back, and another does not change. -/

namespace Sys2Proof.Machine

/-- The canonical form is a matter of three fields. -/
theorem Memory.wf_congr {s t : State} (hm : t.mem = s.mem) (hh : t.hostMem = s.hostMem) (hf : t.flash = s.flash) :
    Memory.wf t = Memory.wf s := by
  simp [Memory.wf, hm, hh, hf]

theorem Memory.wf_iff {s : State} :
    Memory.wf s = true ↔ sorted s.mem = true ∧ sorted s.hostMem = true ∧ swf 0xFF#8 s.flash = true := by
  simp [Memory.wf, and_assoc]

theorem Memory.wf_reset : Memory.wf State.reset = true := rfl

theorem Memory.wf_setF {s : State} (f : Fld) (v : Nat) (h : Memory.wf s = true) : Memory.wf (setF s f v) = true := h

/-- A loop keeps what its body keeps. -/
theorem forEach_keeps {α β : Type} (p : β → Prop) (f : β → α → β) (hf : ∀ s a, p s → p (f s a)) (l : List α) (s : β)
    (h : p s) : p (forEach l s f) := by
  unfold forEach
  induction l generalizing s with
  | nil => exact h
  | cons a t ih => exact ih _ (hf s a h)

/-! ## Device memory -/

theorem cwAt_cwPut_self (s : State) (pw : Nat) (c : Codeword) : cwAt (cwPut s pw c) pw = c := by
  simp [cwAt, cwPut]

theorem cwAt_cwPut_ne (s : State) {pw qw : Nat} (c : Codeword) (h : qw ≠ pw) : cwAt (cwPut s pw c) qw = cwAt s qw := by
  simp [cwAt, cwPut, slook_sins_ne _ _ h]

theorem Memory.wf_cwPut {s : State} (pw : Nat) (c : Codeword) (h : Memory.wf s = true) :
    Memory.wf (cwPut s pw c) = true := by
  rw [Memory.wf_iff] at *
  exact ⟨sorted_sins s.mem pw c h.1, h.2.1, h.2.2⟩

theorem raiseEv_memories (s : State) (famCode sev : Nat) (part : Option Nat) (kind index aux data : Nat) :
    let t := raiseEv s famCode sev part kind index aux data
    t.mem = s.mem ∧ t.hostMem = s.hostMem ∧ t.flash = s.flash := by
  simp only [raiseEv]
  split <;> simp

theorem Memory.wf_raiseEv {s : State} (famCode sev : Nat) (part : Option Nat) (kind index aux data : Nat)
    (h : Memory.wf s = true) : Memory.wf (raiseEv s famCode sev part kind index aux data) = true := by
  obtain ⟨a, b, c⟩ := raiseEv_memories s famCode sev part kind index aux data
  rw [Memory.wf_congr a b c]; exact h

theorem traceHap_memories (s : State) (type : Nat) (part : Option Nat) (x r f : Bool) (src : Nat) (p : BitVec 160) :
    let t := traceHap s type part x r f src p
    t.mem = s.mem ∧ t.hostMem = s.hostMem ∧ t.flash = s.flash := by
  simp only [traceHap, traceHapAt, traceStage]
  repeat' split
  all_goals exact ⟨rfl, rfl, rfl⟩

theorem wakeLayer_memories (s : State) (p : Nat) :
    let t := wakeLayer s p
    t.mem = s.mem ∧ t.hostMem = s.hostMem ∧ t.flash = s.flash := by
  simp only [wakeLayer]
  generalize he : (if getScope s (8 + p) = .zero then s
    else { setScope s (8 + p) .zero with woken := p :: s.woken }) = u
  have hu : u.mem = s.mem ∧ u.hostMem = s.hostMem ∧ u.flash = s.flash := by
    rw [← he]; split <;> exact ⟨rfl, rfl, rfl⟩
  split
  · exact hu
  · obtain ⟨a, b, c⟩ := traceHap_memories (incF (setF u (layerSleepFld p) 0) (F.CLK_WAKE_CNT (8 + p)))
      9 none false false false 0 (payloadOf [(0, 8 + p), (1, getF s (layerSleepFld p)), (2, 0)])
    simp only [runDrones, traceSleep]
    rw [a, b, c]
    exact hu

theorem Memory.wf_wakeLayer {s : State} (p : Nat) (h : Memory.wf s = true) : Memory.wf (wakeLayer s p) = true := by
  obtain ⟨a, b, c⟩ := wakeLayer_memories s p
  rw [Memory.wf_congr a b c]; exact h

theorem Memory.wf_stallAt {s : State} (pl bi line : Nat) (h : Memory.wf s = true) :
    Memory.wf (stallAt s pl bi line) = true := by
  unfold stallAt; split <;> exact h

theorem Memory.wf_takeBad {s : State} (key : Nat) (h : Memory.wf s = true) : Memory.wf (takeBad s key).1 = true := by
  unfold takeBad; split <;> exact h

theorem Memory.wf_readPhys {s : State} (pcol pw dpa : Nat) (h : Memory.wf s = true) :
    Memory.wf (readPhys s pcol pw dpa).1 = true := by
  simp only [readPhys]
  split
  · exact h
  · unfold countCe; split <;> exact h
  · exact Memory.wf_raiseEv (s := incF s F.MEM_UE_CNT) _ _ _ _ _ _ _ h

theorem Memory.wf_readBank {s : State} (a : Nat) (h : Memory.wf s = true) : Memory.wf (readBank s a).1 = true := by
  simp only [readBank]
  split
  · exact h
  · split
    · exact Memory.wf_stallAt _ _ _ (Memory.wf_wakeLayer _ h)
    · exact Memory.wf_readPhys _ _ _ (Memory.wf_stallAt _ _ _ (Memory.wf_wakeLayer _ h))

theorem Memory.wf_readWord {s : State} (a : Nat) (h : Memory.wf s = true) : Memory.wf (readWord s a).1 = true := by
  have hb := Memory.wf_readBank a h
  unfold readWord
  split
  · next e => rw [e] at hb; exact hb
  · next e => rw [e] at hb; exact Memory.wf_takeBad _ hb

theorem Memory.wf_writePhys {s : State} (pcol pw dpa : Nat) (d : DWord) (m : BitVec 8) (p : Bool) (h : Memory.wf s = true) :
    Memory.wf (writePhys s pcol pw dpa d m p).1 = true := by
  simp only [writePhys]
  split
  · exact Memory.wf_cwPut _ _ h
  · exact Memory.wf_cwPut _ _ (Memory.wf_readPhys _ _ _ h)

/-- What a fold over states and a verdict keeps of the state. -/
theorem foldl_fst_keeps {α β γ : Type} (p : β → Prop) (f : β × γ → α → β × γ) (hf : ∀ x a, p x.1 → p (f x a).1)
    (l : List α) (x : β × γ) (h : p x.1) : p (l.foldl f x).1 := by
  induction l generalizing x with
  | nil => exact h
  | cons a t ih => exact ih _ (hf x a h)

theorem Memory.wf_writeBank {s : State} (a : Nat) (d : DWord) (m : BitVec 8) (p : Bool) (h : Memory.wf s = true) :
    Memory.wf (writeBank s a d m p).1 = true := by
  simp only [writeBank]
  split
  · exact h
  · refine foldl_fst_keeps (fun s => Memory.wf s = true) _ (fun x pl hx => ?_) _ _ h
    have hs := Memory.wf_stallAt pl (bankIndex pl (getF s (F.MEM_COLMAP_PCOL (dpaCol a))) (dpaBank a))
      (dpaByte a / 8 / 8) (Memory.wf_wakeLayer pl hx)
    split
    · exact hs
    · exact Memory.wf_writePhys _ _ _ _ _ _ hs

theorem Memory.wf_writeWord {s : State} (a : Nat) (d : DWord) (m : BitVec 8) (p : Bool) (h : Memory.wf s = true) :
    Memory.wf (writeWord s a d m p).1 = true :=
  Memory.wf_writeBank _ _ _ _ (Memory.wf_takeBad _ h)

theorem Memory.wf_forgetCols {s : State} (cols : List Nat) (h : Memory.wf s = true) :
    Memory.wf (forgetCols s cols) = true := by
  rw [Memory.wf_iff] at *
  refine ⟨?_, h.2.1, h.2.2⟩
  have := h.1
  rw [sorted_eq_above] at *
  exact above_filter _ s.mem 0 this

/-! ## Host memory -/

theorem sorted_hostPut (m : List Host.Cell) (addr : Nat) (bs : List Byte) (h : sorted m = true) :
    sorted (hostPut m addr bs) = true := by
  unfold hostPut
  generalize bs.zipIdx = l
  induction l generalizing m with
  | nil => exact h
  | cons a t ih => exact ih _ (sorted_sins m _ _ h)

theorem Memory.wf_hostDo {s : State} (o : HostOut) (h : Memory.wf s = true) : Memory.wf (hostDo s o) = true := by
  cases o with
  | write addr bs poison =>
    rw [Memory.wf_iff] at *
    exact ⟨h.1, sorted_hostPut s.hostMem addr bs h.2.1, h.2.2⟩
  | msix fn vec => exact h

theorem Memory.wf_hostSend {s : State} (o : HostOut) (h : Memory.wf s = true) : Memory.wf (hostSend s o) = true := by
  unfold hostSend
  split
  · exact Memory.wf_hostDo o h
  · exact h

/-! ## The flash -/

theorem swf_puts (addr : Nat) (f : Nat → Byte) (l : List Nat) (m : List Host.Cell) (h : swf 0xFF#8 m = true) :
    swf 0xFF#8 (l.foldl (fun m i => sput 0xFF#8 m (addr + i) (f i)) m) = true := by
  induction l generalizing m with
  | nil => exact h
  | cons a t ih => exact ih _ (swf_sput _ m _ _ h)

theorem swf_flashApply (m : List Host.Cell) (o : FlashOp) (h : swf 0xFF#8 m = true) :
    swf 0xFF#8 (flashApply m o) = true := by
  unfold flashApply
  split
  · exact swf_filter _ _ m h
  · generalize o.bytes.zipIdx = l
    induction l generalizing m with
    | nil => exact h
    | cons a t ih => exact ih _ (swf_sput _ m _ _ h)

theorem Memory.wf_cutFlash {s : State} (h : Memory.wf s = true) : Memory.wf (cutFlash s) = true := by
  unfold cutFlash
  split
  · exact h
  · rw [Memory.wf_iff] at *
    exact ⟨h.1, h.2.1, swf_puts _ _ _ s.flash h.2.2⟩

/-! ## Resets and power -/

theorem Memory.wf_removePower {s : State} (p : Power) (h : Memory.wf s = true) : Memory.wf (removePower s p) = true := by
  have := Memory.wf_cutFlash h
  rw [Memory.wf_iff] at *
  exact ⟨rfl, this.2.1, this.2.2⟩

theorem Memory.wf_powerUp {s : State} (slot : BitVec 4) (h : Memory.wf s = true) : Memory.wf (powerUp s slot) = true :=
  Memory.wf_removePower .on h

theorem Memory.wf_warmReset {s : State} (h : Memory.wf s = true) : Memory.wf (warmReset s) = true := by
  rw [Memory.wf_iff] at *
  exact ⟨rfl, h.2.1, h.2.2⟩

theorem Memory.wf_loseStack {s : State} (h : Memory.wf s = true) : Memory.wf (loseStack s) = true := by
  rw [Memory.wf_iff] at *
  exact ⟨rfl, h.2.1, h.2.2⟩

end Sys2Proof.Machine
end

