-- ==== Sys2Proof/Tests/Slice0.lean ====
section
/-! SUPPORT. Tests: an ill-formed command for each check, small runs of one command, and for each statement
that has hypotheses a state and operands that meet them (`test_witness_…`). Expected values are the manual's
rules worked by hand. -/

namespace Sys2Proof.Tests

set_option Elab.async false

open Sys2Proof.Machine

/-! ## Ill-formed commands are refused -/

theorem test_wf_queue : Instr.wf (.nop 1024) = false ∧ Instr.wf (.nop 1023) = true := by decide
theorem test_wf_core : Instr.wf (.systemNop (.core 1024)) = false ∧ Instr.wf (.doorbellArrival 1024) = false := by decide
theorem test_wf_unit : Instr.wf (.systemNop (.upd 72)) = false ∧ Instr.wf (.ruleLimit 72) = false := by decide
theorem test_wf_cluster : Instr.wf (.loadProgramWrite 0 0 64) = false := by decide
theorem test_wf_function : Instr.wf (.sqDb 16 0 0) = false ∧ Instr.wf (.vfFlr 0) = false := by decide
theorem test_wf_partition : Instr.wf (.partitionDrainEnd 16) = false := by decide
theorem test_wf_signal : Instr.wf (.sigWrite 0 4096 0) = false := by decide
theorem test_wf_layer : Instr.wf (.thruSlice 9 0) = false := by decide
theorem test_wf_column : Instr.wf (.channelTransfer 1224 false [] 0) = false := by decide
theorem test_wf_bank : Instr.wf (.saddleInstall 0 0 4) = false := by decide
theorem test_wf_channel : Instr.wf (.couplerFail 1308 0 false) = false := by decide
theorem test_wf_boundary : Instr.wf (.couplerFail 0 9 false) = false ∧ Instr.wf (.couplerFail 1224 9 false) = true := by decide
theorem test_wf_dpa : Instr.wf (.bankRead (2 ^ 37)) = false := by decide
theorem test_wf_mib : Instr.wf (.scrub (2 ^ 17)) = false := by decide
theorem test_wf_page : Instr.wf (.pageReturn (2 ^ 23)) = false := by decide
theorem test_wf_sequence : Instr.wf (.thermalSteering 65536 0) = false := by decide
theorem test_wf_token : Instr.wf (.dmaDone 0 16) = false := by decide
theorem test_wf_site : Instr.wf (.droop 72 0) = false := by decide
theorem test_wf_router : Instr.wf (.routerBypass 72) = false := by decide
theorem test_wf_port : Instr.wf (.packetAged 0 7) = false := by decide
theorem test_wf_mesh : Instr.wf (.meshLinkFailed 7 0) = false ∧ Instr.wf (.meshLinkFailed 7 3) = false ∧
    Instr.wf (.meshLinkFailed 64 2) = false ∧ Instr.wf (.meshLinkFailed 8 1) = false := by decide
theorem test_wf_region : Instr.wf (.droopStepHoldEnd 8) = false := by decide
theorem test_wf_half : Instr.wf (.pllLock 2) = false := by decide
theorem test_wf_clock : Instr.wf (.clockStep true 2) = false ∧ Instr.wf (.clockStep false 8) = false := by decide
theorem test_wf_link : Instr.wf (.replayLimit 48) = false := by decide
theorem test_wf_channel_class : Instr.wf (.linkWatchdog 0 4) = false := by decide
theorem test_wf_device : Instr.wf (.peerLost 0 0 4096) = false := by decide
theorem test_wf_group : Instr.wf (.collectiveTimeout 512 0) = false := by decide
theorem test_wf_sense : Instr.wf (.senseExclude 8 0) = false := by decide
theorem test_wf_cell : Instr.wf (.vminReadLatch 76) = false ∧ Instr.wf (.vminReadLatch 75) = true := by decide
theorem test_wf_noc_cell : Instr.wf (.nocCellFail 4) = false := by decide
theorem test_wf_phase : Instr.wf (.vrDegraded 0 12) = false := by decide
theorem test_wf_sensor : Instr.wf (.sensorReadmit 324 0) = false := by decide
theorem test_wf_die_sensor : Instr.wf (.thermtrip 11 0 0 0) = false := by decide
theorem test_wf_scope : Instr.wf (.scheduledWake 17) = false := by decide
theorem test_wf_drone_scope : Instr.wf (.droneDeadline .scrub 31) = false ∧ Instr.wf (.droneDeadline .scrub 80) = false := by
  decide
theorem test_wf_peg : Instr.wf (.peg .coupler 0 18) = false ∧ Instr.wf (.peg .regulator 76 0) = false ∧
    Instr.wf (.peg .sensor 3564 0) = false ∧ Instr.wf (.peg .link 48 0) = false := by decide
theorem test_wf_window : Instr.wf (.rateWindowClose 512) = false := by decide
theorem test_wf_stop_unit : Instr.wf (.stopToken (.frontEnd 5)) = false ∧ Instr.wf (.stopToken (.core 1024)) = false := by
  decide
theorem test_wf_trunk : Instr.wf (.couplerTraining [{ chan := 1308, boundary := 0, down := false, coils := 1 }] []) = false ∧
    Instr.wf (.couplerTraining [] [1308]) = false := by decide
theorem test_wf_line : Instr.wf (.dramTraining [] { lines := [{ player := 0, pcol := 0, bank := 0, line := 65536 }], retrained := [] }) = false ∧
    Instr.wf (.dramTraining [] { lines := [], retrained := [1224] }) = false := by decide
theorem test_wf_unit_kind : Instr.wf (.logicalNumbering [{ kind := 4, index := 0, sub := 0 }]) = false := by decide
theorem test_wf_peer :
    Instr.wf (.linkTraining [{ link := 0, lanes := 0xF#4, peer := some (4096, 0), supported := true }]) = false := by decide
theorem test_wf_host_read : Instr.wf (.hostReadTimeout (.ring 1024)) = false := by decide
theorem test_wf_budgets : Instr.wf (.fretGrant (List.replicate 10 0) 0 0 0) = false := by decide

/-- A command on a unit that does not exist stops by name. -/
theorem test_missing_unit_stops : exec (.nop 1024) State.reset = .fault .noSuchUnit := by rfl

/-! ## States for the tests -/

/-- In service, everything else as after reset. -/
def ready0 : State := setF State.reset F.GLB_STATUS_STATE 1

/-- HALTED. -/
def halted0 : State := setF State.reset F.GLB_STATUS_STATE 3

/-- A stage of bring-up. -/
def staged (n : Nat) : State := setF State.reset F.LUT_STATE_STAGE n

/-- Several fields set. -/
def sets (s : State) (l : List (Fld × Nat)) : State := l.foldl (fun s p => setF s p.1 p.2) s

/-- The 64 bytes of a command: header and body bytes by offset, each with its width in bytes. -/
def cmdOf (l : List (Nat × Nat)) : CmdWord :=
  l.foldl (fun a p => a ||| BitVec.ofNat 512 (p.2 * 2 ^ (8 * p.1))) 0#512

/-- A dispatched command of queue 0 that no engine has begun. -/
def openCmd (c : CmdWord) : OpenCmd :=
  { q := 0, tag := 0, abs := 0, cmd := c, tDispatch := 0, energy := 0, dur := 0, express := false, join := 0x400,
    begun := false, items := none, sent := [], got := [], okDetail := 0, attributed := 0, entry := none, fretOn := false,
    outs := [], starts := [] }

/-- Queue 0 is valid, of partition 0 and of an engine, with one dispatched command: its opcode and body. -/
def withCmd (engine op : Nat) (body : List (Nat × Nat)) : State :=
  { sets ready0 [(F.QCTL_QOWN_VALID 0, 1), (F.QCTL_QOWN_ENGINE 0, engine)] with
    open_ := [openCmd (cmdOf ((0, op) :: (1, engine) :: body))] }

/-- Context 0 belongs to partition 0 and maps 4 MiB of addresses onto the same DPA, by three tables at 0,
0x2000 and 0x4000; more words by word number. -/
def mapped (s : State) (words : List (Nat × Nat)) : State :=
  { sets s [(F.MMU_CTX_VALID 0, 1), (F.MEM_COLMAP_VALID 0, 1)] with
    mem := ([(0, 0x2001), (0x400, 0x4001), (0x800, 654)] ++ words).map (fun (p : Nat × Nat) =>
            (p.1, encodeWord (BitVec.ofNat 64 p.2) false)) }

/-- A kernel of partition 0 from slot 0. -/
def kernel0 : Kernel :=
  { q := 0, tag := 0, part := 0, ctx := 0, mask := 1, slot := 0, express := false, item := 0, cyc0 := 0 }

/-- A core that runs a kernel, with a program of 4 KiB in slot 0. -/
def running (c : Nat) (k : Core → Core) : State :=
  setCluster (setCore ready0 c (k { Core.zero with kernel := some kernel0 })) (c / 16)
    { Cluster.zero with slots := [(0, { off := 0, len := 4096, loaded := true, undef := false })] }

/-- The core of the tests. -/
abbrev core0 : Exu := .core 0

/-- Registers x1 and x2 of a core. -/
def regs2 (a b : DWord) (k : Core) : Core :=
  { k with rf := xput (xput k.rf 1 ⟨a, false⟩) 2 ⟨b, false⟩ }

/-- What a command leaves of a state, where it answers one. -/
def after {α : Type} (i : Instr) (s : State) (f : State → α) : Option α :=
  match exec i s with
  | .next t => some (f t)
  | _ => none

/-! ## Queues, dispatch and completion -/

/-- Queue 0 valid and RUNNING, of the compute engine, rings of 64 entries, one command published. -/
def queue0 : State :=
  setQueue (sets ready0 [(F.QCTL_QOWN_VALID 0, 1), (F.QSTATE_STATE 0, 1)]) 0
    { Queue.zero with sq := { base := 0x10000, log2n := 6, dev := false, ctx := 0 },
                      cq := { base := 0x20000, log2n := 6, dev := false, ctx := 0 }, prod := 1 }

/-- The same with a NOP at the head. -/
def queueNop (c : CmdWord) : State :=
  setQueue queue0 0 { getQueue queue0 0 with fetched := [{ abs := 0, cmd := c }] }

theorem test_witness_step : ({ State.reset with pending := [.nop 0] }).pending = [.nop 0] := by decide +kernel
theorem test_witness_time : State.reset.pending = [] := by decide +kernel
theorem test_witness_missing : Instr.wf (.nop 0) = true ∧ Instr.wf (.nop 1024) = false := by decide +kernel

theorem test_witness_doorbell : ready queue0 = true ∧ queueAt queue0 0 0 = some 0 ∧ getF queue0 (F.QSTATE_STATE 0) ≠ 0 := by
  decide +kernel

/-- A full ring passes, one more is rejected (R24). -/
theorem test_doorbell :
    after (.sqDb 0 0 64) queue0 (fun t => (getQueue t 0).prod) = some 64 ∧
    after (.sqDb 0 0 65) queue0 (fun t => (getF t (F.QSTATE_DB_ERR 0), (getQueue t 0).prod)) = some (1, 1) := by decide +kernel

theorem test_witness_start :
    let s := sets queue0 [(F.QSTATE_STATE 0, 0), (F.SQ_CFG_LOG2N 0, 6), (F.CQ_CFG_LOG2N 0, 16)]
    ready s = true ∧ queueAt s 0 0 = some 0 ∧ getF s (F.OUTSTANDING 0) = 0 ∧ getF s (F.QSTATE_STATE 0) = 0 ∧
    getF s (F.SQ_CFG_LOG2N 0) = 6 ∧ getF s (F.CQ_CFG_LOG2N 0) = 16 := by decide +kernel

theorem test_witness_start_refused :
    let s := sets queue0 [(F.QSTATE_STATE 0, 4), (F.SQ_CFG_LOG2N 0, 17), (F.CQ_CFG_LOG2N 0, 6)]
    ready s = true ∧ queueAt s 0 0 = some 0 ∧ getF s (F.QSTATE_STATE 0) = 4 ∧ getF s (F.SQ_CFG_LOG2N 0) = 17 := by decide +kernel

theorem test_witness_fetch :
    validQ queue0 0 = true ∧ getF queue0 (F.SQ_PTR_FETCH 0) ≠ (getQueue queue0 0).prod ∧
    (getQueue queue0 0).sq.dev = false ∧
    (let s := { queue0 with pcie := { queue0.pcie with up := true } }
     s.pcie.up = true ∧ (hostRead { s with hostMem := (List.range 64).map (fun i => (0x10000 + i, 0)) } 0x10000 64).isSome = true ∧
     hostRead { s with hostPoison := [(0x10000, true)] } 0x10000 64 = none) := by decide +kernel

theorem test_witness_dispatch :
    let s := queueNop 0#512
    headOf s 0 = some { abs := 0, cmd := 0#512 } ∧ headReady s 0 = true ∧ arbChoice s 0 = some 0 := by decide +kernel

theorem test_witness_reject :
    let s := queueNop (cmdOf [(2, 1)])
    rejectCode s 0 { abs := 0, cmd := cmdOf [(2, 1)] } = some 1 ∧ rejectConds s 0 { abs := 0, cmd := cmdOf [(2, 1)] } = true := by
  decide +kernel

theorem test_witness_timeout :
    let c := cmdOf [(1, 8), (8, 1)]
    let s := { setQueue (queueNop c) 0 { getQueue (queueNop c) 0 with waitSince := some 0 } with time := 1001 }
    let s := setF s (F.QTMO_WAIT_US 0) 1
    heldByWait s 0 = true ∧ 0 + getF s (F.QTMO_WAIT_US 0) * 1000 < s.time := by decide +kernel

/-- R27: the checks of the front end, in their order. -/
theorem test_reject_order :
    rejectCode queue0 0 { abs := 65537, cmd := cmdOf [(2, 2)] } = some 1 ∧
    rejectCode queue0 0 { abs := 65537, cmd := cmdOf [(2, 1), (40, 1), (1, 1)] } = some 2 ∧
    rejectCode queue0 0 { abs := 1, cmd := cmdOf [(2, 1), (1, 1), (0, 1)] } = some 3 ∧
    rejectCode queue0 0 { abs := 1, cmd := cmdOf [(2, 1), (0, 0x30)] } = some 4 ∧
    rejectCode queue0 0 { abs := 1, cmd := cmdOf [(2, 1), (0, 2)] } = none := by decide +kernel

/-- An open command with one report sent and one more item or none. -/
def joining (items : Nat) : State :=
  { queue0 with open_ := [{ openCmd 0#512 with begun := true, items := some items,
                                               sent := [{ seq := 0, res := okResult }] }] }

theorem test_witness_join :
    (findCmd (joining 1) 0 0).isSome = true ∧
    (∀ o, findCmd (joining 1) 0 0 = some o → (sentReport o 0).isSome = true ∧
      allIn { o with sent := [], got := [{ seq := 0, res := okResult }] } = true) ∧
    (∀ o, findCmd (joining 2) 0 0 = some o →
      allIn { o with sent := [], got := [{ seq := 0, res := okResult }] } = false) := by
  refine ⟨by decide +kernel, fun o h => ?_, fun o h => ?_⟩ <;> (cases h; decide +kernel)

/-- R37: the failure of the lowest item number is the command's. -/
theorem test_join_lowest_failure :
    joined { openCmd 0#512 with okDetail := 9, got := [{ seq := 2, res := { status := 3, sub := 1, detail := 5 } },
      { seq := 1, res := { status := 4, sub := 2, detail := 6 } }, { seq := 0, res := okResult }] } =
    { status := 4, sub := 2, detail := 6 } := by decide +kernel

theorem test_witness_signal : ready ready0 = true ∧ bar2On ready0 0 = true ∧
    bar2On (setF ready0 (F.PART_CFG_EN 15) 1) 15 = true := by decide +kernel

/-- R34: an ADD wraps at 32 bits. -/
theorem test_signal_add_wraps : sigGet (sigAdd (sigAdd ready0 3 7 0xFFFFFFFF) 3 7 2) 3 7 = 1 := by decide +kernel

theorem test_witness_ring_config :
    let s := setF queue0 (F.QSTATE_STATE 0) 0
    queueAt s 0 0 = some 0 ∧ getF s (F.QSTATE_STATE 0) = 0 ∧ queueAt queue0 0 0 = some 0 ∧
    getF queue0 (F.QSTATE_STATE 0) = 1 := by decide +kernel

theorem test_witness_load :
    let c := cmdOf [(0, 1), (32, 1), (44, 256), (48, 0x10000)]
    let s := mapped (withCmd 0 0x01 [(32, 1), (44, 256), (48, 0x10000)]) ((List.range 32).map (fun i => (0x2000 + i, i)))
    let r := vreadBytes s 0 0x10000 256 .read
    ready s = true ∧ toBegin s 0 0 0x01 = some (openCmd c) ∧ loadFields c = true ∧ foreignCtx s 0 (cCtx c) = false ∧
    absentMask s (maskOf c) = 0 ∧ cmdField c 48 8 = 0x10000 ∧ cWord44 c = 256 ∧ r.2.fail = none ∧ r.2.poison = false ∧
    r.2.bytes.length = 256 := by decide +kernel

theorem test_witness_load_write :
    let l : Load := { q := 0, tag := 0, slot := 0, off := 0, bytes := List.replicate 256 0, left := [0] }
    let s := { withCmd 0 0x01 [] with loads := [l] }
    s.loads.find? (fun l => l.q == 0 && l.tag == 0 && l.left.contains 0) = some l ∧ (findCmd s 0 0).isSome = true ∧
    rangeInUse s 0 l.off l.bytes.length = false := by decide +kernel

/-- A LAUNCH of slot 0 on cluster 0. -/
def launchState : State :=
  setCluster (withCmd 0 0x02 [(32, 1)]) 0
    { Cluster.zero with slots := [(0, { off := 0, len := 4096, loaded := true, undef := false })] }

theorem test_witness_launch :
    ready launchState = true ∧ toBegin launchState 0 0 0x02 = some (openCmd (cmdOf [(0, 2), (32, 1)])) ∧
    (let c := cmdOf [(0, 2), (32, 1)]
     computeFields c = true ∧ entryBad launchState c = false ∧ foreignCtx launchState 0 (cCtx c) = false ∧
     absentMask launchState (maskOf c) = 0 ∧ slotEmpty launchState c = false ∧
     launchMayStart launchState (openCmd c) 0 = true ∧
     coreAbsent launchState 0 = false) := by decide +kernel

/-! ## Cores and update units -/

theorem test_witness_runs : Runs (running 0 id) core0 8 ∧ Runs (running 1023 id) (.core 1023) 8 ∧
    Quiet (running 0 id) 0 := by
  unfold Runs Quiet; decide +kernel

/-- An update unit with an invocation. -/
def updating : State :=
  setUnit ready0 71 { getUnit ready0 71 with
    inv := some { q := 0, tag := 0, pass := .apply, block := 0, blk := none, count := 0, ended := false, exc := none,
                  limit := 1 } }

theorem test_witness_runs_update_unit : Runs updating (.upd 71) 4 := by unfold Runs; decide +kernel

/-- R164: results wrap, x0 stays 0, division by zero and overflow as the table gives them. -/
theorem test_add_wraps :
    after (.add core0 3 1 2) (running 0 (regs2 (-1) 2)) (fun t => (xget (getRf t core0) 3).data) = some 1 := by decide +kernel
theorem test_x0_stays_zero :
    after (.add core0 0 1 2) (running 0 (regs2 1 2)) (fun t => ((xget (getRf t core0) 0).data, (getRf t core0).pc)) =
      some (0, 4) := by decide +kernel
theorem test_div_by_zero :
    after (.div core0 3 1 2) (running 0 (regs2 7 0)) (fun t => (xget (getRf t core0) 3).data) = some (-1) ∧
    after (.rem core0 3 1 2) (running 0 (regs2 7 0)) (fun t => (xget (getRf t core0) 3).data) = some 7 := by decide +kernel
theorem test_div_overflow :
    after (.div core0 3 1 2) (running 0 (regs2 (BitVec.intMin 64) (-1))) (fun t => (xget (getRf t core0) 3).data) =
      some (BitVec.intMin 64) ∧
    after (.rem core0 3 1 2) (running 0 (regs2 (BitVec.intMin 64) (-1))) (fun t => (xget (getRf t core0) 3).data) =
      some 0 := by decide +kernel
theorem test_div_rounds_to_zero :
    after (.div core0 3 1 2) (running 0 (regs2 (-7) 2)) (fun t => (xget (getRf t core0) 3).data) = some (-3) ∧
    after (.rem core0 3 1 2) (running 0 (regs2 (-7) 2)) (fun t => (xget (getRf t core0) 3).data) = some (-1) := by
  decide +kernel
theorem test_mulh_signs :
    after (.mulh core0 3 1 2) (running 0 (regs2 (-1) 2)) (fun t => (xget (getRf t core0) 3).data) = some (-1) ∧
    after (.mulhu core0 3 1 2) (running 0 (regs2 (-1) 2)) (fun t => (xget (getRf t core0) 3).data) = some 1 := by decide +kernel
theorem test_shift_amount :
    after (.sll core0 3 1 2) (running 0 (regs2 1 65)) (fun t => (xget (getRf t core0) 3).data) = some 2 ∧
    after (.srai core0 3 1 63) (running 0 (regs2 (BitVec.intMin 64) 0)) (fun t => (xget (getRf t core0) 3).data) =
      some (-1) := by decide +kernel
theorem test_li_lih :
    after (.li core0 3 0 0x80000000#32) (running 0 id) (fun t => (xget (getRf t core0) 3).data) =
      some 0xFFFFFFFF80000000 ∧
    after (.lih core0 1 0 5) (running 0 (regs2 0xF00000001 0)) (fun t => ((xget (getRf t core0) 1).data, (getRf t core0).pc)) =
      some (0x500000001, 8) := by decide +kernel
theorem test_branch :
    after (.bcc core0 0 1 2 (-1)) (running 0 (fun k => { regs2 5 5 k with rf := { (regs2 5 5 k).rf with pc := 8 } }))
      (fun t => (getRf t core0).pc) = some 4 ∧
    after (.bcc core0 1 1 2 (-1)) (running 0 (regs2 5 5)) (fun t => (getRf t core0).pc) = some 4 := by decide +kernel
theorem test_jalr_same_register :
    after (.jalr core0 1 1 4) (running 0 (regs2 8 0)) (fun t => ((xget (getRf t core0) 1).data, (getRf t core0).pc)) =
      some (4, 12) := by decide +kernel
theorem test_poison_spreads :
    after (.add core0 3 1 2) (running 0 (fun k => { k with rf := xput k.rf 1 ⟨1, true⟩ }))
      (fun t => xget (getRf t core0) 3) = some ⟨1, true⟩ := by decide +kernel

/-- Tile descriptors of 1 row: 16 INT8 elements in, one FP32 out. -/
def tileIn : BitVec 256 := BitVec.ofNat 256 (2 ^ 32 + 16 * 2 ^ 64 + 2 ^ 96)
def tileOut : BitVec 256 := BitVec.ofNat 256 (0x1000 + 2 ^ 32 + 2 ^ 64 + 2 ^ 96 + 11 * 2 ^ 112)

/-- An array instruction in flight. -/
def arrOp0 : ArrOp :=
  { op := 0, mode := 0, ts := tileIn, tx := tileIn, ty := tileOut, acc := false, tok := 1, anchor := 0, seq := 0,
    dirty := [], passed := [], kept := [] }

theorem test_witness_array :
    Runs (running 0 id) core0 8 ∧ arrHeld (getCore (running 0 id) 0) 1 = false ∧
    arrHeld { Core.zero with arr := [arrOp0] } 1 = true ∧ arrOk 0 0 tileIn tileIn tileOut = true ∧
    arrOk 0 0 tileIn tileOut tileOut = false ∧
    (getCore (running 0 (fun k => { k with arr := [arrOp0] })) 0).arr = [arrOp0] := by
  unfold Runs; decide +kernel

theorem test_witness_stopt :
    Runs (running 0 id) core0 4 ∧
    (((getCore (running 0 id) 0).kernel.map (·.part)).getD 0 = 0 ∧
     getF (running 0 id) F.DBG_STOP_CTRL_KSTOP_EN = 0 ∧
     getF (setF (running 0 id) F.DBG_STOP_CTRL_KSTOP_EN 1) F.DBG_STOP_CTRL_KSTOP_EN = 1) := by
  unfold Runs; decide +kernel

/-- The last doubleword of the local store passes; the next address does not (R166). -/
theorem test_local_store_end :
    after (.std core0 2 1 0) (running 0 (regs2 0x7FFF8 0x11)) (fun t => (localByte t 0 0x7FFF8).toNat) = some 0x11 ∧
    after (.std core0 2 1 0) (running 0 (regs2 0x80000 0x11)) (fun t => (getCore t 0).kernel.isSome) = some false := by
  decide +kernel
theorem test_load_sign :
    after (.ldb core0 3 1 0) (running 0 (fun k => { regs2 5 0 k with ls := [(5, 0x80)] }))
      (fun t => (xget (getRf t core0) 3).data) = some 0xFFFFFFFFFFFFFF80 ∧
    after (.ldbu core0 3 1 0) (running 0 (fun k => { regs2 5 0 k with ls := [(5, 0x80)] }))
      (fun t => (xget (getRf t core0) 3).data) = some 0x80 := by decide +kernel
theorem test_store_little_endian :
    after (.sth core0 2 1 2) (running 0 (regs2 0x10 0x1234)) (fun t => ((localByte t 0 0x12).toNat, (localByte t 0 0x13).toNat)) =
      some (0x34, 0x12) := by decide +kernel

theorem test_witness_scalar_memory :
    Runs (running 0 (regs2 0x7FFF8 0)) core0 4 ∧ Quiet (running 0 (regs2 0x7FFF8 0)) 0 ∧
    (xget (getRf (running 0 (regs2 0x7FFF8 0)) core0) 1).data.toNat % 8 = 0 := by
  unfold Runs Quiet; decide +kernel

theorem test_witness_vector_memory :
    let s := running 0 (regs2 0 0x4000)
    Runs s core0 4 ∧ Quiet s 0 ∧ (∀ k, k < 32 → (BitVec.ofNat 64 k * (xget (getRf s core0) 2).data).toNat % 4 = 0 ∧
      (BitVec.ofNat 64 k * (xget (getRf s core0) 2).data).toNat + 4 ≤ 524288) := by
  refine ⟨?_, ?_, ?_⟩
  · unfold Runs; decide +kernel
  · unfold Quiet; decide +kernel
  · decide +kernel

theorem test_witness_tiles :
    Runs (running 0 (regs2 0x7FFE0 0)) core0 4 ∧ Quiet (running 0 (regs2 0x7FFE0 0)) 0 ∧
    (xget (getRf (running 0 (regs2 0x7FFE0 0)) core0) 1).data.toNat + 32 ≤ 524288 := by
  unfold Runs Quiet; decide +kernel

/-- A lane that its predicate leaves out is kept, or cleared with PZ (R167); p0 is all ones (R161). -/
theorem test_predicates :
    pget RegFile.zero 0 = BitVec.allOnes 32 ∧
    after (.vadd core0 1 2 3 1 false) (running 0 (fun k => { k with rf := vput k.rf 1 0 (7, false) }))
      (fun t => (vget (getRf t core0) 1 0).1) = some 7 ∧
    after (.vadd core0 1 2 3 1 true) (running 0 (fun k => { k with rf := vput k.rf 1 0 (7, false) }))
      (fun t => (vget (getRf t core0) 1 0).1) = some 0 := by decide +kernel
theorem test_fadd : fadd 0x3F800000 0x40000000 = 0x40400000 ∧ fadd 0x7F800000 0xFF800000 = 0x7FC00000 := by decide +kernel
theorem test_fmul_tiny : fmul 0x00800000 0x3F000000 = 0x00400000 := by decide +kernel

/-- The transfers of a core. -/
def dma0 (put : Bool) : DmaOp :=
  { put := put, l := 0, va := 0x10000, n := 16, vstride := 0, lstride := 0, rows := 1, tok := 3, ctx := 0, seq := 1,
    got := [], passed := [], kept := [], bad := [] }

theorem test_witness_dma :
    let s := mapped (running 0 (fun k => { k with dma := [dma0 true] })) [(0x2000, 0), (0x2001, 0)]
    dmaHeld (getCore s 0) 3 = true ∧ dmaHeld (getCore s 0) 2 = false ∧ dmaFault (dma0 true) = none ∧
    dmaFault { dma0 true with n := 8 } = some .misalign ∧ dmaFault { dma0 true with l := 524288 } = some .lsRange ∧
    (getCore s 0).dma.find? (fun o => o.tok == 3) = some (dma0 true) ∧ (dmaCheck s (dma0 true)).2 = none ∧
    (dmaCheck s { dma0 true with ctx := 1 }).2.isSome = true ∧
    getF (setF s (F.MMU_CTX_PART 0) 1) (F.MMU_CTX_PART 0) ≠ 0 := by decide +kernel

theorem test_witness_waits :
    let k := { Core.zero with dma := [dma0 true], arr := [arrOp0] }
    dmaFree k 8 = false ∧ dmaFree k 4 = true ∧ arrFree k 2 = false ∧ arrFree k 1 = true ∧ inFlight k = true ∧
    inFlight Core.zero = false ∧ (Core.zero.dma.any (·.put)) = false ∧
    sigMet (sigGet ready0 0 4095) 0 = true ∧ sigMet (sigGet ready0 0 0) 1 = false := by decide +kernel

theorem test_witness_barrier :
    let s := running 0 (fun k => { k with wait := some (.bar false 2 5) })
    let all := (List.range 16).foldl (fun s c => setCore s c { getCore s c with wait := some (.bar false 2 5) }) s
    barComplete s ((List.range 16)) false 2 = false ∧ barComplete all (List.range 16) false 2 = true ∧
    barAt (getCore s 0) false 2 = some 5 := by decide +kernel

theorem test_witness_bells :
    let s := { running 0 id with bells := [{ core := 0, val := 1 }] }
    s.bells.find? (fun b => b.core == 0) = some { core := 0, val := 1 } ∧ (getCore s 0).kernel.isSome = true ∧
    (getCore s 0).gone = false ∧ (getCore s 0).wait = none ∧ coreAbsent s 1023 = false ∧
    coreAbsent (setF s (F.EVT_FENCED_CORE 31) 0x80000000) 1023 = true ∧ kernel0.mask.getLsbD 0 = true ∧
    kernel0.mask.getLsbD 1 = false := by decide +kernel

/-! ## Memory -/

theorem test_witness_channel : State.reset.power = .on ∧ halted State.reset = false ∧ ready ready0 = true := by decide +kernel

/-- R60: four failures are retried, the fifth delivers poison. -/
theorem test_channel_retries :
    after (.channelTransfer 0 false [{ data := 1, poison := false }] 4) { ready0 with thruOpen := false }
      (fun t => sget [] t.channelOut 0) = some [{ data := 1, poison := false }] ∧
    after (.channelTransfer 0 false [{ data := 1, poison := false }] 5) { ready0 with thruOpen := false }
      (fun t => sget [] t.channelOut 0) = some [{ data := 1, poison := true }] := by decide +kernel

theorem test_witness_word :
    let s := setF ready0 (F.MEM_COLMAP_VALID 0) 1
    ready s = true ∧ colGone s (dpaCol 0) = false ∧
    (∀ l ∈ writeLayers s (dpaLayer 0) (dpaCol 0) (dpaBank 0) 0, s.layerDead.contains l = false) := by decide +kernel

/-- A written word reads back through ECC. -/
theorem test_word_reads_back :
    (readWord (writeWord (setF ready0 (F.MEM_COLMAP_VALID 0) 1) 0x38 5 0xFF false).1 0x38).2 =
      some { data := 5, poison := false } := by decide +kernel
theorem test_ecc_corrects :
    decodeWord (flipBit (encodeWord 0xDEADBEEF true) 77) = .corrected (encodeWord 0xDEADBEEF true) ∧
    decodeWord (flipBit (encodeWord 0xDEADBEEF true) 0) = .corrected (encodeWord 0xDEADBEEF true) ∧
    decodeWord (flipBit (encodeWord 0xDEADBEEF true) 78) = .uncorrectable ∧
    decodeWord (flipBit (flipBit (encodeWord 0xDEADBEEF true) 3) 4) = .corrected (encodeWord 0xDEADBEEF true) := by decide +kernel

/-- The three outcomes of a scrubbed word. -/
theorem test_witness_scrub :
    let s := setF (mapped (setF ready0 F.MEM_SCRUB_CTRL_EN 1) []) (F.MEM_SCRUB_MAP 0) 1
    getB s F.MEM_SCRUB_CTRL_EN = true ∧ mibMapped s 0 = true ∧ s.scrubbed.contains 0 = false ∧
    decodeWord (cwAt s 0) = .clean ∧
    decodeWord (cwAt (cwPut s 0 (flipBit (cwAt s 0) 1)) 0) = .corrected (cwAt s 0) ∧
    decodeWord (cwAt (cwPut s 0 (flipBit (cwAt s 0) 78)) 0) = .uncorrectable := by decide +kernel

theorem test_witness_hard_fault :
    let s := setF ready0 (F.MEM_COLMAP_VALID 0) 1
    colGone s 0 = false ∧ slook s.saddleHolds 0 = none ∧ saddleFor s 0 0 = none ∧ freeEntry s 0 = some 0 ∧
    (let full := (List.range 8).foldl (fun (s : State) i => { s with saddles := sins s.saddles i { line := i + 1, origin := true, poisoned := false } }) s
     freeEntry full 0 = none ∧ saddleFor full 0 0 = none) := by decide +kernel

theorem test_witness_saddle :
    slook ({ ready0 with saddleHolds := [(bankIndex 8 1223 3, { line := 1, dpa := 64 })] }).saddleHolds
      (bankIndex 8 1223 3) = some { line := 1, dpa := 64 } := by decide +kernel

theorem test_witness_fill :
    let c := cmdOf [(0, 0x31), (1, 3), (32, 0x10000), (40, 16), (48, 7)]
    let s := mapped (withCmd 3 0x31 [(32, 0x10000), (40, 16), (48, 7)]) []
    toBegin s 0 0 0x31 = some (openCmd c) ∧ fillFields c = true ∧ (cmdField c 58 1).testBit 1 = false ∧
    foreignCtx s 0 (cCtx56 c) = false ∧ (fillTargets s c).2.2 = none ∧ (fillTargets s c).2.1 = [0x10000, 0x10008] := by
  decide +kernel

theorem test_witness_fill_dpa :
    let c := cmdOf [(0, 0x31), (1, 3), (32, 2 ^ 37 - 8), (40, 8), (58, 2)]
    let s := setF (mapped (withCmd 3 0x31 [(32, 2 ^ 37 - 8), (40, 8), (58, 2)]) []) (F.MEM_COLMAP_VALID 1023) 1
    toBegin s 0 0 0x31 = some (openCmd c) ∧ fillFields c = true ∧ (cmdField c 58 1).testBit 1 = true ∧ partOf s 0 = 0 ∧
    partOf (setF s (F.QCTL_QOWN_PART 0) 1) 0 ≠ 0 ∧ dpaRangeBad (2 ^ 37 - 8) 8 = false ∧ dpaRangeBad (2 ^ 37) 8 = true ∧
    (fillTargets s c).2.2 = none := by decide +kernel

theorem test_witness_copy :
    let b : List (Nat × Nat) := [(32, 0), (40, 32), (48, 32)]
    let c := cmdOf ((0, 0x30) :: (1, 3) :: b)
    let s := mapped (withCmd 3 0x30 b) []
    toBegin s 0 0 0x30 = some (openCmd c) ∧ copyFields c = true ∧ cmdField c 48 8 = 32 ∧ cpSrcHost c = false ∧
    cpDstHost c = false ∧ cCtx56 c = cCtx58 c ∧ rangesMeet 0 32 32 32 = false ∧ rangesMeet 0 33 32 33 = true ∧
    foreignCtx s 0 (cCtx56 c) = false := by decide +kernel

theorem test_witness_evacuation :
    let s := setF ready0 F.MEM_SPARE_AVAIL 1
    let e : Evac := { layer := 0, src := 0, dst := 4, copied := false }
    getF s F.MEM_EVAC_STATUS_STATE = 0 ∧ getF s F.MEM_SPARE_AVAIL ≠ 0 ∧ getF (setF s F.MEM_SPARE_AVAIL 0) F.MEM_SPARE_AVAIL = 0 ∧
    (let t := setF { s with evac := some e } F.MEM_EVAC_STATUS_STATE 1
     t.evac = some e ∧ getF t F.MEM_EVAC_STATUS_STATE = 1 ∧ getF t F.MEM_EVAC_MARK_LINE = 0) ∧
    (let t := sets { s with evac := some { e with copied := true } } [(F.MEM_EVAC_STATUS_STATE, 1),
       (F.MEM_EVAC_MARK_COLUMN, 1023), (F.MEM_EVAC_MARK_BANK, 3)]
     getF t F.MEM_EVAC_MARK_BANK = 3 ∧ getF t F.MEM_EVAC_MARK_COLUMN = 1023 ∧ e.layer < 8 ∧ e.src < 9 ∧ e.dst < 9 ∧ e.src ≠ e.dst) := by
  decide +kernel

theorem test_witness_layer_reset :
    getF ready0 F.MEM_LRST_STATUS_BUSY = 0 ∧
    (({ ready0 with layerRst := some 8 }).layerRst = some 8 ∧
     ({ ready0 with evac := some { layer := 0, src := 8, dst := 4, copied := false } }).evac.isSome = true) := by decide +kernel

/-! ## Translation and pages -/

theorem test_witness_invalidation :
    getF ready0 F.MMU_INVAL_STATUS_BUSY = 0 ∧
    ({ ready0 with inval := some { ctx := 0, all := true, va := 0, len := 4096 } }).inval.isSome = true := by decide +kernel

theorem test_witness_grant :
    let g : Grant := { part := 0, layer := 0, colLo := 0, colHi := 1023, banks := 1#4, lo := 0, hi := 8, log2 := 14 }
    grantEmpty g = false ∧ grantRefused ready0 g = false ∧ grantRefused ready0 { g with hi := 2049 } = true ∧
    grantRefused { ready0 with grants := [g] } g = true ∧ grantEmpty { g with colLo := 1, colHi := 0 } = true := by
  decide +kernel

/-- A sequence of one layer, one head and 32 tokens from virtual address 0 of context 0, in 16 KiB pages. -/
def seq0 : Machine.Seq :=
  { base := 0, ctx := 0, limit := 0x10000, sumVa := 0, pos := 0, maxTokens := 32, kvfmt := 0, sumEn := false, heads := 1,
    layers := 1, hdim := 0, p := 32, pageLog2 := 14, part := 0, domain := 0, node := none }

/-- A page command on sequence 0. -/
def pageState (op : Nat) (body : List (Nat × Nat)) (e : Machine.Seq) : State :=
  { withCmd 2 op body with seqs := [(0, e)] }

theorem test_witness_page_checks :
    ∀ p ∈ [(0x21, appendFields), (0x22, fun c => lookupFields c 0), (0x23, fun c => lookupFields c 1),
        (0x24, migrateFields), (0x25, releaseFields), (0x26, fun c => decide (cmdField c 34 30 = 0))],
      (let s := pageState p.1 [] seq0
       toBegin s 0 0 p.1 = some (openCmd (cmdOf [(0, p.1), (1, 2)])) ∧
       earlierOnSeq s (openCmd (cmdOf [(0, p.1), (1, 2)])) = false ∧ getF s F.MMU_POOL_STATUS_PE_OFF = 0 ∧
       p.2 (cmdOf [(0, p.1), (1, 2)]) = true ∧ slook s.seqs 0 = some seq0 ∧ seq0.part = partOf s 0) := by decide +kernel

theorem test_witness_page_order :
    let s := pageState 0x26 [] seq0
    earlierOnSeq { s with open_ := { openCmd (cmdOf [(0, 0x26), (1, 2)]) with tag := 1 } :: s.open_ }
      (openCmd (cmdOf [(0, 0x26), (1, 2)])) = true := by decide +kernel

theorem test_witness_create :
    let b : List (Nat × Nat) := [(36, 1), (37, 1), (40, 0x4000), (56, 32)]
    let o := openCmd (cmdOf ((0, 0x20) :: (1, 2) :: b))
    let s := sets (withCmd 2 0x20 b) [(F.MMU_PART_KV_PAGE_LOG2 0, 14), (F.MMU_CTX_VALID 0, 1)]
    toBegin s 0 0 0x20 = some o ∧ earlierOnSeq s o = false ∧ createFields o.cmd = true ∧
    (cmdField o.cmd 34 1).testBit 0 = false ∧ (createEntry s o none).heads = 1 ∧ freeSeq s = some 0 ∧
    foreignCtx s 0 (createEntry s o none).ctx = false ∧ getF s (F.MMU_CTX_VALID (createEntry s o none).ctx) = 1 ∧
    layoutOk (createEntry s o none) = true ∧ getF ready0 (F.MMU_CTX_VALID 0) = 0 := by decide +kernel

/-- APPEND of no token: no page is needed and no byte is read. Of one token with no pool: no page is left. -/
theorem test_witness_append :
    let o := openCmd (cmdOf [(0, 0x21), (1, 2)])
    let s := pageState 0x21 [] seq0
    toBegin s 0 0 0x21 = some o ∧ appendFields o.cmd = true ∧ seq0.pos + cN o.cmd ≤ seq0.maxTokens ∧
    cLayer o.cmd < seq0.layers ∧ foreignCtx s 0 (cSrcCtx o.cmd) = false ∧ appendIdx seq0 0 0 = [] ∧
    (checkRange s 0 0 0 .read).2 = none ∧ (vreadBytes s 0 0 0 .read).2.fail = none ∧
    (vreadBytes s 0 0 0 .read).2.bytes = [] ∧ appendIdx seq0 0 1 = [0] ∧ (takePage s 0).isNone = true := by decide +kernel

/-- The tables of `seq0`: its one slot lies at 0x6000 and maps the page at 0x10000. -/
def kvMapped (s : State) : State :=
  { sets s [(F.MMU_CTX_VALID 0, 1), (F.MEM_COLMAP_VALID 0, 1)] with
    mem := [(0, encodeWord 0x2001 false), (0x400, encodeWord 0x4001 false), (0x800, encodeWord 0x6001 false),
            (0xC00, encodeWord (BitVec.ofNat 64 (kvLeaf 0x10000 14)) false)] }

theorem test_witness_slots :
    let s := kvMapped ready0
    (match (slotsOf s seq0 [0]).2 with | .ok l => l | .error _ => []) = [(0, { slot := 0x6000, page := some 0x10000 })] := by
  decide +kernel

theorem test_witness_prefix :
    let o (op : Nat) := openCmd (cmdOf [(0, op), (1, 2)])
    let s := pageState 0x22 [] seq0
    lookupFields (o 0x22).cmd 0 = true ∧ lookupFields (o 0x23).cmd 1 = true ∧ cN (o 0x22).cmd / seq0.p = 0 ∧
    (checkRange s 0 0 0 .read).2 = none ∧ matchBlocks s seq0 none [] = [] ∧ sharesFull s [] = false ∧
    (match (slotsOf s seq0 []).2 with | .ok l => l.length | .error _ => 1) = 0 ∧ seq0.sumEn = false := by decide +kernel

/-- A block that matches a node, and its page. -/
theorem test_witness_prefix_hit :
    let n : Node := { hash := 5, parent := none, vec := 1, layout := seq0.layoutWord, refs := 1, domain := 0, hold := false,
                      depth := 1, pages := [0x10000] }
    let s := { ready0 with nodes := [(5, n)] }
    matchBlocks s seq0 none [5] = [5] ∧ [5].getLast? = some 5 ∧ hitPages s seq0 [5] = [(0, 0x10000)] := by decide +kernel

theorem test_witness_migrate_release_destroy :
    let c := cmdOf [(0, 0x24), (1, 2), (35, 0xFF)]
    let r := cmdOf [(0, 0x25), (1, 2)]
    let h := cmdOf [(0, 0x25), (1, 2), (35, 1), (40, 3)]
    migrateFields c = true ∧ cmdField c 35 1 = 0xFF ∧ cLayer c < seq0.layers ∧ cN c + cmdField c 40 4 ≤ seq0.nblk ∧
    migrateIdx seq0 c = [] ∧ releaseFields r = true ∧ (cmdField r 35 1).testBit 0 = false ∧ cN r ≤ seq0.pos ∧
    releaseFields h = true ∧ (cmdField h 35 1).testBit 0 = true ∧ cmdField h 40 4 = 3 := by decide +kernel

theorem test_witness_page_return :
    let u : PageUse := { refs := 0, withhold := false, quarantined := false, returning := some [(0, 0)] }
    let s := { ready0 with pages := [(2 ^ 23 - 1, u), (5, { u with withhold := true })] }
    slook s.pages (2 ^ 23 - 1) = some u ∧ slook s.pages 5 = some { u with withhold := true } ∧ s.open_ = [] := by
  decide +kernel

theorem test_witness_steering :
    let e := { seq0 with pos := 32 }
    let s := { sets (kvMapped ready0) [(F.MMU_STEER_CTRL_EN, 1), (F.MMU_STEER_CTRL_RATE, 1), (F.MMU_LAYER_HOT, 1)] with
               seqs := [(0, e)], pages := [(0x10000, { PageUse.zero with refs := 1 })] }
    getF s F.MMU_STEER_CTRL_EN = 1 ∧ (steeredNow s).length < getF s F.MMU_STEER_CTRL_RATE ∧ 0 < e.pageCount ∧
    layerHot s (dpaLayer 0x10000) = true ∧ e.full e.pos (e.block 0) = true ∧ coolest s 0 = none := by decide +kernel

/-! ## Attends and frets -/

/-- The words of a query descriptor of one head and one query vector at 0x10000: all zero. -/
def descWords : List (Nat × Nat) := (List.range 72).map (fun i => (0x2000 + i, 0))

/-- An ATTEND body: descriptor at 0x10000, one head, one vector. -/
def attBody : List (Nat × Nat) := [(40, 0x10000), (57, 1), (58, 1)]

theorem test_witness_attend :
    ∀ op ∈ [0x10, 0x11, 0x12],
      (let c := cmdOf ((0, op) :: (1, 1) :: attBody)
       let o := { openCmd c with fretOn := true, entry := some seq0 }
       let s := { withCmd 1 op attBody with open_ := [o] }
       toBegin s 0 0 op = some o ∧ attendFields c = true ∧ seq0.part = partOf s 0 ∧ foreignCtx s 0 (atCtx c) = false ∧
       attendRange seq0 c = true ∧ attendRange seq0 (c ||| cmdOf [(34, 1)]) = false ∧ coreAbsent s (atCore c) = false ∧
       qLen seq0 c ≤ 576) := by decide +kernel

theorem test_witness_descriptor :
    let c := cmdOf ((0, 0x10) :: (1, 1) :: attBody)
    let bs : List Byte := List.replicate (qLen seq0 c) 0
    descFields 1 1 bs = true ∧ attendParam (attendOf (openCmd c) seq0 bs) = false ∧
    itemsOf (attendOf (openCmd c) seq0 bs) (fun _ _ => true) = [] ∧
    itemsOf (attendOf (openCmd c) { seq0 with pos := 1 } bs) (fun _ _ => true) ≠ [] := by decide +kernel

/-- An attend with one item. -/
def attend0 (i : AttItem) : Attend :=
  { attendOf (openCmd (cmdOf attBody)) { seq0 with pos := 1 } (List.replicate 512 0) with items := [i] }

/-- An item that has been issued. -/
def item0 : AttItem :=
  { seq := 0, head := 0, group := 0, block := 0, issued := true, arr := 0, served := false, merged := false, res := okResult,
    partials := [] }

theorem test_witness_frets :
    let s := { withCmd 1 0x10 attBody with attends := [attend0 item0] }
    findAttend s 0 0 = some (attend0 item0) ∧ findItem (attend0 item0) 0 = some item0 ∧
    item0.issued = true ∧ item0.served = false ∧
    (let j := { item0 with served := true }
     findItem (attend0 j) 0 = some j ∧ j.merged = false ∧
     (attend0 { j with merged := true }).items.all (·.merged) = true ∧
     (attend0 { j with merged := true }).items.all (fun x => x.res.status == stOk) = true) := by decide +kernel

theorem test_fret_mode_bounds :
    after (.fretModeWrite 0x0800#32) ready0 (fun t => getF t F.FRET_MODE_FIXED_TBPS) = some 8 ∧
    after (.fretModeWrite 0xC800#32) ready0 (fun t => getF t F.FRET_MODE_FIXED_TBPS) = some 200 ∧
    after (.fretModeWrite 0xC900#32) ready0 (fun t => getF t F.FRET_MODE_FIXED_TBPS) = some 120 := by decide +kernel

/-! ## The update engine -/

/-- Group 0 is valid: FP32, one block, VSTRIDE 4096, no prologue, no statistics, APPLY at 0. -/
def grouped (s : State) : State :=
  setGroup (setF s F.UPD_CFG_EN 1) 0
    { Group.zero with data := BitVec.ofNat 1024 (0xB000 + 2 ^ 64 + 4096 * 2 ^ 384 + 0xFFFFFFFF * 2 ^ 448), valid := true }

theorem test_witness_update :
    let o := openCmd (cmdOf [(0, 0x40), (1, 4)])
    let s := grouped (withCmd 4 0x40 [])
    toBegin s 0 0 0x40 = some o ∧ (updChecks s 0 o.cmd).isNone = true ∧ updFields o.cmd = true ∧
    updFields (cmdOf [(0, 0x40), (1, 4), (35, 1)]) = false ∧ getF (withCmd 4 0x40 []) F.UPD_CFG_EN = 0 ∧
    earlierOfGroup s o = false ∧ drained s (getGroup s 0) 0 = true ∧ grpStat (getGroup s 0) = noEntry := by decide +kernel

theorem test_witness_update_passes :
    let x : Upd := { q := 0, tag := 0, group := 0, step := 0, pass := .hold, todo := [], frozen := 0, stats := [], pro := [],
                     fails := [], bad := [] }
    let s := { grouped (withCmd 4 0x40 []) with upds := [x], updOf := [(0, 71)] }
    findUpd s 0 0 = some x ∧ (findCmd s 0 0).isSome = true ∧ (openCmd 0#512).items = none ∧
    (activeUnit s 0).isSome = true ∧ (activeUnit (setF s F.EVT_FENCED_UPD 1) 0).isNone = true := by decide +kernel

theorem test_witness_invocation :
    let i : Invocation := { q := 0, tag := 0, pass := .apply, block := 0, blk := none, count := 1, ended := false, exc := none,
                            limit := 1 }
    let s := setUnit ready0 71 { getUnit ready0 71 with inv := some i }
    (getUnit s 71).inv = some i ∧ i.limit ≤ i.count := by decide +kernel

theorem test_witness_schedule :
    let b : List (Nat × Nat) := [(35, 1), (40, 0x10000)]
    let o := openCmd (cmdOf ((0, 0x41) :: (1, 4) :: b))
    let s := mapped (grouped (withCmd 4 0x41 b)) [(0x2000, 0x3F80000000000001)]
    let r := vreadBytes s 0 0x10000 8 .read
    toBegin s 0 0 0x41 = some o ∧ (updChecks s 0 o.cmd).isNone = true ∧ schedFields o.cmd = true ∧
    earlierOfGroup s o = false ∧ r.2.fail = none ∧ r.2.poison = false ∧ pointsOk (pointsOf r.2.bytes) = true ∧
    pointsOk [(1, 0), (1, 0)] = false := by decide +kernel

theorem test_witness_groups :
    let s := { ready0 with groupStage := (getGroup (grouped ready0) 0).data }
    groupError s 0 { Group.zero with data := s.groupStage, valid := true } = none ∧
    groupError s 0 { Group.zero with data := s.groupStage ||| 8, valid := true } = some 1 ∧
    groupError s 0 { Group.zero with data := s.groupStage ||| BitVec.ofNat 1024 (2 ^ 480), valid := true } = some 3 := by
  decide +kernel

theorem test_witness_group_busy :
    (getGroup (setGroup ready0 511 { Group.zero with busy := true }) 511).busy = true ∧ (getGroup ready0 0).busy = false ∧
    getF ready0 F.UPD_CFG_EN = 0 ∧ (∀ u, u < 72 → getF ready0 (F.UPD_UNIT_STATUS_STATE u) ≠ 2) ∧
    getF (setF ready0 F.UPD_CFG_EN 1) F.UPD_CFG_EN ≠ 0 := by decide +kernel

theorem test_witness_unit_check :
    let s := { ready0 with updOf := [(63, 71)] }
    (List.range 64).find? (fun lc => unitOfLc s lc == some 71) = some 63 := by decide +kernel

/-! ## The mesh -/

/-- A packet of queue 0 to a cluster site. -/
def packet0 (src dst flags : Nat) : Packet := { th := mkTh 0 0 0 0 src dst 0 flags, data := [] }

/-- A packet that waits at an output. -/
def waits0 (port flags : Nat) : NocWait :=
  { no := 0, pkt := packet0 0 0 flags, inPort := port, aged := false, since := 0, cycles := 0 }

/-- One packet waits at an output of a router. -/
def queued (r port : Nat) : State := setOut ready0 r port { NocOut.zero with waiting := [waits0 4 0] }

theorem test_witness_noc_packet :
    outputOpen (queued 0 3) 0 3 = true ∧ nextPacket (queued 0 3) 0 3 = some (waits0 4 0) ∧ neighbour 0 3 = some 1 ∧
    outputOpen (queued 71 6) 71 6 = true ∧ nextPacket (queued 71 6) 71 6 = some (waits0 4 0) ∧
    destGone (queued 71 6) (waits0 4 0).pkt = false := by decide +kernel

theorem test_witness_noc_aged :
    let s := { queued 0 3 with time := 10240 }
    (getOut s 0 3).waiting.find? (fun w => !w.aged && !thFlag w.pkt 3 && decide (256 * 40 ≤ waited s 0 w)) = some (waits0 4 0) := by
  decide +kernel

theorem test_witness_mesh :
    neighbour 0 2 = some 8 ∧ neighbour 71 0 = some 63 ∧ meshFailed ready0 0 2 = false ∧
    getF ready0 (F.NOC_ROUTER_STATE 71) = 0 ∧ getF (setF ready0 (F.NOC_ROUTER_STATE 71) 3) (F.NOC_ROUTER_STATE 71) ≠ 0 := by
  decide +kernel

theorem test_witness_routes :
    let s := { setF (queued 0 3) F.NOC_STATUS_ROUTE_BUSY 1 with time := 10000, routeChanges := [{ router := 0, dir := none, since := 0 }] }
    getF s F.NOC_STATUS_ROUTE_BUSY = 1 ∧ s.routeChanges.any (fun c => decide (c.since + 10000 ≤ s.time)) = true ∧
    (List.range 7).any (fun p => !(getOut s 0 p).waiting.isEmpty) = true := by decide +kernel

theorem test_witness_fallback :
    let s := { setF ready0 F.NOC_STATUS_FALLBACK 1 with fallbackClear := some 0, time := 100000 }
    halfStep s 0 = halfStep s 1 ∧ rowTrigger s = false ∧ seamTrigger s = false ∧ getF s F.NOC_FALLBACK_FORCE = 0 ∧
    getF s F.NOC_STATUS_FALLBACK = 1 ∧ s.fallbackClear = some 0 ∧ 0 + 100000 ≤ s.time := by decide +kernel

/-! ## Links and the switch -/

/-- Link 47 is ACTIVE. -/
def linked : State := sets ready0 [(F.LNK_STATUS_STATE 47, 3), (F.LNK_TRAIN_LANE_USED 47, 0xF)]

/-- Flits that link 47 expects next, and another. -/
def dataFlit0 : FlitWord := mkFlit 0 1 0 0 none 0 0 0
def dataFlit1 : FlitWord := mkFlit 0 1 0 0 none 1 0 0
def nakFlit : FlitWord := mkFlit 2 0 0 0 (some 4095) 0 0 0
def idleFlit0 : FlitWord := mkFlit 1 0 0 0 none 0 0 0

theorem test_witness_flits : linkHears linked 47 = true ∧ (getLink linked 47).rxSeq = 0 ∧ (getLink linked 47).nakSent = false := by
  decide +kernel
theorem test_witness_data_flit : flitOk dataFlit0 = true ∧ flKind dataFlit0 = 0 ∧ flSeq dataFlit0 = 0 :=
  ⟨flitOk_mkFlit _ _ _ _ _ _ _ _ (by decide +kernel),
   (flBits_mkFlit _ _ _ _ _ _ _ _ 1 0 (by decide)).trans (by decide +kernel),
   (flBits_mkFlit _ _ _ _ _ _ _ _ 27 16 (by decide)).trans (by decide +kernel)⟩
theorem test_witness_wrong_flit : flSeq dataFlit1 = 1 :=
  (flBits_mkFlit _ _ _ _ _ _ _ _ 27 16 (by decide)).trans (by decide +kernel)
theorem test_witness_nak : flitOk nakFlit = true ∧ flKind nakFlit = 2 :=
  ⟨flitOk_mkFlit _ _ _ _ _ _ _ _ (by decide +kernel), (flBits_mkFlit _ _ _ _ _ _ _ _ 1 0 (by decide)).trans (by decide +kernel)⟩
theorem test_witness_idle : flitOk idleFlit0 = true ∧ flKind idleFlit0 = 1 :=
  ⟨flitOk_mkFlit _ _ _ _ _ _ _ _ (by decide +kernel), (flBits_mkFlit _ _ _ _ _ _ _ _ 1 0 (by decide)).trans (by decide +kernel)⟩
/-- A skew probe (R342): LINKCTL code 3. -/
theorem test_witness_probe : flitOk (mkFlit 3 0 0 0 none 0 0 3) = true ∧ flKind (mkFlit 3 0 0 0 none 0 0 3) = 3 ∧
    flBits (mkFlit 3 0 0 0 none 0 0 3) 71 64 = 3 :=
  ⟨flitOk_mkFlit _ _ _ _ _ _ _ _ (by decide +kernel), (flBits_mkFlit _ _ _ _ _ _ _ _ 1 0 (by decide)).trans (by decide +kernel),
   (flBits_mkFlit _ _ _ _ _ _ _ _ 71 64 (by decide)).trans (by decide +kernel)⟩

theorem test_witness_link_faults :
    let s := setLink { linked with time := 10000000 } 47
      { getLink linked 47 with replay := [{ seq := 0, flit := dataFlit0, resends := 8, fwd := false }] }
    inUse s 47 = true ∧ (getLink s 47).replay.any (fun r => decide (8 ≤ r.resends)) = true ∧
    getF s (F.LNK_TRAIN_LANE_USED 47) = 0xF ∧ (0x3#4) &&& (0xF#4) ≠ (0xF#4) ∧
    pickLanes 0 0 = none ∧ pickLanes 0xF 0 = some (0xF, 0) ∧ pickLanes 0x6 0 = some (2, 2) ∧ pickLanes 0xF 1 = some (3, 1) ∧
    pickLanes 0xC 0 = some (0xC, 1) ∧ pickLanes 0xF 2 = some (1, 2) := by decide +kernel

theorem test_witness_retrain :
    let s := setLink linked 47 { getLink linked 47 with retraining := some 0, lanes := 0xF }
    (getLink s 47).retraining = some 0 ∧ linkState s 47 = 3 ∧ getF s (F.LNK_STATUS_WIDTH 47) = 0 ∧
    pickLanes (0xF#4 &&& (getLink s 47).lanes) 0 = some (0xF, 0) ∧ pickLanes (0#4 &&& (getLink s 47).lanes) 0 = none := by
  decide +kernel

theorem test_witness_watchdog :
    let t : TxPkt := { pkt := packet0 0 0 0, epoch := 0, fwd := false }
    let s := setLink { linked with time := 10000000 } 47 { getLink linked 47 with queues := [[], [], [], [t]] }
    (getLink s 47).queues.getD 3 [] ≠ [] ∧ linkState s 47 = 3 ∧ (getLink s 47).progress.getD 3 0 + 10000000 ≤ s.time := by
  decide +kernel

theorem test_witness_switch :
    let x : SwPkt := { pkt := packet0 0 0 0, vc := 0, epoch := 0, fromLink := some 47, fwd := true }
    ({ ready0 with switch := [x] }).switch[0]? = some x ∧ dstDev x.pkt = ownDev ready0 ∧
    srcDev { th := mkTh 0 0 0 0 0 0 0 0, data := [] } = ownDev ready0 := by decide +kernel

theorem test_witness_epochs :
    let s := sets ready0 [(F.LNK_EPOCH_PREV_VALID, 1), (F.LNK_EPOCH_CTRL_RETIRE, 1), (F.LNK_EPOCH_PREV, 255)]
    getF ready0 F.LNK_EPOCH_PREV_VALID = 0 ∧ getF s F.LNK_EPOCH_PREV_VALID = 1 ∧ getF s F.LNK_EPOCH_CTRL_RETIRE = 1 ∧
    prevDrained s = true ∧
    prevDrained { s with switch := [{ pkt := packet0 0 0 0, vc := 0, epoch := 255, fromLink := none, fwd := false }] } = false := by
  decide +kernel

theorem test_witness_peer :
    let s := setF ready0 (F.LNK_CTRL_PLUG_EN 47) 1
    linkState s 47 = 0 ∧ getF s (F.LNK_CTRL_PLUG_EN 47) = 1 ∧ getF s (F.LNK_CTRL_DISABLE 47) = 0 ∧
    s.luthier.ioRst = false ∧ pickLanes 8 0 ≠ none ∧ inUse linked 47 = true ∧ getF linked (F.LNK_CTRL_DISABLE 47) = 0 := by
  decide +kernel

theorem test_witness_hold :
    let s := setLink { linked with time := 100000000 } 47 { getLink linked 47 with heldSince := some 0 }
    linkHears linked 47 = true ∧ (getLink s 47).heldSince = some 0 ∧ 0 + 100000000 ≤ s.time ∧
    (getLink s 47).queues = [[], [], [], []] ∧ (getLink s 47).replay = [] := by decide +kernel

/-! ## LINK_SEND and collectives -/

theorem test_witness_link_send :
    let b : List (Nat × Nat) := [(48, 1), (52, 4095)]
    let o := openCmd (cmdOf ((0, 0x32) :: (1, 3) :: b))
    let s := sets (withCmd 3 0x32 b) [(candValid 1 4095 0, 1), (candLink 1 4095 0, 47), (F.LNK_STATUS_STATE 47, 3)]
    toBegin s 0 0 0x32 = some o ∧ lsFields s o.cmd = true ∧ foreignCtx s 0 (lsSrcCtx o.cmd) = false ∧
    reachable s (lsDev o.cmd) = true ∧ reachable (withCmd 3 0x32 b) (lsDev o.cmd) = false ∧
    lsFields s (cmdOf [(0, 0x32), (1, 3)]) = false := by decide +kernel

theorem test_witness_segment :
    let s := setF (setF ready0 (F.MMU_CTX_VALID 0) 1) (F.MMU_CTX_PART 0) 1
    (segmentWrite s { th := 0, data := List.replicate 16 0 }).2 = some (codeResult stPermission 0) ∧
    (segmentWrite (setF ready0 (F.MMU_CTX_VALID 0) 1) { th := 0, data := List.replicate 16 0 }).2 = none := by decide +kernel

theorem test_witness_group_create :
    let b : List (Nat × Nat) := [(32, 7), (36, 1), (40, 0x10000)]
    let o := openCmd (cmdOf ((0, 0x34) :: (1, 3) :: b))
    let s := mapped (withCmd 3 0x34 b) [(0x2000, 0)]
    let r := vreadBytes s 0 0x10000 2 .read
    toBegin s 0 0 0x34 = some o ∧ gcFields o.cmd = true ∧ gcNmem o.cmd = 1 ∧ foreignCtx s 0 (gcCtx o.cmd) = false ∧
    r.2.fail = none ∧ r.2.poison = false ∧ (memberIds r.2.bytes)[gcRank o.cmd]? = some (ownDev r.1) ∧
    (memberIds r.2.bytes).Nodup ∧ r.1.colGroups = [] ∧ freeGroup r.1 = some 0 ∧ ownDev r.1 = 0 := by decide +kernel

/-- A group of devices 0 (this one) and 1. -/
def colGroup0 : ColGroup := { part := 0, key := 7, rank := 0, members := [0, 1], broken := false, nextSeq := 1 }

/-- A barrier of the group in service. -/
def coll0 : Coll :=
  { q := 0, tag := 0, group := 511, seq := 0, cmd := cmdOf [(34, 5)], own := [], got := [], lastRx := 0,
    paused := 0 }

theorem test_witness_group_destroy :
    let b : List (Nat × Nat) := [(32, 511)]
    let o := openCmd (cmdOf ((0, 0x35) :: (1, 3) :: b))
    let s := { withCmd 3 0x35 b with colGroups := [(511, colGroup0)] }
    toBegin s 0 0 0x35 = some o ∧ bits (cmdField o.cmd 32 2) 15 9 = 0 ∧ cmdField o.cmd 34 30 = 0 ∧
    slook s.colGroups (coGroup o.cmd) = some colGroup0 ∧ colGroup0.part = partOf s 0 ∧
    s.colls.any (fun c => c.group == coGroup o.cmd) = false ∧ [coll0].any (fun c => c.group == coGroup o.cmd) = true := by
  decide +kernel

theorem test_witness_collective :
    let b : List (Nat × Nat) := [(32, 511), (34, 5)]
    let o := openCmd (cmdOf ((0, 0x33) :: (1, 3) :: b))
    let s := { withCmd 3 0x33 b with colGroups := [(511, colGroup0)] }
    toBegin s 0 0 0x33 = some o ∧ coFields o.cmd = true ∧ slook s.colGroups (coGroup o.cmd) = some colGroup0 ∧
    foreignCtx s 0 (coCtx o.cmd) = false ∧ coRoot o.cmd < colGroup0.members.length := by decide +kernel

/-- A segment of member 1 for the barrier. -/
def segment0 : Packet := { th := 0, data := [7, 0, 0, 0, 0, 0, 1, 0x50] }

theorem test_witness_collective_segment :
    let s := { ready0 with colGroups := [(511, colGroup0)], colls := [coll0] }
    segGroup s segment0 = some (511, colGroup0) ∧ segGroup ready0 segment0 = none ∧ segRank segment0 < 2 ∧
    s.colls.find? (fun c => c.group == 511 && c.seq == segNo segment0) = some coll0 ∧
    segExpected coll0 colGroup0 segment0 = true ∧
    segExpected coll0 colGroup0 { segment0 with data := [7, 0, 0, 0, 0, 0, 0, 0x50] } = false := by decide +kernel

theorem test_witness_peer_loss :
    let s := { setF ready0 F.COL_CFG_TMO_MS 1 with colGroups := [(511, colGroup0)], colls := [coll0], time := 1000000 }
    s.colGroups.find? (fun x => x.2.part == 0 && x.2.key == 7) = some (511, colGroup0) ∧
    slook s.colGroups 511 = some colGroup0 ∧ getF s F.COL_CFG_TMO_MS ≠ 0 ∧
    s.colls.any (fun c => c.group == 511 && timedOut s colGroup0 1 c) = true := by decide +kernel

theorem test_witness_retry :
    let r : Retry := { pkt := segment0, since := 0 }
    ({ ready0 with retries := [r], time := 2000 }).retries[0]? = some r := by decide +kernel

/-! ## Power and the capo -/

theorem test_witness_stack :
    slook ({ ready0 with luthier := ready0.luthier }).spareCoils 0 = none ∧
    colOfPcol (setF ready0 (F.MEM_COLMAP_VALID 0) 1) 0 = some 0 ∧ colOfPcol ready0 1223 = none := by decide +kernel

theorem test_thru_slice :
    after (.thruSlice 8 949) ready0 (fun t => getF t (F.PDM_THRU_OK 8)) = some 0 ∧
    after (.thruSlice 8 950) ready0 (fun t => getF t (F.PDM_THRU_OK 8)) = some 1 := by decide +kernel

theorem test_witness_coolant :
    let s := setF ready0 F.THM_FLOW_CFG_NOM 100
    20 * getF s F.THM_FLOW_CFG_NOM < 2001 ∧ getF s F.THM_STATUS_OUTLET_LOST = 0 ∧ s.therm.reversed = false := by decide +kernel

theorem test_witness_input :
    State.reset.pins.vinOk = true ∧
    (let s := { State.reset with power := .off, pins := { State.reset.pins with vinOk := false } }
     s.pins.vinOk = false ∧ s.pins.pwrEn = true ∧ s.power = .off) := by decide +kernel

theorem test_witness_sense :
    let s := setF ready0 F.PDM_VSTK_SENSE_SENSE_OK 0x80
    getF (setBit s F.PDM_VSTK_SENSE_SENSE_OK 7 false) F.PDM_VSTK_SENSE_SENSE_OK = 0 ∧
    getF (setBit s F.PDM_VSTK_SENSE_SENSE_OK 7 false) F.PDM_VSTK_SENSE_LOCAL = 0 ∧
    getF (setBit (setF s F.PDM_VSTK_SENSE_LOCAL 1) F.PDM_VSTK_SENSE_SENSE_OK 7 false) F.PDM_VSTK_SENSE_LOCAL = 1 := by
  decide +kernel

theorem test_witness_droop :
    let s := setF (setF ready0 (F.PDM_CELL_SET_MV 71) 700) F.PDM_DROOP_CFG_TRIP_MV 40
    getF s (F.PDM_VMIN_VALID 71) = 0 ∧ 660 + getF s F.PDM_DROOP_CFG_TRIP_MV ≤ getF s (F.PDM_CELL_SET_MV 71) ∧
    (getStretch s 71).droop = false ∧ getF s (F.PDM_CELL_STATE 71) < 2 ∧
    (getStretch (setStretch s 71 { getStretch s 71 with droop := true }) 71).droop = true := by decide +kernel

theorem test_witness_clock_steps :
    let s := { ready0 with capo := { ready0.capo with stepWait := [(7, 40), (8, 60)] } }
    slook s.capo.stepWait 7 = some 40 ∧ stepHeld s 7 = false ∧ slook s.capo.stepWait 0 = none ∧
    stepHeld (setStretch s 7 { getStretch s 7 with droop := true }) 7 = true := by decide +kernel

theorem test_witness_phases :
    let s := setF ready0 (F.PDM_CELL_PHASE_OK 71) 0xFFF
    getF s (F.PDM_CELL_PHASE_OK 71) = 0xFFF ∧
    (getF (setF s (F.PDM_CELL_PHASE_OK 71) 0x7FF) (F.PDM_CELL_PHASE_OK 71)).testBit 11 = false ∧
    (getF (setF s (F.PDM_CELL_PHASE_OK 71) 0x7FF) (F.PDM_CELL_PHASE_OK 71)).testBit 0 = true ∧
    getF s (F.PDM_CELL_STATE 71) ≠ 2 := by decide +kernel

theorem test_witness_noc_cells :
    ready0.capo.nocLost = [] ∧ ({ ready0.capo with nocLost := [3] } : Capo).nocLost.contains 3 = true ∧
    ({ ready0.capo with nocLost := [3] } : Capo).nocLost.contains 0 = false := by decide +kernel

theorem test_witness_power_loop :
    let s := sets ready0 [(F.CAPO_LIMIT_LIMIT_W, 1000), (F.CLK_FIXED_ACTIVE, 0)]
    let u := capSteps (applyLimit (setF (setF s F.CAPO_INPUT_PWR_W 1) F.CAPO_INPUT_VIN 1))
    getF u F.CLK_FIXED_ACTIVE = 0 ∧ getF u F.CAPO_STATE_EFF_W = 1000 := by decide +kernel

theorem test_witness_lowering :
    let s := setF (setF ready0 (F.CLK_REGION_CUR_STEP 7) 33) (F.CLK_REGION_MAX_STEP 7) 80
    32 < targetStep s 7 ∧ targetStep s 7 ≤ maxStep s 7 ∧ collRuns s 7 = false := by decide +kernel

theorem test_witness_deferral :
    let s := { setF ready0 F.CAPO_CTRL_DEFER_MAX_US 1 with capo := { ready0.capo with deferSince := [(7, 0)] }, time := 1000 }
    slook s.capo.deferSince 7 = some 0 ∧ collRuns s 7 = false ∧ 0 + 1000 * getF s F.CAPO_CTRL_DEFER_MAX_US ≤ s.time := by
  decide +kernel

theorem test_witness_energy :
    (∀ p ∈ [(0, 4), (15, 4)], p.1 < 16) ∧ ([(0, 4), (15, 4)].map (·.1)).Nodup ∧ 0 < ([(0, 4), (15, 4)].map (·.2)).sum ∧
    4 * 8 ≤ 5 * (10 - 0) ∧ 4 * (10 - 0) ≤ 5 * 8 := by decide +kernel

theorem test_witness_grant_and_fixed :
    (List.replicate 9 0).length ≤ 9 ∧ getF ready0 F.CLK_FIXED_ACTIVE = 0 ∧
    (let s := setF ready0 F.CAPO_STATE_EFF_W 3000
     3000 ≤ getF s F.CAPO_STATE_EFF_W ∧ reason s 2 = false ∧ s.capo.nocLost = [] ∧ (1#32).toNat.testBit 0 = true) := by
  decide +kernel

/-! ## Sensors and the thermal loop -/

theorem test_witness_sensor :
    sensorIgnored ready0 323 = false ∧ slook ready0.therm.excluded 323 = none ∧ (-160 : Int) ≤ -160 ∧ (1200 : Int) ≤ 1200 := by
  decide +kernel

theorem test_sensor_bounds :
    getF (sampleSensor ready0 { index := 323, temp := -160 }) (F.THM_SENSOR_VALID 323) = 1 ∧
    getF (sampleSensor ready0 { index := 323, temp := 1200 }) (F.THM_SENSOR_VALID 323) = 1 ∧
    getF (sampleSensor ready0 { index := 323, temp := 1201 }) (F.THM_SENSOR_VALID 323) = 0 := by decide +kernel

theorem test_witness_readmission :
    let s := { ready0 with therm := { ready0.therm with excluded := [(323, 0)] }, time := 100000000 }
    slook s.therm.excluded 323 = some 0 ∧ 0 + 100000000 ≤ s.time := by decide +kernel

/-- Two sensors of a site, 40 and 41 units apart. -/
theorem test_witness_disagree :
    let s := sets ready0 [(F.THM_SENSOR_VALID 142, 1), (F.THM_SENSOR_VALID 143, 1), (F.THM_SENSOR_TEMP 142, 0),
                          (F.THM_SENSOR_TEMP 143, 41)]
    reading s 142 = some 0 ∧ reading s 143 = some 41 ∧ s.therm.disagree = [] := by decide +kernel

theorem test_witness_tray :
    getF ready0 F.THM_STATUS_INLET_LOST = 0 ∧ getF (setF ready0 F.THM_STATUS_INLET_LOST 1) F.THM_STATUS_INLET_LOST = 1 ∧
    360 < getI (setF ready0 F.THM_COOLANT_INLET 361) F.THM_COOLANT_INLET ∧ ready0.therm.inletOut = false := by decide +kernel

theorem test_witness_flow_pulses :
    ready0.therm.flowLast = none ∧
    (let s := { ready0 with therm := { ready0.therm with flowLast := some 0, period := 10 }, time := 20 }
     s.therm.flowLast = some 0 ∧ 0 + 2 * s.therm.period ≤ s.time) := by decide +kernel

theorem test_witness_flow_states :
    (let s := sets ready0 [(F.THM_FLOW_CFG_K, 1), (F.THM_FLOW_FLOW, 2999), (F.THM_FLOW_CFG_NOM, 149)]
     getF s F.THM_STATUS_FLOW_STATE = 0 ∧ getF s F.THM_FLOW_FLOW < 3000 ∧ ¬ getF s F.THM_FLOW_FLOW < 20 * getF s F.THM_FLOW_CFG_NOM) ∧
    (let s := sets ready0 [(F.THM_FLOW_CFG_K, 1), (F.THM_FLOW_FLOW, 3200), (F.THM_STATUS_FLOW_STATE, 1), (F.THM_FLOW_CFG_NOM, 161)]
     getF s F.THM_STATUS_FLOW_STATE = 1 ∧ 3200 ≤ getF s F.THM_FLOW_FLOW ∧ getF s F.THM_STATUS_FLOW_INVALID = 0 ∧
     getF s F.THM_FLOW_FLOW < 20 * getF s F.THM_FLOW_CFG_NOM) ∧
    (let s := sets ready0 [(F.THM_FLOW_CFG_K, 1), (F.THM_FLOW_FLOW, 3000), (F.THM_STATUS_FLOW_STATE, 2), (F.THM_FLOW_CFG_NOM, 100)]
     getF s F.THM_STATUS_FLOW_STATE = 2 ∧ 30 * getF s F.THM_FLOW_CFG_NOM ≤ getF s F.THM_FLOW_FLOW) := by decide +kernel

/-- A layer whose own sensor and model are both known. -/
def warm (temp : Nat) : State :=
  sets ready0 [(F.THM_SENSOR_VALID 168, 1), (F.THM_SENSOR_TEMP 168, temp), (F.THM_COOLANT_INLET, 200)]

theorem test_witness_layers :
    dieSensor (warm 100) 1 = some 100 ∧ layerModel (warm 100) 0 = 200 ∧ getF (warm 100) (F.THM_LAYER_SUSPECT 0) = 0 ∧
    dieSensor ready0 1 = none ∧ (100 : Int) + 48 < 200 ∧
    (dieSensor (warm 184) 1 = some 184 ∧ ((184 : Int) - layerModel (warm 184) 0).natAbs ≤ 16 ∧
     getF (setF (warm 184) (F.THM_LAYER_SUSPECT 0) 1) (F.THM_LAYER_SUSPECT 0) = 1) := by decide +kernel

theorem test_witness_allowance :
    let s := sets ready0 [(F.THM_SENSOR_VALID 0, 1), (F.THM_SENSOR_TEMP 0, 400), (F.THM_COOLANT_INLET, 200), (F.THM_THETA_THETA 0, 100)]
    (leastAllow s).isSome = true ∧ dieGovern s 0 = some 400 ∧ getF s F.THM_STATUS_AT_LIMIT = 0 ∧
    getF s F.THM_STATUS_FLOW_STATE ≠ 2 := by decide +kernel

theorem test_witness_hot_region :
    let s := sets ready0 [(F.THM_SENSOR_VALID 0, 1), (F.THM_SENSOR_TEMP 0, 1000), (F.CLK_REGION_CUR_STEP 0, 80), (F.CLK_REGION_MAX_STEP 0, 80)]
    regionHot s 0 = true ∧ 32 ≤ targetStep s 0 ∧ targetStep s 0 ≤ maxStep s 0 ∧ regionHot s 7 = false ∧ atLimit s 0 = true := by
  decide +kernel

theorem test_witness_trip : State.reset.pins.thermtrip = false ∧ (880 : Int) ≤ 880 ∧ 10000 ≤ 10000 := by decide +kernel

/-! ## Bring-up -/

theorem test_witness_stages :
    ∀ n ∈ [0, 1, 2, 3, 4, 5, 6, 7, 8], (staged n).power = .on ∧ devState (staged n) = 0 ∧ getF (staged n) F.LUT_STATE_STAGE = n := by
  decide +kernel

/-- The header of an empty segment, with its CRC-32. -/
def emptySeg (ty crc : Nat) : List Byte := bytesOf 32 (0x53474553 + ty * 2 ^ 32 + 2 ^ 48 + crc * 2 ^ 224)

/-- A slot with empty IDENTITY, BOARD, CAPO and PARTITION segments. -/
def slotBytes : List (Nat × Byte) :=
  [(0, emptySeg 1 0x05232A69), (64, emptySeg 2 0x5D3D8341), (128, emptySeg 4 0xED00D111), (192, emptySeg 3 0xDC18E666), (256, emptySeg 0 0x84064F4E)].flatMap
    (fun p => p.2.zipIdx.map (fun x => (0x100000 + p.1 + x.2, x.1)))

theorem test_witness_image :
    let s := { staged 1 with flash := slotBytes }
    (slotSegs s (preferredSlot s)).isSome = true ∧ slotSegs (staged 1) 0 = none ∧ slotSegs (staged 1) 1 = none ∧
    preferredSlot (staged 1) = 0 := by decide +kernel

theorem test_witness_trunks :
    (∀ t, t < 8 → t ∉ ([] : List Nat) ∧ t ∉ namedOf (staged 3) 11) ∧
    (∃ t, t < 8 ∧ t ∈ [0, 80, 81, 82, 83]) ∧ (∀ t, t < 4 → 80 + t ∈ [0, 80, 81, 82, 83]) := by decide +kernel

theorem test_witness_layers_named : namedOf (staged 4) 4 = [] := by decide +kernel

theorem test_witness_qualification :
    let s := setF ready0 (F.LNK_STATUS_STATE 47) 2
    linkState s 47 = 2 ∧ sget 0 s.luthier.qualStep 47 = 0 ∧ getF s (F.LNK_STATUS_WIDTH 47) < 2 ∧
    sget 0 ({ s.luthier with qualStep := [(47, 1)] } : Luthier).qualStep 47 ≠ 0 ∧ ([0, 0, 0, 0].take 4).sum * 100000 < 1 := by
  decide +kernel

theorem test_witness_train :
    namedLanes ready0 47 = 0 ∧ (0xF#4) &&& ~~~(namedLanes ready0 47) = 0xF#4 ∧ (0#4) &&& ~~~(namedLanes ready0 47) = 0#4 := by
  decide +kernel

theorem test_witness_stage7 : (staged 7).luthier.tStage + 2000000000 ≤ ({ staged 7 with time := 2000000000 }).time := by
  decide +kernel

theorem test_witness_regions :
    regionsMeet (regions (pageEngineOff (expressLimit (applyConfig (staged 8))))) = true ∧
    (let s := { sets (staged 8) [(F.UPD_REGION_BASE_BASE, 16), (F.COL_REGION_BASE_BASE, 32)] with flash := slotBytes }
     regionsMeet (regions (pageEngineOff (expressLimit (applyConfig s)))) = false) := by decide +kernel

/-! ## Resets and reloads -/

theorem test_witness_reset_write :
    (let v := BitVec.ofNat 32 (2 ^ 31 + 15 * 2 ^ 3 + 2)
     v.toNat.testBit 31 = true ∧ bits v.toNat 2 0 = 2 ∧ bits v.toNat 12 3 = 15 ∧ bits v.toNat 16 13 = 0) ∧
    getF ready0 F.LUT_RESET_STATUS_BUSY = 0 ∧ getF (setF ready0 F.LUT_RESET_STATUS_BUSY 1) F.LUT_RESET_STATUS_BUSY = 1 ∧
    halted halted0 = true ∧ halted0.power = .on ∧ ready (staged 3) = false ∧ halted (staged 3) = false := by decide +kernel

theorem test_witness_warm :
    State.reset.pins.thermtrip = false ∧ ({ State.reset.pins with thermtrip := true } : Pins).thermtrip = true ∧
    (getCore ready0 0).subPending = [] := by decide +kernel

theorem test_warm_reset_from_halted :
    after (.deviceWarmReset 0x80000004#32) halted0 (fun t => (devState t, getF t F.LUT_STATE_STAGE)) = some (0, 1) ∧
    after (.deviceWarmReset 0x80000003#32) halted0 devState = some 3 := by decide +kernel

theorem test_witness_drains :
    let r : PartRst := { part := 15, since := 0, drained := false, lut := true, reload := none, evt := false }
    let s := { ready0 with luthier := { ready0.luthier with clusterRst := some (63, 0), partRst := [r], ioRst := true } }
    s.luthier.clusterRst = some (63, 0) ∧ s.luthier.partRst.find? (fun r => r.part == 15) = some r ∧ openOfPart s 15 = [] ∧
    s.luthier.ioRst = true ∧ s.pins.perst = false ∧ openOfPart (withCmd 0 0 []) 0 ≠ [] := by decide +kernel

theorem test_witness_reload :
    let s := { ready0 with flash := slotBytes }
    getF s F.LUT_RELOAD_BUSY = 0 ∧ getF (setF s F.LUT_RELOAD_BUSY 1) F.LUT_RELOAD_BUSY = 1 ∧ s.flashOp = none ∧
    (match slotSegs s 0 with
     | some l => (reloadSeg l 4 0).isSome && (reloadSeg l 5 0).isNone && (reloadSeg l 3 0).isSome
     | none => false) = true ∧ slotSegs ready0 1 = none := by decide +kernel

theorem test_witness_export : getF ready0 F.LUT_EXPORT_ADDR_ADDR = 0 := by decide +kernel

/-! ## Sleep states and drones -/

theorem test_witness_scopes :
    let s := setScope { ready0 with time := 5 } 16 { entering := some 2, waking := false, wakeAt := some 5 }
    (getScope s 16).wakeAt = some 5 ∧ 5 ≤ s.time ∧ (getScope s 16).entering = some 2 ∧ (getScope s 16).waking = false ∧
    (getScope (setScope ready0 0 { entering := none, waking := true, wakeAt := none }) 0).waking = true ∧
    (getScope ready0 0).wakeAt = none := by decide +kernel

theorem test_witness_link_sleep :
    let s := { setF linked F.CLK_SLEEP_CTRL_LINK_STBY_EN 1 with time := 10000 }
    getF s F.CLK_SLEEP_CTRL_LINK_STBY_EN = 1 ∧ linkCarries s 47 = true ∧ (∀ w ∈ (getLink s 47).queues, w = []) ∧
    (getLink s 47).replay = [] ∧ (getLink s 47).sleepSent = false ∧ (getLink s 47).lastData + 10000 ≤ s.time := by
  decide +kernel

theorem test_witness_refresh :
    getF ready0 (layerSleepFld 8) ≠ 2 ∧ getF (setF ready0 (layerSleepFld 8) 2) (layerSleepFld 8) = 2 ∧
    sget 0 ({ ready0 with postponed := [(refreshKey 8 1223 3, 8)] }).postponed (refreshKey 8 1223 3) = 8 := by decide +kernel

theorem test_refresh_postponed_eight_times :
    let s := { ready0 with postponed := [(refreshKey 8 1223 3, 7)] }
    let u := { ready0 with postponed := [(refreshKey 8 1223 3, 8)] }
    after (.refresh 8 1223 3 true) s (fun t => sget 0 t.postponed (refreshKey 8 1223 3)) = some 8 ∧
    after (.refresh 8 1223 3 true) u (fun t => sget 0 t.postponed (refreshKey 8 1223 3)) = some 0 := by decide +kernel

theorem test_witness_drones :
    droneScopeOk 79 = true ∧ sget 0 ready0.drones (droneTask .linkEq * 128 + 79) = 0 ∧
    sget 0 ({ ready0 with drones := [(droneTask .linkEq * 128 + 79, 1)] }).drones (droneTask .linkEq * 128 + 79) ≠ 0 := by
  decide +kernel

theorem test_witness_pegs :
    pegOk .coupler 1307 (9 * 2 + 32 * 5) = true ∧ linkState linked 47 ≠ 4 ∧
    linkState (setF linked (F.LNK_STATUS_STATE 47) 4) 47 = 4 ∧ pegOk .sensor 3563 0 = true ∧ pegOk .regulator 75 0 = true := by
  decide +kernel

theorem test_witness_sleep_control :
    (0x14#32).toNat % 8 ≤ 4 ∧ (0x14#32).toNat / 8 % 4 ≤ 2 ∧ 4 < (0x15#32).toNat % 8 ∧ (0x15#32).toNat / 8 % 4 ≤ 2 ∧
    (getScope ready0 16).waking = false ∧
    (let s := setF (setF ready0 (layerSleepFld 8) 2) F.CLK_SLEEP_CTRL_MEM_MAX 1
     scopeLimit s 16 < scopeState s 16) := by decide +kernel

/-! ## Events and the throttle -/

/-- An event of a severity. -/
def event0 (sev : Nat) : Event :=
  { time := 0, famCode := 0x3001, sev := sev, part := none, srcKind := 3, srcIndex := 0, suppressed := 0, aux := 0, data := 0 }

theorem test_witness_events :
    let s := { ready0 with events := { ready0.events with waiting := [event0 sevError, event0 sevFatal],
                                                          windows := [{ ev := event0 sevError, count := 1, opened := 0 }] } }
    s.events.waiting[0]? = some (event0 sevError) ∧ s.events.waiting[1]? = some (event0 sevFatal) ∧
    (event0 sevError).sev ≠ sevFatal ∧ s.events.windows.any (fun w => samePair w.ev (event0 sevError)) = true ∧
    s.events.windows[0]? = some { ev := event0 sevError, count := 1, opened := 0 } ∧
    ready0.events.windows.any (fun w => samePair w.ev (event0 sevError)) = false ∧ ready0.events.windows.length < 512 := by
  decide +kernel

theorem test_witness_ring :
    let s := { setF ready0 F.EVT_CFG_EN 1 with pcie := { ready0.pcie with up := true } }
    evtOpen ready0 = false ∧ evtOpen s = true ∧ s.events.lostSince = 0 ∧ 2 ≤ evtFree s ∧ s.pcie.up = true ∧
    getF s F.EVT_CFG_MIN_SEV ≤ sevFatal := by decide +kernel

theorem test_witness_throttle :
    State.reset.throttle.level = false ∧
    (let s := { setF ready0 F.EVT_INPUT_THR_CHATTER 1 with throttle := { ready0.throttle with since := 0 }, time := 10000000 }
     s.throttle.level = false ∧ getF s F.EVT_INPUT_THR_CHATTER = 1 ∧ s.throttle.since + 10000000 ≤ s.time) ∧
    (let s := { ready0 with throttle := { ready0.throttle with level := true }, time := 100000001 }
     s.throttle.level = true ∧ getF s F.EVT_INPUT_THR_STUCK = 0 ∧ s.throttle.since + 100000000 < s.time) := by decide +kernel

/-! ## Counters, trace and stop -/

theorem test_witness_counters : bar2On ready0 0 = true ∧ bar2On ready0 15 = false ∧ (1#32).toNat.testBit 0 = true := by
  decide +kernel

theorem test_witness_trace :
    getF ready0 F.DBG_TRACE_STATUS_STATE = 0 ∧
    (let s := setF (setF ready0 F.DBG_TRACE_STATUS_STATE 1) F.DBG_TRACE_CTRL_EN 1
     getF s F.DBG_TRACE_STATUS_STATE = 1 ∧ getF s F.DBG_TRACE_CTRL_EN = 1 ∧ getF s F.DBG_TRACE_STATUS_TRIGGERED = 0 ∧
     s.trace.staging = [] ∧ s.trace.dropped = 0) ∧
    (let v := BitVec.ofNat 64 (30 + 2 * 2 ^ 5 + 16 * 2 ^ 7)
     22 ≤ v.toNat % 2 ^ 5 ∧ v.toNat % 2 ^ 5 ≤ 30 ∧ v.toNat / 2 ^ 5 % 2 ^ 2 ≤ 2 ∧ v.toNat / 2 ^ 7 % 2 ^ 5 ≤ 16) ∧
    getF ready0 F.DBG_TRACE_CFG_LOG2SZ ≤ 30 := by decide +kernel

theorem test_witness_trace_record :
    let r : TraceRec := { time := 0, type := 1, flags := 0, src := 0, payload := 0 }
    ({ ready0.trace with staging := [r] } : Trace).staging = [r] ∧ ({ ready0.trace with staging := [r] } : Trace).staging ≠ [] := by
  decide +kernel

theorem test_witness_stop :
    getF ready0 F.DBG_STOP_STATUS_STATE = 0 ∧
    (let s := setF ready0 F.DBG_STOP_STATUS_STATE 1
     getF s F.DBG_STOP_STATUS_STATE = 1 ∧ tokenSeen s (.frontEnd 4) = false ∧ tokenSeen s (.core 1023) = false ∧
     tokenSeen { s with stop := { s.stop with feStopped := [4] } } (.frontEnd 4) = true) ∧
    getF (setF ready0 F.DBG_STOP_STATUS_STATE 2) F.DBG_STOP_STATUS_STATE = 2 := by decide +kernel

theorem test_witness_marks :
    let s := { setF linked F.DBG_MARK_CTRL_PERIOD_US 1 with time := 1000 }
    0 < getF s F.DBG_MARK_CTRL_PERIOD_US ∧ linkCarries s 47 = true ∧
    (getLink s 47).lastProbe + getF s F.DBG_MARK_CTRL_PERIOD_US * 1000 ≤ s.time := by decide +kernel

/-! ## The host interface -/

theorem test_witness_host_read :
    let s := { queue0 with pcie := { queue0.pcie with up := true } }
    mayFetch s 0 = true ∧ (getQueue s 0).sq.dev = false ∧ mayFetch queue0 0 = false := by decide +kernel

theorem test_witness_host_copy :
    let b : List (Nat × Nat) := [(40, 32), (48, 32), (60, 1)]
    let o := openCmd (cmdOf ((0, 0x30) :: (1, 3) :: b))
    let s := { mapped (withCmd 3 0x30 b) [] with pcie := { ready0.pcie with up := true } }
    toBegin s 0 0 0x30 = some o ∧ s.pcie.up = true ∧ cpSrcHost o.cmd = true ∧ copyReject s o = none ∧
    toBegin s 1 0 0x30 = none := by decide +kernel

theorem test_witness_links_and_power :
    ready0.luthier.partRst.find? (fun r => r.part == 15) = none ∧ ready0.pins.perst = false ∧ ready0.luthier.ioRst = false ∧
    3 < stage (staged 4) ∧ ¬ 3 < stage (staged 3) ∧ devState ready0 ≠ 0 ∧ devState (staged 1) = 0 ∧
    ({ ready0 with power := .holdoff }).power = .holdoff := by decide +kernel

theorem test_witness_flash :
    let s := setF ready0 F.NVM_ADDR 0x1100000
    getF s F.NVM_ADDR % 65536 = 0 ∧ nvmProtected s (getF s F.NVM_ADDR) 65536 = false ∧ nvmProtected s 0x100000 65536 = true ∧
    getF s F.NVM_STATUS_BUSY = 0 ∧ getF s F.LUT_RELOAD_BUSY = 0 ∧ (0x80000001#32).toNat.testBit 31 = true ∧
    ¬ 256 < 0 % 256 + 256 := by decide +kernel

theorem test_witness_flash_done :
    let o : FlashOp := { erase := false, addr := 0, bytes := [0xFF, 1] }
    ({ ready0 with flashOp := some o }).flashOp = some o ∧ ready0.luthier.reloadWaits = none := by decide +kernel

/-- A byte that becomes 0xFF is no longer listed (log entry 4). -/
theorem test_flash_program :
    flashApply [(1, 7)] { erase := false, addr := 0, bytes := [3, 0xFF] } = [(0, 3)] := by decide +kernel

theorem test_witness_register_write :
    accessOk 0x10010 4 = true ∧ accessOk 0x10012 4 = false ∧ accessOk 0x10010 2 = false ∧ (findReg 0x10010).isSome = true ∧
    halted halted0 = true ∧ bar2On ready0 15 = false ∧ queueAt queue0 0 1 = none := by decide +kernel

/-- A command frame of the management target at address 0x40, with its PEC. -/
theorem test_witness_management :
    mgmtAddr ready0 0x40 = true ∧ pec ([0x80, 3] ++ [pec [0x80, 3]]) = 0 ∧ pec [0x80, 3, 0] ≠ 0 ∧
    mgmtReach 0x10010 = true ∧ mgmtReach 0x100000 = false ∧ ([3#8, pec [0x80, 3]]).dropLast = [3#8] := by decide +kernel

theorem test_witness_locked :
    (match regTable.find? (fun d => d.flds.any (fun x => x.acc == .rwl)) with
     | some d => findReg d.off == some (d, 0) && accessOk d.off (d.width / 8)
     | none => false) = true := by decide +kernel

/-! ## The whole machine -/

theorem test_reset_memories : Memory.wf State.reset = true := by decide +kernel
theorem test_witness_halted :
    halted0.power = .on ∧ devState halted0 = 3 ∧ halted0.pending = [] ∧
    (match step halted0 with | .next t => devState t == 3 && t.time == 1 | _ => false) = true := by decide +kernel
theorem test_witness_memories :
    Memory.wf (mapped ready0 []) = true ∧
    (match exec (.bankWrite 0x40 1 0xFF false) (mapped ready0 []) with | .next t => Memory.wf t | _ => false) = true := by
  decide +kernel

/-! ## Witnesses for further clauses -/

/-- No layer is in reset and no line held: the commands that touch memory go on. -/
theorem test_witness_quiet_memory :
    memQuiet ready0 = true ∧ memQuiet queue0 = true ∧ memQuiet { ready0 with layerRst := some 8 } = false ∧
    memQuiet { ready0 with saddleHolds := [(7, { line := 0, dpa := 0 })] } = false ∧
    (State.reset.queues.map (·.1)).Nodup := by decide +kernel

/-- The INT8 tile in and the INT32 tile out of one row, an anchor of 50 (R141). -/
def int8Op (op : Nat) : ArrOp :=
  { arrOp0 with op := op, ts := tileIn, tx := tileIn, anchor := 50,
                ty := BitVec.ofNat 256 (0x1000 + 2 ^ 32 + 2 ^ 64 + 2 ^ 96 + 12 * 2 ^ 112) }

theorem test_witness_byte_arithmetic :
    (∀ op, op < 6 → arrOk op 0 (int8Op op).ts (int8Op op).tx (int8Op op).ty = true) ∧
    (tileOf (int8Op 0).ts).fmt = 0 ∧ (tileOf (int8Op 0).ty).fmt = 12 ∧ (50 : Int) ≤ (int8Op 0).anchor.toInt ∧
    (int8Op 0).anchor.toInt ≤ 100 ∧ (int8Op 0).dirty = [] ∧ (int8Op 0).kept = [] ∧
    (getCore (running 0 (fun k => { k with arr := [int8Op 0] })) 0).arr = [int8Op 0] := by decide +kernel

/-- The sum of 16 products of 3 and 3, and its byte order (R142). -/
theorem test_mac_bytes :
    let s := running 0 (fun k => { k with arr := [int8Op 0], ls := (List.range 16).map (fun i => (i, 3)) })
    after (.arrayDone 0 []) s (fun t => ((localByte t 0 0x1000).toNat, (localByte t 0 0x1001).toNat, (getCore t 0).arr)) =
      some (144, 0, []) := by decide +kernel

theorem test_witness_transfer_words :
    let s := mapped (running 0 id) [(0x2000, 5), (0x2001, 6)]
    let g := { dma0 false with va := 0x10000 }
    (dmaRead s 0 0 0x10000).2 = some { data := 5, poison := false } ∧
    (dmaRead s 0 0 0x10008).2 = some { data := 6, poison := false } ∧ g.rows = 1 ∧ g.n = 16 ∧ g.kept = [] ∧
    g.va.toNat % 8 = 0 ∧ g.l % 16 = 0 ∧
    (match translate s 0 0x10000 .write with
     | (u, .ok d) => (writeWord u (d / 8 * 8) 1 0xFF false).2 == .ok
     | _ => false) = true := by decide +kernel

theorem test_witness_barrier_release :
    let s := (List.range 16).foldl (fun s c => setCore s c { getCore s c with wait := some (.bar false 2 5) }) (running 0 id)
    (∀ c ∈ (List.range 16), (barAt (getCore s c) false 2).isSome = true ∧ (getCore s c).stopped = false ∧ tokenDue s c = false) ∧
    tokenDue (setF s F.DBG_STOP_STATUS_STATE 1) 0 = true ∧ releaseDue s 0 = true ∧ releaseDue (running 0 id) 0 = false := by
  decide +kernel

/-- A LAUNCH in progress on cluster 0 names a launch-scope barrier. -/
theorem test_witness_launch_barrier :
    let o := { openCmd (cmdOf [(0, 2), (32, 1)]) with begun := true, items := some 16, starts := [0] }
    let s := { launchState with open_ := [o] }
    (runningOn s 0).isSome = true ∧ (lcsOf (BitVec.ofNat 64 (maskOf o.cmd))).head? = some 0 ∧
    toLaunch s 0 0 = some o ∧ launchMayStart s o 0 = true := by decide +kernel

theorem test_witness_device_ring :
    let s := setQueue (mapped queue0 ((List.range 8).map (fun i => (0x2000 + i, i)))) 0
      { getQueue queue0 0 with sq := { base := 0x10000, log2n := 6, dev := true, ctx := 0 } }
    getF s (F.MMU_CTX_VALID 0) ≠ 0 ∧ getF s (F.MMU_CTX_PART 0) = partOf s 0 ∧ validQ s 0 = true ∧
    (vreadBytes s 0 0x10000 64 .read).2.fail = none ∧ (vreadBytes s 0 0x10000 64 .read).2.poison = false ∧
    (vreadBytes s 1 0x10000 64 .read).2.fail ≠ none ∧ getF queue0 (F.MMU_CTX_VALID 0) = 0 ∧ queue0.pcie.up = false := by
  decide +kernel

theorem test_witness_interrupt :
    let s := setF queue0 (F.CQ_CFG_MSIX_EN 0) 1
    getF queue0 (F.CQ_CFG_MSIX_EN 0) = 0 ∧ getF s (F.CQ_CFG_MSIX_EN 0) = 1 ∧
    getF s (F.CQ_CFG_VECTOR 0) < msixVectors (setF s (F.PART_CFG_VECTORS 0) 1) (partOf s 0) := by decide +kernel

theorem test_witness_mapped_words :
    let s := { setF ready0 (F.MEM_COLMAP_VALID 0) 1 with channelBad := [(1, 2)] }
    (readBank s 0).2.isSome = true ∧ sget 0 s.channelBad (2 * getF s (F.MEM_COLMAP_PCOL (dpaCol 0)) + 1) = 1 + 1 ∧
    sget 0 ready0.channelBad 1 = 0 := by decide +kernel

theorem test_witness_waiting_access :
    let s := setF ready0 (F.MEM_COLMAP_VALID 0) 1
    let r := { s with layerRst := some (readLayer s 0 0 0) }
    let h := { s with saddleHolds := [(bankIndex (readLayer s 0 0 0) 0 0 * 8, { line := 0, dpa := 0 })] }
    colGone s 0 = false ∧ r.layerRst = some (readLayer r 0 0 0) ∧ readLayer r 0 0 0 ∈ writeLayers r 0 0 0 0 ∧
    slook h.saddleHolds (bankIndex (readLayer h 0 0 0) 0 0 * 8) = some { line := 0, dpa := 0 } := by decide +kernel

theorem test_witness_held_lines :
    let s := setF ready0 (F.MEM_COLMAP_VALID 0) 1
    let h : SaddleHold := { line := 3, dpa := 192 }
    let w := { s with saddleHolds := [(bankIndex 8 1223 3 * 8 + 7, h)] }
    heldEntry w (bankIndex 8 1223 3) = some (7, h) ∧ lineHeld w (bankIndex 8 1223 3) 3 = true ∧
    lineHeld s 0 0 = false ∧ expressAt s 0 = false ∧ s.layerDead.contains 8 = false ∧
    (∀ i, i < 256 → getF s (F.MEM_RETIRED_VALID i) = 0) ∧
    getF (setF s (F.MEM_RETIRED_VALID 255) 1) (F.MEM_RETIRED_VALID 255) ≠ 0 := by decide +kernel

/-- The bytes of a host-to-host COPY are backed and clean. -/
theorem test_witness_host_bytes :
    let s := { ready0 with hostMem := (List.range 4).map (fun i => (i, 0)) }
    let l := [SrcWord.word { data := 0, poison := true }]
    (∀ i, i < 4 → (slook s.hostMem (0 + i)).isSome = true ∧ sget false s.hostPoison (0 + i) = false) ∧
    rangesMeet 0 4 4 4 = false ∧ copyFault l [] = none ∧ srcOf 4 0 4 0 = [0] := by decide +kernel

theorem test_witness_evacuation_clauses :
    let s := setF (setF ready0 (F.MEM_COLMAP_VALID 0) 1) F.MEM_EVAC_STATUS_STATE 1
    let e : Evac := { layer := 7, src := 8, dst := 4, copied := false }
    expressAt { s with evac := some e } (markDpa s e) = false ∧ colGone s 0 = false ∧ s.layerDead.contains 4 = false ∧
    (8#32 ||| 0x100#32).toNat % 16 = 8 ∧ (9#32 ||| 0x100#32).toNat % 16 = 9 ∧
    getF (setF s F.MEM_LRST_STATUS_BUSY 1) F.MEM_LRST_STATUS_BUSY = 1 := by decide +kernel

/-- Entries of the three types in a table, a cached leaf, and a translation. -/
theorem test_witness_walk :
    let s := mapped ready0 []
    let u := tlbFill s 0 0 654
    let fails (r : State × Except XFault Nat) (f : XFault) : Bool := match r.2 with
      | .error g => g == f
      | .ok _ => false
    (readPte s 0).2.toOption = some 0x2001 ∧ 0x2001 % 4 = 1 ∧ (readPte s 0x4000).2.toOption = some 654 ∧ 654 % 4 = 2 ∧
    39 % 4 = 3 ∧ dpaValid (2 ^ 40 - 8) = false ∧ dpaValid 0 = true ∧
    tlbFind s 0 0 = none ∧ (tlbFind u 0 0).map (·.leaf.toNat) = some 654 ∧ (walk s 0 0).2.toOption = some 654 ∧
    fails (walk ready0 0 0) .ctxInvalid = true ∧ fails (walk s 0 (2 ^ 52)) .notMapped = true ∧
    (translate s 0 8 .read).2.toOption = some 8 ∧ rewritten s 0 = 0 ∧ (readWord s 0).2.isSome = true ∧
    (vreadWords s 0 0 .read (wordAddrs 0 8)).2.2 = none ∧
    (slotOf (kvMapped ready0) seq0 0).2.toOption = some { slot := 0x6000, page := some 0x10000 } := by decide +kernel

theorem test_witness_page_contexts :
    ctxForeign ready0 0 0 = false ∧ ctxForeign (sets ready0 [(F.MMU_CTX_VALID 0, 1), (F.MMU_CTX_PART 0, 1)]) 0 0 = true ∧
    getF ready0 F.MMU_POOL_STATUS_PE_OFF = 0 ∧ getF (setF ready0 F.MMU_POOL_STATUS_PE_OFF 1) F.MMU_POOL_STATUS_PE_OFF = 1 := by
  decide +kernel

theorem test_witness_stopped_engines :
    feStopped { setF ready0 F.DBG_STOP_STATUS_STATE 1 with stop := { ready0.stop with feStopped := [1, 3, 4] } } 1 = true ∧
    feStopped ready0 3 = false ∧ feStopped ready0 4 = false := by decide +kernel

theorem test_witness_arrivals :
    let w := waits0 4 0
    let s := setF (queued 0 3) F.NOC_STATUS_ROUTE_BUSY 1
    bypassed (setF ready0 (F.NOC_ROUTER_STATE 71) 3) 71 = true ∧ bypassed ready0 71 = false ∧
    samePair' w.pkt w.pkt = true ∧ w.pkt ∈ (nocPackets s).map (·.pkt) ∧ portServes ready0 7 = true ∧
    portServes (setScopeState ready0 7 4) 7 = false ∧ drainedAll ready0 = true ∧ thFlag (packet0 0 0 4) 2 = true := by
  decide +kernel

theorem test_witness_link_clauses :
    let down := { linked with luthier := { linked.luthier with trunkPool := [] } }
    (getLink (setLink linked 47 { getLink linked 47 with nakSent := true }) 47).nakSent = true ∧
    usedLanes linked 47 &&& ~~~(0x7#4) ≠ 0 ∧ usedLanes linked 47 &&& ~~~(0xF#4) = 0 ∧
    trunkOpen down = false ∧ trunkOpen { linked with luthier := { linked.luthier with trunkPool := [8] } } = true ∧
    epochTable linked 128 = none ∧ epochTable linked 0 = some 1 ∧ isNotice (packet0 0 0 0) = false ∧
    ownDev linked = 0 := by decide +kernel

theorem test_witness_reductions :
    coDtype (cmdOf [(35, 3)]) = 3 ∧ coRop (cmdOf [(35, 3)]) = 0 ∧ coOp (cmdOf [(35, 3)]) ≤ 1 := by decide +kernel

/-- Modulo 2^32, in rank order (R243). -/
theorem test_int32_sum : coElement (cmdOf [(35, 3)]) [0xFFFFFFFF, 1, 5] = (5, false) := by decide +kernel

theorem test_witness_power_clauses :
    let c := ready0.capo
    (let s := { ready0 with capo := { c with hardLow := true } }
     s.capo.hardLow = true ∧ getF s F.CAPO_STATE_EFF_W * 98 ≤ 8191 * 100) ∧
    (let s := { ready0 with capo := { c with deferSince := [], deferLast := [(7, 0)] }, time := 1000000 }
     slook s.capo.deferSince 7 = none ∧ slook s.capo.deferLast 7 = some 0 ∧ 0 + 1000000 ≤ s.time) ∧
    (let s := { ready0 with capo := { c with deferLast := [(7, 0)] }, time := 999999 }
     s.time < 0 + 1000000 ∧ slook s.capo.deferLast 7 = some 0) ∧
    (let s := setF { ready0 with capo := { c with deferSince := [(7, 0)], deferThm := [7], deferPwr := [7] } } F.CLK_FIXED_ACTIVE 1
     7 ∈ s.capo.deferThm ∧ 7 ∈ s.capo.deferPwr ∧ getF s F.CLK_FIXED_ACTIVE = 1) ∧
    c.stepCut = false ∧ c.hardLow = false ∧ (0#8).getLsbD 0 = false ∧ 2 ≤ getF (setF ready0 (F.PDM_CELL_STATE 75) 2) (F.PDM_CELL_STATE 75) := by
  decide +kernel

theorem test_witness_tray_readings :
    let t (m : Sparse (Option Nat)) : State := { ready0 with therm := { ready0.therm with trayBack := m }, time := 100000000 }
    slook (t []).therm.trayBack 1 = none ∧ slook (t [(1, none)]).therm.trayBack 1 = some none ∧
    slook (t [(1, some 0)]).therm.trayBack 1 = some (some 0) ∧ 0 + 100000000 ≤ (t []).time ∧
    (20480#16).toInt / 32 = 640 ∧ (20512#16).toInt / 32 = 641 ∧ (0xFFFF#16).toInt / 32 = -1 := by decide +kernel

/-- Fifty milliseconds of 1000 W and a steady inlet. -/
theorem test_witness_theta :
    let l : List PowerMs := List.replicate 50 { pwr := 1000, inlet := 200 }
    l.length = 50 ∧ (∀ x ∈ l, 97 * (l.map (·.pwr)).sum ≤ 5000 * x.pwr ∧ 5000 * x.pwr ≤ 103 * (l.map (·.pwr)).sum) ∧
    1000 = (l.map (·.pwr)).sum / 50 ∧ ready0.therm.disturbed = false ∧ getF ready0 F.THM_STATUS_AT_LIMIT = 0 ∧
    getF ready0 F.THM_STATUS_FLOW_STATE ≠ 2 ∧
    dieGovern (setF (setF ready0 (F.THM_SENSOR_VALID 0) 1) (F.THM_SENSOR_TEMP 0) 400) 0 = some 400 := by decide +kernel

theorem test_witness_trip_sensors : dieSensorOk 0 142 = true ∧ dieSensorOk 11 0 = false ∧ dieSensorOk 1 142 = false := by
  decide +kernel

theorem test_witness_coils :
    let f : CoilFault := { chan := 1224, boundary := 0, down := false, coils := 5 }
    let s := staged 3
    (mapFaults s []).2 = [] ∧ (mapFaults s [f]).2 = [1224] ∧ [f].all coilOk = true ∧ [1307].all channelOk = true ∧
    ((List.range 8).filter (fun t => (mapFaults s [f]).2.contains (1224 + t))).length = 1 ∧
    ((List.range 4).filter (fun t => !(mapFaults s [f]).2.contains (1224 + 80 + t))).length = 4 ∧
    (∀ p ∈ [(72, 11)], p.1 < 76 ∧ p.2 < 12) ∧ namedOf (staged 2) 13 = [] := by decide +kernel

/-- Five service channels gone are one more than the spares. -/
theorem test_witness_coils_stop :
    let l : List CoilFault := (List.range 5).map (fun t => { chan := 1224 + t, boundary := 0, down := false, coils := 5 })
    let lost (t : Nat) : Bool := (mapFaults (staged 3) l).2.contains (1224 + t)
    ((List.range 4).filter (fun t => !lost (80 + t))).length < ((List.range 8).filter lost).length ∧ l.all coilOk = true := by
  decide +kernel

theorem test_witness_links_at_stage7 :
    ([{ link := 47, lanes := 0xF, peer := some (4095, 47), supported := true }] : List LinkTrain).all
      (fun x => linkOk x.link && peerOk x.peer) = true ∧ namedLanes ready0 47 = 0 := by decide +kernel

theorem test_witness_substitution :
    let k := { Core.zero with rowSub := some 1 }
    Core.zero.rowSub = none ∧ k.rowSub ≠ none ∧ k.colSub = none ∧ { k with colSub := some 2 }.colSub ≠ none := by decide +kernel

theorem test_witness_ports_back :
    let s (l : List (Fld × Nat)) := sets ready0 ((F.LNK_STATUS_STATE 47, 5) :: l)
    linkState (s []) 47 = 5 ∧ getB (s []) (F.LNK_STATUS_PEER_VALID 47) = false ∧
    getB (s [(F.LNK_STATUS_PEER_VALID 47, 1)]) (F.LNK_STATUS_PEER_VALID 47) = true ∧
    pickLanes (BitVec.ofNat 4 (getF (s [(F.LNK_TRAIN_LANE_OK 47, 15)]) (F.LNK_TRAIN_LANE_OK 47))) 0 = some (0xF, 0) ∧
    pickLanes (BitVec.ofNat 4 (getF (s []) (F.LNK_TRAIN_LANE_OK 47))) 0 = none ∧
    (∀ l, l < 48 → ¬ (linkState ready0 l = 2 ∨ linkState ready0 l = 5)) := by decide +kernel

theorem test_witness_reload_waits :
    let s := { ready0 with luthier := { ready0.luthier with reloadWaits := some (0x11, 0, 1) },
                           flashOp := some { erase := true, addr := 0, bytes := [] } }
    s.luthier.reloadWaits = some (0x11, 0, 1) ∧ s.flashOp ≠ none ∧ s.flashOp = some { erase := true, addr := 0, bytes := [] } ∧
    defectSegs ready0 = none := by decide +kernel

theorem test_witness_choices :
    let s := setF (setF ready0 (layerSleepFld 8) 2) F.CLK_SLEEP_CTRL_MEM_MAX 1
    (getScope s 16).waking = false ∧ scopeLimit s 16 < scopeState s 16 ∧ deepest ready0 16 0 = 0 ∧
    (getScope (setScope ready0 16 { entering := some 1, waking := false, wakeAt := none }) 16).entering = some 1 ∧
    (getScope ready0 7).entering = none ∧ scopeState ready0 7 = 0 := by decide +kernel

theorem test_witness_quiet_links :
    let s := setF linked F.CLK_SLEEP_CTRL_LINK_STBY_EN 1
    (getLink s 47).ackOwed = none ∧ (∀ n ∈ (getLink s 47).credOwed, n = 0) ∧ (getLink s 47).nakSent = false ∧
    0 ≠ sget 0 ({ ready0 with drones := [(0, 1)] }).drones 0 := by decide +kernel

theorem test_witness_event_clauses :
    let e := { event0 sevError with time := 0 }
    let s := { ready0 with events := { ready0.events with waiting := [e] }, time := 5000 }
    devState (staged 1) = 0 ∧ devState ready0 ≠ 0 ∧ s.events.waiting.any (fun e => decide (e.time + 5000 ≤ s.time)) = true ∧
    (List.replicate 512 ({ ev := { event0 0 with famCode := 1 }, count := 0, opened := 0 } : Window)).length = 512 ∧
    samePair { event0 0 with famCode := 1 } (event0 0) = false ∧ sevError < getF (setF ready0 F.MGT_ALERT_MIN_SEV 3) F.MGT_ALERT_MIN_SEV ∧
    getF ready0 F.MGT_ALERT_MIN_SEV ≤ sevFatal := by decide +kernel

theorem test_witness_lost_events :
    let s := { setF ready0 F.EVT_CFG_EN 1 with pcie := { ready0.pcie with up := true },
                                               events := { ready0.events with lostSince := 1 } }
    evtOpen s = true ∧ 0 < s.events.lostSince ∧ 0 < evtFree s ∧
    evtFree (setF s F.EVT_PROD_PTR (2 ^ s.events.log2n)) = 0 ∧ getF ready0 F.EVT_CFG_EN = 0 ∧ getF s F.EVT_CFG_EN = 1 := by
  decide +kernel

theorem test_witness_trace_order :
    let r : TraceRec := { time := 5, type := 1, flags := 0, src := 0, payload := 0 }
    let s := { ready0 with trace := { ready0.trace with staging := [r] },
                           events := { ready0.events with waiting := [{ event0 sevError with time := 4 }] } }
    s.trace.staging = r :: [] ∧ (∃ e ∈ s.events.waiting, e.time < r.time) ∧
    (∀ e ∈ [{ event0 sevError with time := 5 }], r.time ≤ e.time) := by decide +kernel

theorem test_witness_resumed_core :
    let k := { Core.zero with kernel := some kernel0, wait := some (.sigw 0 0), stopped := true }
    k.wait = some (.sigw 0 0) ∧ k.kernel = some kernel0 ∧ sigMet (sigGet ready0 0 0) 0 = true ∧ sigMet (sigGet ready0 0 0) 1 = false := by
  decide +kernel

theorem test_witness_power_pins :
    ({ State.reset with pins := { State.reset.pins with thermtrip := true } }).pins.thermtrip = true ∧
    (0 : Nat) % 256 + 256 ≤ 256 ∧ 256 < 1 % 256 + 256 := by decide +kernel

theorem test_witness_host_reads :
    accessOk 0x40000 4 = true ∧ accessOk 0x40000 8 = true ∧ accessOk 0x40004 8 = false ∧ accessOk 0x500000 4 = true ∧
    0x40000 + 16 * 75 < 0x10000000 ∧ bar2On ready0 0 = true ∧ ready (staged 3) = false ∧ (staged 3).power = .on ∧
    halted halted0 = true := by decide +kernel

/-- A register of 64 bits whose fields are all RW-L. -/
theorem test_witness_locked_halves :
    regTable.any (fun d => d.width == 64 && allLocked d && findReg d.off == some (d, 0) && findReg (d.off + 4) == some (d, 0)) = true := by
  decide +kernel

/-! ## Heads of queues, completion rings and words -/

/-- Two ready heads of the front end; queue 0 has the turn. The queue that comes next is the lowest after the turn. -/
theorem test_witness_heads :
    let s0 := queueNop 0#512
    let s := setQueue (sets s0 [(F.QCTL_QOWN_VALID 3, 1), (F.QSTATE_STATE 3, 1)]) 3 (getQueue s0 0)
    let x := setF s (F.QCTL_QOWN_EXPRESS 3) 1
    (s.queues.map (·.1)).Pairwise (· < ·) ∧ headOf s 3 = some { abs := 0, cmd := 0#512 } ∧ headOf s 1 = none ∧
    engineOf s 3 = 0 ∧ expressQ s 3 = false ∧ headReady s 0 = true ∧ headReady s 3 = true ∧
    (sget .zero s.turns 0).queue = 0 ∧ arbChoice s 0 = some 3 ∧
    arbChoice { s with turns := [(0, { Turn.zero with left := 1 })] } 0 = some 0 ∧
    expressQ x 3 = true ∧ arbChoice x 0 = some 3 ∧ arbChoice x 1 = none := by decide +kernel

/-- The three ways in which a record fails to reach a ring in device memory, and one that reaches it (R368). -/
theorem test_witness_device_completion :
    let owned (s : State) : Bool := getF s (F.MMU_CTX_VALID 0) == 1 && getF s (F.MMU_CTX_PART 0) == partOf s 0
    let s := setQueue (mapped queue0 []) 0 { getQueue queue0 0 with cq := { base := 0x20000, log2n := 6, dev := true, ctx := 0 } }
    owned queue0 = false ∧ owned s = true ∧ (translate s 0 0x20000 .write).2.toOption = some 0x20000 ∧
    colGone (translate s 0 0x20000 .write).1 (dpaCol 0x20000) = false ∧
    (translate s 0 (2 ^ 52) .write).2.toOption = none ∧
    (let t := setF s (F.MMU_PART_KV_PAGE_LOG2 0) 14
     colGone (setF t (F.MEM_COLMAP_VALID 0) 0) (dpaCol 0x20000) = true) := by decide +kernel

/-- A clean, a corrected and an uncorrectable word (R63), and a word that a failed transfer poisons (R60). -/
theorem test_witness_bank_read :
    let s := mapped ready0 []
    let bad (n : Nat) := cwPut s 0 (flipBit (cwAt s 0) n)
    let read (s : State) := after (.bankRead 0) s (fun t =>
      ((sget [] t.channelOut 1).map (·.poison), getF t F.MEM_CE_CNT, getF t F.MEM_UE_CNT))
    s.layerDead.contains (readLayer s (dpaLayer 0) (dpaCol 0) (dpaBank 0)) = false ∧ memQuiet s = true ∧
    read s = some ([false], 0, 0) ∧ read (bad 1) = some ([false], 1, 0) ∧ read (bad 78) = some ([true], 0, 1) ∧
    read { s with channelBad := [(1, 1)] } = some ([true], 0, 0) := by decide +kernel

/-! ## Frets and the update -/

/-- The item's page is mapped, its words go up a channel, and express items of the same layer wait too. -/
theorem test_witness_fret_items :
    let a := attend0 item0
    let b := { a with tag := 1 }
    let s0 := setF (kvMapped { withCmd 1 0x10 attBody with attends := [a, b] }) (F.MEM_COLMAP_PCOL 1) 1
    let leaf := encodeWord (BitVec.ofNat 64 (kvLeaf (2 ^ 27) 14)) false
    let s := { s0 with open_ := s0.open_ ++ [{ openCmd 0#512 with tag := 1, express := true }], mem := sins s0.mem 0xC00 leaf,
                       capo := { s0.capo with fretHold := [0] }, channelBad := [(3, 1000)] }
    itemDpa s a item0 = some (2 ^ 27) ∧ itemDpa (setF s (F.MMU_CTX_VALID 0) 0) a item0 = none ∧
    itemLayer s a item0 = some 0 ∧ 0 ∈ s.capo.fretHold ∧ attendExpress s a = false ∧ attendExpress s b = true ∧
    (queuedItems s).map (·.1.tag) = [0, 1] ∧ isNext s a item0 = false ∧ isNext s b item0 = true ∧ admitted s b item0 = true ∧
    admitted s a item0 = false ∧ 0 < sget 0 s.channelBad (2 * getF s (F.MEM_COLMAP_PCOL (dpaCol (2 ^ 27))) + 1) ∧
    0 < (partialBytes a item0 + 7) / 8 ∧ sget 0 s0.channelBad 1 = 0 := by decide +kernel

theorem test_witness_update_end :
    let x : Upd := { q := 0, tag := 0, group := 0, step := 0, pass := .stats, todo := [], frozen := 0, stats := [], pro := [],
                     fails := [], bad := [] }
    let s := { grouped (withCmd 4 0x40 []) with upds := [x] }
    passOver s x = true ∧ passOver s { x with pass := .prologue } = true ∧ passOver s { x with pass := .apply } = true ∧
    passOver s { x with pass := .hold } = false ∧ (findCmd s 0 0).isSome = true ∧
    ({ x with fails := [{ seq := 0, res := okResult }] }).fails ≠ [] ∧ findUpd s 0 0 = some x ∧ s.evac = none ∧
    engineOf s 0 = 4 ∧ cOpcode (openCmd (cmdOf [(0, 0x40), (1, 4)])).cmd = 0x40 ∧ stUe ≠ stOk := by decide +kernel

/-! ## The mesh, links and the loop -/

/-- Poisoned packets of a kernel's transfer, of a program and of an item. -/
theorem test_witness_poison :
    let p (cls : Nat) : Packet := { th := mkTh 0 cls 0 0 0 0 0 4, data := [] }
    thFlag (p 0) 2 = true ∧ thDst (p 0) / 4096 = getF ready0 F.LNK_DEVID_DEVID ∧ thClass (p 6) = 6 ∧ thClass (p 7) = 7 ∧
    thClass (p 0) ≠ 6 ∧ thClass (p 0) ≠ 7 ∧ thClass (p 0) ≠ 10 ∧
    (findCmd (withCmd 0 0x02 []) (thQueue (p 0)) (thTag (p 0))).isSome = true ∧ engineOf (withCmd 0 0x02 []) 0 = 0 ∧
    engineOf (withCmd 3 0x30 []) 0 ≠ 0 ∧ cOpcode (cmdOf [(0, 2)]) = 2 ∧ cOpcode (cmdOf [(0, 1)]) = 1 := by decide +kernel

theorem test_witness_undrained :
    let s := { queued 0 7 with time := 10000, routeChanges := [{ router := 5, dir := none, since := 0 }] }
    (∃ c ∈ s.routeChanges, c.since + 10000 ≤ s.time) ∧ (∃ p, p < 8 ∧ (getOut s 0 p).waiting ≠ [] ∧ p = 7) ∧
    (getOut ready0 0 3).waiting = [] := by
  refine ⟨⟨{ router := 5, dir := none, since := 0 }, by simp, by decide⟩, ⟨7, by decide, ?_, rfl⟩, ?_⟩ <;>
    decide +kernel

theorem test_witness_training_ends :
    let s := { sets (staged 7) [(F.LNK_STATUS_STATE 47, 1), (F.LNK_TRAIN_LANE_OK 47, 15)] with links := [] }
    let s := setLink s 47 { getLink s 47 with retraining := some 0, lanes := 0xF }
    devState s = 0 ∧ linkState s 47 = 1 ∧ pickLanes (0xF &&& (getLink s 47).lanes) 0 = some (0xF, 0) ∧
    pickLanes (0x0 &&& (getLink s 47).lanes) 0 = none ∧
    pickLanes (BitVec.ofNat 4 (getF s (F.LNK_TRAIN_LANE_OK 47)) &&& ~~~(namedLanes s 47)) 0 = some (0xF, 0) ∧
    pickLanes (BitVec.ofNat 4 (getF ready0 (F.LNK_TRAIN_LANE_OK 47)) &&& ~~~(namedLanes ready0 47)) 0 = none ∧
    getF (setF linked (F.LNK_CTRL_DISABLE 47) 1) (F.LNK_CTRL_DISABLE 47) = 1 ∧ getF linked (F.LNK_STATUS_PEER_VALID 47) = 0 ∧
    getF (setF linked (F.LNK_STATUS_PEER_VALID 47) 1) (F.LNK_STATUS_PEER_VALID 47) = 1 := by decide +kernel

/-- A FATAL event that waits at the end of bring-up halts the device (R323). -/
theorem test_fatal_at_ready :
    halted (takeAll { ready0 with events := { ready0.events with waiting := [event0 sevFatal] } }) = true ∧
    halted (takeAll ready0) = false := by decide +kernel

theorem test_witness_held_scope :
    let s := setScope { setF ready0 (layerSleepFld 8) 2 with layerRst := some 8, time := 5 } 16
      { entering := none, waking := false, wakeAt := some 0 }
    s.layerRst = some (16 - 8) ∧ (getScope s 16).wakeAt = some 0 ∧ (getScope s 16).waking = false ∧ scopeState s 16 ≠ 0 ∧
    ¬ (s.layerRst = some (15 - 8)) := by decide +kernel

theorem test_witness_tray_out :
    let s := { ready0 with therm := { ready0.therm with trayOut := [1] } }
    1 ∈ s.therm.trayOut ∧ 0 ∉ s.therm.trayOut ∧ 80 * 256 < (20481#16).toInt ∧ (20480#16).toInt ≤ 80 * 256 ∧
    80 * 256 < 16 * ((10248#16).extractLsb' 3 13).toInt ∧ (45 * 256 + 1 : Int) > 45 * 256 := by decide +kernel

theorem test_witness_layer_at_limit :
    atLimit (sets ready0 [(F.THM_SENSOR_VALID 168, 1), (F.THM_SENSOR_TEMP 168, 840)]) 1 = true ∧ atLimit ready0 1 = false := by
  decide +kernel

/-! ## Registers -/

/-- A plain register of each access code, and one of whose fields has a range. -/
theorem test_witness_access_codes :
    (∀ a ∈ [Acc.ro, .rw, .w1c], regTable.any (fun d => d.flds.any (fun x => x.acc == a) && d.width == 32 &&
      decide (d.off < 0x110000) && !([0x10010, 0x20014].contains d.off) && findReg d.off == some (d, 0)) = true) ∧
    rangesOf 0x20014 0 ≠ [] ∧ rangesOf 0x20000 0 ≠ [] ∧ (rangesOf 0x30014 0).length = 1 ∧
    accessOk 0x30014 4 = true := by decide +kernel

/-- A value below its range becomes the reset value (R286). -/
theorem test_range :
    after (.registerWrite 0 false 0x30014 4 0) ready0
      (fun t => getF t F.THM_FLOW_CFG_REDUCED_W) = some F.THM_FLOW_CFG_REDUCED_W.reset := by decide +kernel

/-- A request for a device warm reset, by register and over the management bus. -/
theorem test_witness_warm_requests :
    (0x80000004#32).toNat % 8 = 4 ∧ (0x80000004#32).toNat.testBit 31 = true ∧ natOf [4#8, 0#8, 0#8, 0x80#8] % 8 = 4 ∧
    (natOf [4#8, 0#8, 0#8, 0x80#8]).testBit 31 = true ∧ halted0.waiting ++ halted0.pending = [] := by decide +kernel

end Sys2Proof.Tests
end

/-! PROOFS. The scope statements: what a host write leaves of a register with RW-L fields (R6), the reset state
(R305), and where the statement about register and management accesses fails. -/

section
/-! ## The table of registers

Facts of the manual's field tables about the registers with an RW-L field, each by one pass over the table. -/

namespace Sys2Proof.Machine

/-- The offsets of the registers whose write has an effect of its own (`sysWrite`, `workWrite`). -/
def actingOffs : List Nat :=
  [0x10010, 0x10018, 0x10300, 0x50030, 0x50060, 0x3001C, 0x40A04, 0x60000, 0x60008, 0x6000C, 0xB00004, 0x400000,
    0x210000, 0x210044, 0x300010, 0x300020, 0x400004, 0x50000, 0x500014, 0x500018, 0x500024, 0x500080, 0x600004,
    0x700008, 0x701004, 0x80000C, 0x900000, 0x900008, 0x900010, 0x900030, 0x90003C]

/-- The bytes from the start of the first copy of a register to the end of the last one. -/
def RegDesc.span (d : RegDesc) : Nat := (d.dims.map (fun p => p.1 * (p.2 - 1))).sum + d.width / 8

theorem locked_not_acting : ∀ d ∈ regTable, hasLocked d = true → d.off ∉ actingOffs := by decide +kernel

theorem locked_width : ∀ d ∈ regTable, hasLocked d = true → d.width = 32 ∨ d.width = 64 := by decide +kernel

/-- No register with an RW-L field lies in the copy of the queue pages or beyond the registers of BAR0. -/
theorem locked_in_bar0 : ∀ d ∈ regTable, hasLocked d = true →
    d.off + d.span ≤ 0x110000 ∨ (0x150000 ≤ d.off ∧ d.off + d.span ≤ 0x4000000) := by decide +kernel

/-- The 64-bit registers with an RW-L field are single, and READY locks them whole. -/
theorem locked_wide : ∀ d ∈ regTable, hasLocked d = true → d.width = 64 →
    allLocked d = true ∧ d.dims = [] ∧ d.off % 8 = 0 := by decide +kernel

/-- Their fields lie above GLB_STATUS. -/
theorem locked_key_above_state : ∀ d ∈ regTable, hasLocked d = true →
    ∀ y ∈ d.flds, F.GLB_STATUS_STATE.key < y.fld.key := by decide +kernel

theorem locked_key_ne : ∀ d ∈ regTable, ∀ x ∈ d.flds, x.acc = .rwl → ∀ y ∈ d.flds, y.acc ≠ .rwl →
    x.fld.key ≠ y.fld.key := by decide +kernel

/-- The registers that READY locks in part. THM_FLOW_CFG alone of them has a range, on its unlocked field. -/
theorem partly_locked : ∀ d ∈ regTable, hasLocked d = true → allLocked d = false →
    d.off ∈ [0x100000, 0x300004, 0x10008] ∨ (d.off = 0x30014 ∧
      ∀ x ∈ d.flds, x.acc = .rwl → x.fld.key % 128 ≠ F.THM_FLOW_CFG_REDUCED_W.key % 128) := by decide +kernel

theorem hasLocked_of_mem {d : RegDesc} {x : FldDesc} (hx : x ∈ d.flds) (ha : x.acc = .rwl) : hasLocked d = true :=
  List.any_eq_true.mpr ⟨x, hx, by simp [ha]⟩

/-- The copy with an index below `n` starts at most `n - 1` strides on. -/
theorem index_mul_stride_le {rel st n : Nat} (h : rel / st < n) : rel / st * st ≤ st * (n - 1) := by
  rw [Nat.mul_comm]
  exact Nat.mul_le_mul_left st (by omega)

/-- Where the copy of a register that holds a byte lies. -/
theorem instOf_bounds {d : RegDesc} {off k : Nat} (h : instOf d off = some k) :
    d.off + k ≤ off ∧ off < d.off + k + d.width / 8 ∧ k + d.width / 8 ≤ d.span := by
  simp only [instOf] at h
  split at h
  · cases h
  next hlow =>
  split at h
  next hd =>
    obtain ⟨hin, hk⟩ := Option.ite_none_right_eq_some.mp h
    have hk := Option.some.inj hk
    simp only [RegDesc.span, hd, List.map_nil, List.sum_nil]
    omega
  next st n hd =>
    obtain ⟨⟨hn, hm⟩, hk⟩ := Option.ite_none_right_eq_some.mp h
    have hk := Option.some.inj hk
    have hrel := Nat.div_add_mod' (off - d.off) st
    have hstart := index_mul_stride_le hn
    simp only [RegDesc.span, hd, List.map_cons, List.map_nil, List.sum_cons, List.sum_nil]
    omega
  next st n st' n' hd =>
    obtain ⟨⟨hn, hn', hm⟩, hk⟩ := Option.ite_none_right_eq_some.mp h
    have hk := Option.some.inj hk
    have hrel := Nat.div_add_mod' (off - d.off) st
    have hrel' := Nat.div_add_mod' ((off - d.off) % st) st'
    have hstart := index_mul_stride_le hn
    have hstart' := index_mul_stride_le hn'
    simp only [RegDesc.span, hd, List.map_cons, List.map_nil, List.sum_cons, List.sum_nil]
    omega
  · cases h

/-- A register without indices has one copy. -/
theorem instOf_single {d : RegDesc} {off k : Nat} (hd : d.dims = []) (h : instOf d off = some k) : k = 0 := by
  simp only [instOf, hd] at h
  split at h
  · cases h
  · exact (Option.some.inj (Option.ite_none_right_eq_some.mp h).2).symm

theorem instOf_of_findReg {off k : Nat} {d : RegDesc} (h : findReg off = some (d, k)) : instOf d off = some k := by
  obtain ⟨e, _, he⟩ := List.exists_of_findSome?_eq_some h
  obtain ⟨i, hi, hp⟩ := Option.map_eq_some_iff.mp he
  cases hp
  exact hi

end Sys2Proof.Machine
end

section
/-! ## Writes of a whole register in service -/

namespace Sys2Proof.Machine

theorem sysWrite_eq_none (s : State) (mgmt : Bool) {d : RegDesc} (delta raw : Nat) (h : d.off ∉ actingOffs) :
    sysWrite s mgmt d delta raw = none := by
  unfold sysWrite
  split <;> simp_all [actingOffs]

theorem workWrite_eq_none (s : State) {d : RegDesc} (delta raw : Nat) (h : d.off ∉ actingOffs) :
    workWrite s d delta raw = none := by
  unfold workWrite
  split <;> simp_all [actingOffs]

theorem wholeWrite_of_not_acting (s : State) (mgmt : Bool) {d : RegDesc} (delta raw : Nat) (h : d.off ∉ actingOffs) :
    wholeWrite s mgmt d delta raw = if allLocked d = true then plainWrite s d delta raw
      else applyRanges (plainWrite s d delta raw) d.off delta raw := by
  simp only [wholeWrite, sysWrite_eq_none s mgmt delta raw h, workWrite_eq_none s delta raw h]

@[simp] theorem getF_Raised (s : State) (famCode sev : Nat) (part : Option Nat) (kind index aux data : Nat) (f : Fld) :
    getF (Raised s famCode sev part kind index aux data) f = getF s f := rfl

@[simp] theorem devState_Raised (s : State) (famCode sev : Nat) (part : Option Nat) (kind index aux data : Nat) :
    devState (Raised s famCode sev part kind index aux data) = devState s := rfl

theorem raiseCfg_service {s : State} (h : devState s ≠ 0) (code off data : Nat) :
    raiseCfg s code off data = Raised s code sevWarn none 0x23 off 0 data :=
  raiseEv_service h code sevWarn none 0x23 off 0 data

/-- A write of a field reaches no field with another key. -/
theorem getF_writeFld_ne (s : State) {x : FldDesc} {f : Fld} (delta raw : Nat) (locked : Bool)
    (h : f.key ≠ (x.fld.shift delta).key) : getF (writeFld s x delta raw locked) f = getF s f := by
  unfold writeFld
  cases x.acc with
  | ro => rfl
  | rw => exact getF_setF_ne s _ h
  | wo =>
    dsimp only
    split
    · exact getF_setF_ne s _ h
    · rfl
  | w1c => exact getF_setF_ne s _ h
  | rwl =>
    cases locked with
    | false => exact getF_setF_ne s _ h
    | true => rfl

/-- A locked RW-L field takes nothing from a write. -/
theorem writeFld_locked (s : State) {x : FldDesc} (delta raw : Nat) (h : x.acc = .rwl) :
    writeFld s x delta raw true = s := by
  simp [writeFld, h]

theorem getF_writeFlds (s : State) {d : RegDesc} {f : Fld} (delta raw : Nat)
    (h : ∀ y ∈ d.flds, y.acc = .rwl ∨ f.key ≠ (y.fld.shift delta).key) :
    getF (writeFlds s d delta raw true) f = getF s f := by
  unfold writeFlds
  revert h
  induction d.flds generalizing s with
  | nil => intro _; rfl
  | cons y ys ih =>
    intro h
    rw [List.foldl_cons, ih _ (fun z hz => h z (.tail _ hz))]
    rcases h y (.head _) with hl | hne
    · rw [writeFld_locked s delta raw hl]
    · exact getF_writeFld_ne s delta raw true hne

/-- A register that READY locks whole takes nothing from a write. -/
theorem writeFlds_allLocked (s : State) {d : RegDesc} (delta raw : Nat) (h : allLocked d = true) :
    writeFlds s d delta raw true = s := by
  unfold allLocked at h
  unfold writeFlds
  revert h
  induction d.flds with
  | nil => intro _; rfl
  | cons y ys ih =>
    intro h
    simp only [List.all_cons, Bool.and_eq_true, Bool.or_eq_true, beq_iff_eq] at h
    obtain ⟨hy, hys⟩ := h
    have hkeep : writeFld s y delta raw true = s := by
      rcases hy with hl | hr
      · exact writeFld_locked s delta raw hl
      · simp [writeFld, hr]
    rw [List.foldl_cons, hkeep]
    exact ih hys

/-- The ranges of a register reach only the fields that they name. -/
theorem getF_foldl_applyRange (l : List RangeRule) (acc : State × Bool) {f : Fld} (h : ∀ r ∈ l, f.key ≠ r.1.key) :
    getF (l.foldl applyRange acc).1 f = getF acc.1 f := by
  induction l generalizing acc with
  | nil => rfl
  | cons r rs ih =>
    rw [List.foldl_cons, ih _ (fun q hq => h q (.tail _ hq))]
    unfold applyRange
    dsimp only
    split
    · exact getF_setF_ne acc.1 _ (h r (.head _))
    · rfl

theorem getF_applyRanges {s : State} {off delta raw : Nat} {f : Fld} (hs : devState s ≠ 0)
    (hstate : ∀ r ∈ rangesOf off delta, F.GLB_STATUS_STATE.key ≠ r.1.key)
    (h : ∀ r ∈ rangesOf off delta, f.key ≠ r.1.key) : getF (applyRanges s off delta raw) f = getF s f := by
  have hdev : devState ((rangesOf off delta).foldl applyRange (s, false)).1 ≠ 0 := by
    unfold devState
    rwa [getF_foldl_applyRange _ _ hstate]
  unfold applyRanges
  dsimp only
  split
  · rw [raiseCfg, getF_raiseEv hdev]
    exact getF_foldl_applyRange _ _ h
  · exact getF_foldl_applyRange _ _ h

end Sys2Proof.Machine
end

section
/-! ## Host writes of BAR0 in service (R348) -/

namespace Sys2Proof.Machine

theorem accessOk_four {off : Nat} (h : off % 4 = 0) : accessOk off 4 = true := by
  simp [accessOk, h]

/-- An aligned host write of a register of BAR0 outside the copy of the queue pages. -/
theorem exec_registerWrite_bar0 {s : State} {off size : Nat} (v : BitVec 64) (hs : ready s = true)
    (ha : accessOk off size = true) (hoff : off < 0x110000 ∨ (0x150000 ≤ off ∧ off < 0x4000000)) :
    exec (.registerWrite 0 false off size v) s = .next (regWrite s false off size v.toNat) := by
  have hview : ¬ (0x110000 ≤ off ∧ off < 0x150000) := by omega
  have hend : ¬ 0x4000000 ≤ off := by omega
  change execRegisterWrite 0 false off size v s = _
  simp [execRegisterWrite, onRegWrite, hs, hostRegWrite, ha, bar0Write, hview, hend, fnOk]

section
variable (s : State) (mgmt : Bool) {d : RegDesc} {k : Nat}

/-- A write of all bytes of a register is one write of its whole value. -/
theorem regWrite_whole {v : Nat} (hv : v < 2 ^ 64) (hw : d.width = 32 ∨ d.width = 64)
    (h : findReg (d.off + k) = some (d, k)) :
    regWrite s mgmt (d.off + k) (d.width / 8) v = wholeWrite s mgmt d k (v % 2 ^ d.width) := by
  rcases hw with hw | hw
  · simp [regWrite, regWrite1, h, bring, hw]
  · have hmod : v % 2 ^ d.width = v := Nat.mod_eq_of_lt (by rwa [hw])
    rw [hmod]
    simp [regWrite, oneRegister, regWrite1, h, bring, hw]

/-- The write of the low half of a 64-bit register is held back. -/
theorem regWrite_low (v : Nat) (hw : d.width = 64)
    (h : findReg (d.off + k) = some (d, k)) :
    regWrite s mgmt (d.off + k) 4 v =
      { s with mgmt := { s.mgmt with lowWord := sins s.mgmt.lowWord (d.off + k) (v % 2 ^ 32) } } := by
  simp [regWrite, regWrite1, h, bring, hw]

/-- The write of the high half of a 64-bit register brings both, the low one as held back or as it stands. -/
theorem regWrite_high (v : Nat) (hw : d.width = 64) (h : findReg (d.off + k + 4) = some (d, k)) :
    regWrite s mgmt (d.off + k + 4) 4 v =
      wholeWrite { s with mgmt := { s.mgmt with lowWord := sdel s.mgmt.lowWord (d.off + k) } } mgmt d k
        ((slook s.mgmt.lowWord (d.off + k)).getD (regBits s d k % 2 ^ 32) + v % 2 ^ 32 * 2 ^ 32) := by
  have hat : d.off + k + 4 - (d.off + k) = 4 := by omega
  simp [regWrite, regWrite1, h, bring, hw, hat]

end

end Sys2Proof.Machine
end

section
/-! ## Registers with an RW-L field (R6) -/

namespace Sys2Proof.Machine

section
variable {s : State} {d : RegDesc} (hs : ready s = true) (hd : d ∈ regTable) (hl : hasLocked d = true)
include hd hl

theorem devState_writeFlds_locked (k raw : Nat) : devState (writeFlds s d k raw true) = devState s :=
  getF_writeFlds s k raw fun y hy => .inr (by
    have := locked_key_above_state d hd hl y hy
    change F.GLB_STATUS_STATE.key ≠ y.fld.key + k * 128
    omega)

include hs

/-- The write itself: the unlocked fields take it, and RW_LOCKED names the register. -/
theorem plainWrite_locked (k raw : Nat) :
    plainWrite s d k raw = Raised (writeFlds s d k raw true) 0x6001 sevWarn none 0x23 (d.off + k) 0 raw := by
  have hlock : (devState s == 1 || devState s == 2) = true := by
    simpa using devState_of_ready hs
  have hdev : devState (writeFlds s d k raw true) ≠ 0 := by
    rw [devState_writeFlds_locked hd hl]
    exact devState_ne_zero_of_ready hs
  simp only [plainWrite, hlock, hl, Bool.and_self, if_true]
  exact raiseCfg_service hdev _ _ _

/-- A write of a register with an RW-L field, locked whole or in part. -/
theorem wholeWrite_locked (mgmt : Bool) (k raw : Nat) :
    wholeWrite s mgmt d k raw =
      if allLocked d = true then Raised s 0x6001 sevWarn none 0x23 (d.off + k) 0 raw
      else applyRanges (Raised (writeFlds s d k raw true) 0x6001 sevWarn none 0x23 (d.off + k) 0 raw) d.off k raw := by
  rw [wholeWrite_of_not_acting s mgmt k raw (locked_not_acting d hd hl), plainWrite_locked hs hd hl]
  split
  · next hall => rw [writeFlds_allLocked s k raw hall]
  · rfl

end

/-- No range of a register that READY locks in part is on a locked field, nor on GLB_STATUS. -/
theorem rangesOf_partly_locked {d : RegDesc} {x : FldDesc} (hd : d ∈ regTable) (hx : x ∈ d.flds) (ha : x.acc = .rwl)
    (hall : allLocked d = false) (k : Nat) : ∀ r ∈ rangesOf d.off k,
      F.GLB_STATUS_STATE.key ≠ r.1.key ∧ (x.fld.shift k).key ≠ r.1.key := by
  rcases partly_locked d hd (hasLocked_of_mem hx ha) hall with hoff | ⟨hoff, hlow⟩
  · have hnone : rangesOf d.off k = [] := by
      simp only [List.mem_cons, List.not_mem_nil, or_false] at hoff
      rcases hoff with h | h | h <;> rw [h] <;> rfl
    simp [hnone]
  · intro r hr
    have hone : rangesOf d.off k = [(F.THM_FLOW_CFG_REDUCED_W, 900, fun _ => 3300)] := by rw [hoff]; rfl
    rw [hone, List.mem_singleton] at hr
    have hkey : x.fld.key % 128 ≠ F.THM_FLOW_CFG_REDUCED_W.key % 128 := hlow x hx ha
    subst hr
    refine ⟨by decide, fun he => hkey ?_⟩
    change x.fld.key + k * 128 = _ at he
    rw [← he, Nat.add_mul_mod_self_right]

/-- Whatever a write brings, an RW-L field reads as before it. -/
theorem getF_after_locked_write {s : State} {d : RegDesc} {x : FldDesc} (hs : ready s = true) (hd : d ∈ regTable)
    (hx : x ∈ d.flds) (ha : x.acc = .rwl) (mgmt : Bool) (k raw : Nat) :
    getF (wholeWrite s mgmt d k raw) (x.fld.shift k) = getF s (x.fld.shift k) := by
  have hl := hasLocked_of_mem hx ha
  rw [wholeWrite_locked hs hd hl]
  split
  · rfl
  · next hall =>
    have hr := rangesOf_partly_locked hd hx ha (Bool.eq_false_iff.mpr hall) k
    have hdev : devState (Raised (writeFlds s d k raw true) 0x6001 sevWarn none 0x23 (d.off + k) 0 raw) ≠ 0 := by
      rw [devState_Raised, devState_writeFlds_locked hd hl]
      exact devState_ne_zero_of_ready hs
    rw [getF_applyRanges hdev (fun r h => (hr r h).1) (fun r h => (hr r h).2), getF_Raised]
    refine getF_writeFlds s k raw fun y hy => ?_
    by_cases hy' : y.acc = .rwl
    · exact .inl hy'
    · have hne := locked_key_ne d hd x hx ha y hy hy'
      exact .inr fun he => hne (Nat.add_right_cancel he)

/-- The host reaches every byte of a register with an RW-L field in BAR0. -/
theorem locked_reach {d : RegDesc} {off k : Nat} (hd : d ∈ regTable) (hl : hasLocked d = true)
    (h : findReg off = some (d, k)) : off < 0x110000 ∨ (0x150000 ≤ off ∧ off < 0x4000000) := by
  obtain ⟨hlo, hhi, hspan⟩ := instOf_bounds (instOf_of_findReg h)
  rcases locked_in_bar0 d hd hl with hin | ⟨hbase, hin⟩ <;> omega

/-- Settles O57: the write is `wholeWrite` of the value brought, which leaves the locked fields. -/
theorem lockedFieldsKeepTheirValue : Obligations.LockedFieldsKeepTheirValue := by
  intro s d x k v hs hd hx ha hfind
  have hl := hasLocked_of_mem hx ha
  refine ⟨fun hacc => ?_, fun hw hfind4 => ?_⟩
  · dsimp only
    rw [exec_registerWrite_bar0 v hs hacc (locked_reach hd hl hfind),
      regWrite_whole s false v.isLt (locked_width d hd hl) hfind, ← wholeWrite_locked hs hd hl false]
    exact ⟨rfl, getF_after_locked_write hs hd hx ha false k _⟩
  · obtain ⟨hall, hdims, hmod⟩ := locked_wide d hd hl hw
    have hk : k = 0 := instOf_single hdims (instOf_of_findReg hfind)
    have hacc : accessOk (d.off + k) 4 = true := accessOk_four (by omega)
    have hacc4 : accessOk (d.off + k + 4) 4 = true := accessOk_four (by omega)
    refine ⟨hall, ?_, ?_, rfl⟩
    · rw [exec_registerWrite_bar0 v hs hacc (locked_reach hd hl hfind),
        regWrite_low s false _ hw hfind]
    · rw [exec_registerWrite_bar0 v hs hacc4 (locked_reach hd hl hfind4), regWrite_high s false _ hw hfind4,
        wholeWrite_locked (by exact hs) hd hl, if_pos hall]

end Sys2Proof.Machine
end

section
/-! ## The reset state (R305) -/

namespace Sys2Proof.Machine

/-- With no field written, every field reads its reset value. -/
theorem getF_reset (f : Fld) : getF State.reset f = f.reset % 2 ^ f.width := rfl

/-- Settles O59: nothing is listed in the reset state, so every table reads its default. -/
theorem resetState : Obligations.ResetState := by
  have hdev : devState State.reset = 0 := getF_reset _
  refine ⟨rfl, hdev, getF_reset _, rfl, rfl, rfl, rfl, rfl, rfl, rfl, rfl, getF_reset, ?_, ?_⟩
  · simp [ready, hdev]
  · simp [halted, hdev]

end Sys2Proof.Machine
end

section
/-! ## A READ of MGT_STATUS

A transaction first sets MGT_STATUS.LEGACY, which says whether the bus is in SMBus mode (log entry 76), and then reads.
So a READ of MGT_STATUS itself does not answer what the register held before the transaction. -/

namespace Sys2Proof.Machine

/-- In service, without a dynamic address and before the first management transaction. -/
def beforeFirstTransaction : State := setF State.reset F.GLB_STATUS_STATE 1

/-- The write phase of a READ of MGT_STATUS, at address 0x40, with its PEC. -/
def readMgtStatus : List Byte := [0x80#8, 1#8, 0#8, 0#8, 0xA0#8, 0#8, 150#8]

theorem regRead32_mgtStatus_before : bytesOf 4 (regRead32 beforeFirstTransaction 0xA00000) = [0#8, 0#8, 0#8, 0#8] := by
  decide +kernel

/-- The transaction has LEGACY, bit 7, set in its own answer. -/
theorem mgmtPhase_readMgtStatus : ∃ p, (mgmtPhase beforeFirstTransaction readMgtStatus).mgmt.resp =
    [0#8, 0x80#8, 0#8, 0#8, 0#8, p] :=
  ⟨pec [0x81#8, 0#8, 0x80#8, 0#8, 0#8, 0#8], by decide +kernel⟩

/-- Refutes O56: in service, without a dynamic address and with LEGACY still 0, a READ of MGT_STATUS answers
0x80, and not the 0 that the register held before the transaction. -/
theorem not_registerAndManagementAccesses : ¬ Obligations.RegisterAndManagementAccesses := by
  intro h
  obtain ⟨_, _, _, hmgmt, _⟩ := h
  obtain ⟨_, _, hpec⟩ := hmgmt beforeFirstTransaction readMgtStatus (.read readMgtStatus) (by simp) _ _ rfl
  have heard : (ready beforeFirstTransaction = true ∨
      (beforeFirstTransaction.power = .on ∧ halted beforeFirstTransaction = true)) ∧
      mgmtAddr beforeFirstTransaction ((0x80#8).toNat / 2) = true ∧ (0x80#8).toNat % 2 = 0 ∧
      readMgtStatus.tail ≠ [] := by decide +kernel
  obtain ⟨hread, _⟩ := hpec heard (by decide +kernel)
  obtain ⟨_, _, hanswers⟩ := hread 0#8 0#8 0xA0#8 0#8 rfl
  obtain ⟨t, ht, hresp⟩ := hanswers (by decide) (by decide) (.inl (by decide +kernel))
  obtain ⟨p, hp⟩ := mgmtPhase_readMgtStatus
  have htrans : mgmtPhase beforeFirstTransaction readMgtStatus = t := Host.Outcome.next.inj ht
  have hoff : natOf [0#8, 0#8, 0xA0#8, 0#8] = 0xA00000 := by decide
  rw [← htrans, hp, hoff, regRead32_mgtStatus_before] at hresp
  simp at hresp

end Sys2Proof.Machine
end

/-! PROOFS. The stack and the module, and the links: through slices, couplers, the coolant, the bus converter, and what
a link does with flits, replays, trainings and packets. -/

section
/-! ## What the rules of the stack and of the links share -/

namespace Sys2Proof.Machine

/-- A device in service is powered and not halted. -/
theorem live_ready {s : State} (f : State → State) (h : ready s = true) : live s f = f s :=
  live_on f (power_of_ready h) (not_halted_of_ready h)

theorem raiseEv_eq_Raised {s : State} (h : devState s ≠ 0) (famCode sev : Nat) (part : Option Nat)
    (kind index aux data : Nat) :
    raiseEv s famCode sev part kind index aux data = Raised s famCode sev part kind index aux data :=
  raiseEv_service h famCode sev part kind index aux data

theorem devState_setF_ne (s : State) {f : Fld} (v : Nat) (h : F.GLB_STATUS_STATE.key ≠ f.key) :
    devState (setF s f v) = devState s := getF_setF_ne s v h

theorem ready_setF_ne (s : State) {f : Fld} (v : Nat) (h : F.GLB_STATUS_STATE.key ≠ f.key) :
    ready (setF s f v) = ready s := by
  simp only [ready, setF_power, devState_setF_ne s v h]

@[simp] theorem getF_setB_self (s : State) (f : Fld) (b : Bool) : getF (setB s f b) f = b.toNat % 2 ^ f.width :=
  getF_setF_self s f b.toNat

theorem getF_setB_ne (s : State) {f g : Fld} (b : Bool) (h : g.key ≠ f.key) : getF (setB s f b) g = getF s g :=
  getF_setF_ne s b.toNat h

end Sys2Proof.Machine
end

section
/-! ## Through slices (R12) -/

namespace Sys2Proof.Machine

/-- What a reading of a through slice leaves in its register. -/
def thruRead (s : State) (p mv : Nat) (ok : Bool) : State :=
  setB (setF s (F.PDM_THRU_MV p) (Nat.min mv 4095)) (F.PDM_THRU_OK p) ok

theorem thruMv_key_ne_thruOk (p : Nat) : (F.PDM_THRU_MV p).key ≠ (F.PDM_THRU_OK p).key := by
  simp [F.PDM_THRU_MV, F.PDM_THRU_OK, Fld.shift]

theorem state_key_ne_thruMv (p : Nat) : F.GLB_STATUS_STATE.key ≠ (F.PDM_THRU_MV p).key := by
  simp only [F.GLB_STATUS_STATE, F.PDM_THRU_MV, Fld.shift]; omega

theorem state_key_ne_thruOk (p : Nat) : F.GLB_STATUS_STATE.key ≠ (F.PDM_THRU_OK p).key := by
  simp only [F.GLB_STATUS_STATE, F.PDM_THRU_OK, Fld.shift]; omega

theorem ready_thruRead (s : State) (p mv : Nat) (ok : Bool) : ready (thruRead s p mv ok) = ready s :=
  (ready_setF_ne _ _ (state_key_ne_thruOk p)).trans (ready_setF_ne _ _ (state_key_ne_thruMv p))

theorem getF_thruRead_mv (s : State) (p mv : Nat) (ok : Bool) :
    getF (thruRead s p mv ok) (F.PDM_THRU_MV p) = Nat.min mv 4095 := by
  have hfits : Nat.min mv 4095 < 2 ^ 12 := Nat.lt_succ_of_le (Nat.min_le_right mv 4095)
  rw [thruRead, getF_setB_ne _ ok (thruMv_key_ne_thruOk p), getF_setF_self]
  exact Nat.mod_eq_of_lt hfits

theorem getF_thruRead_ok (s : State) (p mv : Nat) (ok : Bool) :
    getF (thruRead s p mv ok) (F.PDM_THRU_OK p) = ok.toNat := by
  rw [thruRead, getF_setB_self]
  exact Nat.mod_eq_of_lt ok.toNat_lt

theorem onlyFields_thruRead (s : State) (p mv : Nat) (ok : Bool) :
    OnlyFields s (thruRead s p mv ok) [(F.PDM_THRU_MV p).key, (F.PDM_THRU_OK p).key] := by
  refine ⟨rfl, fun f hf => ?_⟩
  simp only [List.mem_cons, List.not_mem_nil, or_false, not_or] at hf
  obtain ⟨hmv, hok⟩ := hf
  exact (getF_setB_ne _ ok hok).trans (getF_setF_ne s _ hmv)

theorem exec_thruSlice {s : State} {p : Nat} (mv : Nat) (hs : ready s = true) (hp : p < 9) :
    exec (.thruSlice p mv) s = .next (thruSlice s p mv) := by
  change onUnit (layerOk p) (live s fun s => thruSlice s p mv) = _
  rw [live_ready _ hs, layerOk, decide_eq_true hp, onUnit_true]

theorem thruSlice_low {s : State} (p : Nat) {mv : Nat} (hs : ready s = true) (h : mv < 950) :
    thruSlice s p mv = Raised (thruRead s p mv false) 0x1001 sevFatal none 4 0 0 p := by
  have hready : ready (thruRead s p mv false) = true := (ready_thruRead s p mv false).trans hs
  have hread : setB (setF s (F.PDM_THRU_MV p) (min mv 4095)) (F.PDM_THRU_OK p) (decide (950 ≤ mv)) =
      thruRead s p mv false := by
    rw [decide_eq_false (Nat.not_le.mpr h)]; rfl
  simp only [thruSlice, hread, hready, h, decide_true, Bool.and_self, if_true, raiseFatal]
  exact raiseEv_eq_Raised (devState_ne_zero_of_ready hready) ..

theorem thruSlice_good (s : State) (p : Nat) {mv : Nat} (h : 950 ≤ mv) :
    thruSlice s p mv = thruRead s p mv true := by
  simp only [thruSlice, Nat.not_lt.mpr h, h, decide_true, decide_false, Bool.false_and, Bool.false_eq_true, if_false]
  rfl

end Sys2Proof.Machine
end

section
/-! ## Couplers (R10, R13) -/

namespace Sys2Proof.Machine

theorem exec_couplerFail {s : State} {chan b : Nat} (down : Bool) (hs : ready s = true) (hc : channelOk chan = true)
    (hb : boundaryOk chan b = true) : exec (.couplerFail chan b down) s = .next (couplerFail s chan b down) := by
  change onUnit (channelOk chan && boundaryOk chan b) (inService s fun s => couplerFail s chan b down) = _
  rw [inService_ready _ hs, hc, hb]
  rfl

theorem exec_couplerFail_column {s : State} {chan b : Nat} (down : Bool) (hs : ready s = true) (hc : chan < 1224)
    (hb : b < 9) : exec (.couplerFail chan b down) s = .next (couplerFail s chan b down) :=
  exec_couplerFail down hs (decide_eq_true (by omega)) (by simpa [boundaryOk, hc] using hb)

theorem exec_couplerFail_trunk {s : State} {chan b : Nat} (down : Bool) (hs : ready s = true) (hlo : 1224 ≤ chan)
    (hhi : chan < 1308) (hb : b < 10) : exec (.couplerFail chan b down) s = .next (couplerFail s chan b down) :=
  exec_couplerFail down hs (decide_eq_true hhi) (by simpa [boundaryOk, Nat.not_lt.mpr hlo] using hb)

/-- A crossing that has used all its spare coils. -/
def coilsSpent (s : State) (chan b : Nat) (down : Bool) : State :=
  { s with spareCoils := sput 0 s.spareCoils (crossing chan b down) 4 }

/-- A column channel found bad. -/
def columnBad (s : State) (chan : Nat) : State :=
  { s with luthier := { s.luthier with colBad := s.luthier.colBad ++ [chan] } }

/-- Neither hides which logical column the channel serves. -/
theorem colOfPcol_failed (s : State) (chan b : Nat) (down : Bool) (c : Nat) :
    colOfPcol (columnBad (coilsSpent s chan b down) chan) c = colOfPcol s c := rfl

/-- The channel of a column in use: the column is fenced and no longer valid. -/
theorem couplerFail_mapped {s : State} {chan col : Nat} (b : Nat) (down : Bool) (hc : chan < 1224)
    (hcol : colOfPcol s chan = some col) :
    couplerFail s chan b down =
      setB (fence (columnBad (coilsSpent s chan b down) chan) 2 col 10) (F.MEM_COLMAP_VALID col) false := by
  rw [← colOfPcol_failed s chan b down] at hcol
  change channelFailed (coilsSpent s chan b down) chan = _
  rw [columnBad] at hcol ⊢
  simp only [channelFailed, hc, if_true, hcol]

theorem couplerFail_unmapped {s : State} {chan : Nat} (b : Nat) (down : Bool) (hc : chan < 1224)
    (hcol : colOfPcol s chan = none) : couplerFail s chan b down = columnBad (coilsSpent s chan b down) chan := by
  rw [← colOfPcol_failed s chan b down] at hcol
  change channelFailed (coilsSpent s chan b down) chan = _
  rw [columnBad] at hcol ⊢
  simp only [channelFailed, hc, if_true, hcol]

theorem couplerFail_trunk (s : State) {chan : Nat} (b : Nat) (down : Bool) (hc : 1224 ≤ chan) :
    couplerFail s chan b down = trunkLeave (coilsSpent s chan b down) (chan - 1224) := by
  change channelFailed (coilsSpent s chan b down) chan = _
  simp only [channelFailed, Nat.not_lt.mpr hc, if_false]

end Sys2Proof.Machine
end

section
/-! ## The direction of the coolant (R15) -/

namespace Sys2Proof.Machine

/-- The coolant runs from the outlet to the inlet, by what the sensors and the flow meter say. -/
def flowReversed (s : State) (inlet outlet : Int) (flow ms : Nat) : Prop :=
  outlet + 16 < inlet ∧ 1000 < ms ∧ 20 * s.therm.flowNom < flow ∧ getF s F.THM_STATUS_OUTLET_LOST = 0

/-- Whether COOLANT_REVERSED has been raised for the condition that holds. -/
def markReversed (s : State) (on : Bool) : State := { s with therm := { s.therm with reversed := on } }

theorem exec_coolantReversed {s : State} (inlet outlet : Int) (flow ms : Nat) (hs : ready s = true) :
    exec (.coolantReversed inlet outlet flow ms) s = .next (coolantReversed s inlet outlet flow ms) := by
  change done (live s fun s => coolantReversed s inlet outlet flow ms) = _
  rw [live_ready _ hs, done_eq]

/-- The test of the model is `flowReversed`. -/
theorem flowReversed_iff (s : State) (inlet outlet : Int) (flow ms : Nat) :
    (decide (outlet + 16 < inlet) && decide (1000 < ms) && decide (20 * s.therm.flowNom < flow) &&
      !getB s F.THM_STATUS_OUTLET_LOST) = true ↔ flowReversed s inlet outlet flow ms := by
  simp [flowReversed, getB, and_assoc]

theorem coolantReversed_begins {s : State} {inlet outlet : Int} {flow ms : Nat} (hs : ready s = true)
    (h : flowReversed s inlet outlet flow ms) (hfirst : s.therm.reversed = false) :
    coolantReversed s inlet outlet flow ms =
      Raised (markReversed s true) 0x2001 sevWarn none 0 0 0 (tempBits inlet + tempBits outlet * 2 ^ 32) := by
  have hdev : devState (markReversed s true) ≠ 0 := devState_ne_zero_of_ready hs
  simp only [coolantReversed, (flowReversed_iff s inlet outlet flow ms).mpr h, hfirst, Bool.not_false, Bool.and_self,
    if_true]
  exact raiseEv_eq_Raised hdev ..

theorem coolantReversed_lasts {s : State} {inlet outlet : Int} {flow ms : Nat}
    (h : flowReversed s inlet outlet flow ms) (hagain : s.therm.reversed = true) :
    coolantReversed s inlet outlet flow ms = s := by
  simp only [coolantReversed, (flowReversed_iff s inlet outlet flow ms).mpr h, hagain, Bool.not_true, Bool.and_false,
    Bool.false_eq_true, if_false]
  rw [← hagain]

theorem coolantReversed_ends {s : State} {inlet outlet : Int} {flow ms : Nat}
    (h : ¬ flowReversed s inlet outlet flow ms) :
    coolantReversed s inlet outlet flow ms = markReversed s false := by
  simp only [coolantReversed, Bool.eq_false_iff.mpr (mt (flowReversed_iff s inlet outlet flow ms).mp h), Bool.false_and,
    Bool.false_eq_true, if_false]
  rfl

end Sys2Proof.Machine
end

section
/-! ## The bus converter (R17) -/

namespace Sys2Proof.Machine

theorem exec_inputVoltageStop (s : State) (vin : Nat) : exec (.inputVoltageStop vin) s = .next (voltageStop s vin) := rfl

theorem exec_inputVoltageRestart (s : State) (vin : Nat) :
    exec (.inputVoltageRestart vin) s = .next (voltageRestart s vin) := rfl

theorem startThreshold_le : inputThreshold 0 ≤ 2600 := by simp only [inputThreshold]; omega

theorem underThreshold_bounds : 2350 ≤ inputThreshold 1 ∧ inputThreshold 1 ≤ 2450 := by
  simp only [inputThreshold]; omega

theorem overThreshold_bounds : 4150 ≤ inputThreshold 2 ∧ inputThreshold 2 ≤ 4300 := by
  simp only [inputThreshold]; omega

theorem restartThreshold_ge : 4000 ≤ inputThreshold 3 := by simp only [inputThreshold]; omega

theorem vinStops_eq_true {vin : Nat} (h : vin < 2350 ∨ 4300 < vin) : vinStops vin = true := by
  have := underThreshold_bounds
  have := overThreshold_bounds
  simp only [vinStops, Bool.or_eq_true, decide_eq_true_eq]
  omega

theorem vinStops_eq_false {vin : Nat} (hlo : 2450 ≤ vin) (hhi : vin ≤ 4150) : vinStops vin = false := by
  have := underThreshold_bounds
  have := overThreshold_bounds
  simp only [vinStops, Bool.or_eq_false_iff, decide_eq_false_iff_not]
  omega

/-- Outside the gap of the over-voltage threshold, an input that stops the converter is above it as it is above the
gap. -/
theorem overThreshold_lt_iff {vin : Nat} (h : vin < 2350 ∨ 4300 < vin) : inputThreshold 2 < vin ↔ 4300 < vin := by
  have := overThreshold_bounds
  omega

theorem vinStarts_eq_true (s : State) {vin : Nat} (hlo : 2600 ≤ vin) (hhi : vin ≤ 4000) : vinStarts s vin = true := by
  have hstart := startThreshold_le
  have hover := overThreshold_bounds
  have hrestart := restartThreshold_ge
  simp only [vinStarts, Bool.and_eq_true, decide_eq_true_eq]
  cases s.pins.vinHigh with
  | true => exact ⟨Nat.le_trans hstart hlo, Nat.le_trans hhi hrestart⟩
  | false => exact ⟨Nat.le_trans hstart hlo, Nat.le_trans hhi (Nat.le_trans (by decide) hover.1)⟩

/-- Cutting a flash command short changes the flash and what the free values draw on. -/
theorem cutFlash_frame (s : State) :
    cutFlash s = { s with flashOp := none, freeCtr := (cutFlash s).freeCtr, flash := (cutFlash s).flash } := by
  unfold cutFlash
  split
  · next h => rw [← h]
  · rfl

theorem removePower_pending (s : State) (p : Power) : (removePower s p).pending = s.pending := by
  change (cutFlash s).pending = _; rw [cutFlash_frame]

theorem removePower_hostMem (s : State) (p : Power) : (removePower s p).hostMem = s.hostMem := by
  change (cutFlash s).hostMem = _; rw [cutFlash_frame]

theorem removePower_pwrEn (s : State) (p : Power) : (removePower s p).pins.pwrEn = s.pins.pwrEn := by
  change (cutFlash s).pins.pwrEn = _; rw [cutFlash_frame]

/-- The block after its converter stopped, before the input pin is noted. -/
def unpowered (s : State) : State := if s.power = .on ∨ s.power = .rising then removePower s .off else s

/-- What a stop of the converter takes and what it leaves. -/
theorem unpowered_spec (s : State) :
    (unpowered s).power ≠ .on ∧ (unpowered s).power ≠ .rising ∧ (unpowered s).pins.pwrEn = s.pins.pwrEn ∧
    (unpowered s).hostMem = s.hostMem ∧ (unpowered s).pending = s.pending ∧
    (s.power = .on → (unpowered s).fields = [] ∧ (unpowered s).cores = [] ∧ (unpowered s).mem = []) := by
  unfold unpowered
  split
  · exact ⟨nofun, nofun, removePower_pwrEn s .off, removePower_hostMem s .off, removePower_pending s .off,
      fun _ => ⟨rfl, rfl, rfl⟩⟩
  · next h =>
    obtain ⟨hon, hrising⟩ := not_or.mp h
    exact ⟨hon, hrising, rfl, rfl, rfl, fun h => absurd h hon⟩

theorem voltageStop_stops {s : State} {vin : Nat} (hok : s.pins.vinOk = true) (h : vin < 2350 ∨ 4300 < vin) :
    voltageStop s vin =
      { unpowered s with pins := { (unpowered s).pins with vinOk := false, vinHigh := decide (4300 < vin) } } := by
  have hhigh : decide (inputThreshold 2 < vin) = decide (4300 < vin) := decide_eq_decide.mpr (overThreshold_lt_iff h)
  have hoff : (if s.power == .on || s.power == .rising then removePower s .off else s) = unpowered s := by
    simp [unpowered]
  simp only [voltageStop, hok, vinStops_eq_true h, Bool.and_self, if_true, hhigh, hoff]

theorem voltageStop_keeps (s : State) {vin : Nat} (hlo : 2450 ≤ vin) (hhi : vin ≤ 4150) : voltageStop s vin = s := by
  simp [voltageStop, vinStops_eq_false hlo hhi]

theorem voltageRestart_starts {s : State} {vin : Nat} (hok : s.pins.vinOk = false) (hen : s.pins.pwrEn = true)
    (hoff : s.power = .off) (hlo : 2600 ≤ vin) (hhi : vin ≤ 4000) :
    voltageRestart s vin = { s with power := .rising, pins := { s.pins with vinOk := true, vinHigh := false } } := by
  simp [voltageRestart, startConverter, hok, hen, hoff, vinStarts_eq_true s hlo hhi]

end Sys2Proof.Machine
end

section
/-! ## The statement of the stack and the module -/

namespace Sys2Proof.Machine

/-- Settles O24: the thresholds are sharp where the manual gives one number, and the input thresholds lie within their
bounds. -/
theorem stackAndInput : Obligations.StackAndInput := by
  refine ⟨?thru, ?coupler, ?coolant, ?stop, ?restart⟩
  case thru =>
    intro s p mv hs hp
    refine ⟨fun h => ?_, fun h => ?_, fun ok =>
      ⟨getF_thruRead_mv s p mv ok, getF_thruRead_ok s p mv ok, onlyFields_thruRead s p mv ok⟩⟩
    · rw [exec_thruSlice mv hs hp, thruSlice_low p hs h]; rfl
    · rw [exec_thruSlice mv hs hp, thruSlice_good s p h]; rfl
  case coupler =>
    intro s chan b down hs
    refine ⟨fun hc hb => ⟨fun col hcol => ?_, fun hcol => ?_⟩, fun hlo hhi hb => ?_⟩
    · rw [exec_couplerFail_column down hs hc hb, couplerFail_mapped b down hc hcol]; rfl
    · rw [exec_couplerFail_column down hs hc hb, couplerFail_unmapped b down hc hcol]; rfl
    · rw [exec_couplerFail_trunk down hs hlo hhi hb, couplerFail_trunk s b down hlo]; rfl
  case coolant =>
    intro s inlet outlet flow ms hs
    refine ⟨fun hcond hfirst => ?_, fun hcond hagain => ?_, fun hcond => ?_⟩
    · rw [exec_coolantReversed inlet outlet flow ms hs, coolantReversed_begins hs hcond hfirst]; rfl
    · rw [exec_coolantReversed inlet outlet flow ms hs, coolantReversed_lasts hcond hagain]
    · rw [exec_coolantReversed inlet outlet flow ms hs, coolantReversed_ends hcond]; rfl
  case stop =>
    intro s vin hok
    refine ⟨fun h => ?_, fun hlo hhi => ?_⟩
    · have hstop : exec (.inputVoltageStop vin) s = _ :=
        (exec_inputVoltageStop s vin).trans (congrArg _ (voltageStop_stops hok h))
      exact ⟨hstop, unpowered_spec s⟩
    · rw [exec_inputVoltageStop, voltageStop_keeps s hlo hhi]
  case restart =>
    intro s vin hok hen hoff hlo hhi
    rw [exec_inputVoltageRestart, voltageRestart_starts hok hen hoff hlo hhi]

end Sys2Proof.Machine
end
section
/-! ## Arrival of a flit (R226, R316) -/

namespace Sys2Proof.Machine

/-- In service every happening at one of the 48 link ports acts. -/
theorem onUnit_linkOk_live {s : State} {l : Nat} (f : State → State) (hs : ready s = true) (hl : l < 48) :
    onUnit (linkOk l) (live s f) = .next (f s) := by
  rw [live_ready f hs, linkOk, decide_eq_true hl, onUnit_true]

/-- What the arrival of a flit does whatever it carries: the link wakes and its codewords count. -/
def flitArrived (s : State) (l corr : Nat) (bad : Bool) : State :=
  addF (addF (wakeLink s l) (F.LNK_FEC_CORR l) corr) (F.LNK_FEC_UNCORR l) bad.toNat

section
variable {s : State} {l : Nat} {f : FlitWord} {bad : Bool} (corr : Nat) (good : State → State)

theorem arriveFlit_deaf (h : linkHears s l = false) : arriveFlit s l f corr bad good = s := by
  simp [arriveFlit, h]

theorem arriveFlit_lost (h : linkHears s l = true) (hlost : bad = true ∨ flitOk f = false) :
    arriveFlit s l f corr bad good = discardFlit (flitArrived s l corr bad) l := by
  have hlost' : (bad || !flitOk f) = true := by simpa using hlost
  simp only [arriveFlit, h, hlost', if_true]
  rfl

theorem arriveFlit_heard (h : linkHears s l = true) (hgood : ¬ (bad = true ∨ flitOk f = false)) :
    arriveFlit s l f corr bad good = good (flitArrived s l corr bad) := by
  have hgood' : (bad || !flitOk f) = false := by simpa using hgood
  simp only [arriveFlit, h, hgood', if_true, Bool.false_eq_true, if_false]
  rfl

end

theorem inOrder_missing {s : State} {l : Nat} (f : State → State) (h : (getLink s l).nakSent = true) :
    inOrder s l f = s := if_pos h

theorem inOrder_complete {s : State} {l : Nat} (f : State → State) (h : ¬ (getLink s l).nakSent = true) :
    inOrder s l f = f s := if_neg h

/-- A flit that acts only in order and by its kind, where it may not. -/
theorem inOrder_of_kind {s : State} {l : Nat} {p : Prop} [Decidable p] (f : State → State)
    (h : ¬ p ∨ (getLink s l).nakSent = true) : (if p then inOrder s l f else s) = s := by
  split
  · next hp => exact inOrder_missing f (h.resolve_left (not_not_intro hp))
  · rfl

theorem discardFlit_again {s : State} {l : Nat} (h : (getLink s l).nakSent = true) : discardFlit s l = s := if_pos h

theorem discardFlit_first {s : State} {l : Nat} (h : (getLink s l).nakSent = false) :
    discardFlit s l = sendFlit (setLink s l { getLink s l with nakSent := true }) l
      (mkFlit 2 0 0 0 (some (((getLink s l).rxSeq + 4095) % 4096)) 0 0 0) := by
  simp [discardFlit, h]

section
variable {s : State} {l : Nat} {f : FlitWord} {corr : Nat} {bad : Bool} (hs : ready s = true) (hl : l < 48)
include hs hl

theorem exec_dataFlit : exec (.dataFlit l f corr bad) s = .next (dataFlit s l f corr bad) :=
  onUnit_linkOk_live _ hs hl

theorem exec_nak : exec (.nak l { flit := f, corr := corr, fecBad := bad }) s = .next (nak s l f corr bad) :=
  onUnit_linkOk_live _ hs hl

theorem exec_idleFlit : exec (.idleFlit l { flit := f, corr := corr, fecBad := bad }) s = .next (idleFlit s l f corr bad) :=
  onUnit_linkOk_live _ hs hl

end

section
variable {s : State} {l : Nat} {f : FlitWord} (corr : Nat) {bad : Bool} (h : linkHears s l = true)
  (hgood : ¬ (bad = true ∨ flitOk f = false))
include h hgood

theorem dataFlit_accepted (hkind : flKind f = 0) (hseq : flSeq f = (getLink (flitArrived s l corr bad) l).rxSeq) :
    dataFlit s l f corr bad = acceptFlit (flitArrived s l corr bad) l f := by
  simp [dataFlit, arriveFlit_heard corr _ h hgood, hkind, hseq]

theorem dataFlit_unexpected (hne : flKind f ≠ 0 ∨ flSeq f ≠ (getLink (flitArrived s l corr bad) l).rxSeq) :
    dataFlit s l f corr bad = discardFlit (flitArrived s l corr bad) l := by
  have hne' : (flKind f == 0 && flSeq f == (getLink (flitArrived s l corr bad) l).rxSeq) = false := by
    simp only [Bool.and_eq_false_iff, beq_eq_false_iff_ne]
    exact hne
  simp only [dataFlit, arriveFlit_heard corr _ h hgood, hne', Bool.false_eq_true, if_false]

theorem nak_acts (hkind : flKind f = 2) (hall : ¬ (getLink (flitArrived s l corr bad) l).nakSent = true) :
    nak s l f corr bad = resendAfter (flitArrived s l corr bad) l f := by
  rw [nak, arriveFlit_heard corr _ h hgood, if_pos hkind, inOrder_complete _ hall]

theorem nak_discarded (hno : flKind f ≠ 2 ∨ (getLink (flitArrived s l corr bad) l).nakSent = true) :
    nak s l f corr bad = flitArrived s l corr bad := by
  rw [nak, arriveFlit_heard corr _ h hgood]
  exact inOrder_of_kind _ hno

theorem idleFlit_acts (hkind : flKind f = 1) (hall : ¬ (getLink (flitArrived s l corr bad) l).nakSent = true) :
    idleFlit s l f corr bad = flushLink (takeHeader (flitArrived s l corr bad) l f) l := by
  rw [idleFlit, arriveFlit_heard corr _ h hgood, if_pos hkind, inOrder_complete _ hall]

theorem idleFlit_discarded (hno : flKind f ≠ 1 ∨ (getLink (flitArrived s l corr bad) l).nakSent = true) :
    idleFlit s l f corr bad = flitArrived s l corr bad := by
  rw [idleFlit, arriveFlit_heard corr _ h hgood]
  exact inOrder_of_kind _ hno

end

end Sys2Proof.Machine
end

section
/-! ## Replays, trainings and stalled channels (R227, R228, R234) -/

namespace Sys2Proof.Machine

section
variable {s : State} {l : Nat} (hs : ready s = true) (hl : l < 48)
include hs hl

theorem exec_replayLimit : exec (.replayLimit l) s = .next (replayLimit s l) := onUnit_linkOk_live _ hs hl

theorem exec_linkDegrade (lanes : BitVec 4) : exec (.linkDegrade l lanes) s = .next (linkDegrade s l lanes) :=
  onUnit_linkOk_live _ hs hl

theorem exec_linkRetrainDone (lanes : BitVec 4) (sup : Bool) :
    exec (.linkRetrainDone l { lanes := lanes, supported := sup }) s = .next (linkRetrainDone s l lanes sup) :=
  onUnit_linkOk_live _ hs hl

theorem exec_linkWatchdog {vc : Nat} (hvc : vc < 4) : exec (.linkWatchdog l vc) s = .next (linkWatchdog s l vc) := by
  have hvc' : vcOk vc = true := decide_eq_true hvc
  change onUnit (linkOk l && vcOk vc) (live s fun s => linkWatchdog s l vc) = _
  rw [hvc', Bool.and_true]
  exact onUnit_linkOk_live _ hs hl

end

theorem replayLimit_many {s : State} {l : Nat} (huse : inUse s l = true) (h : ∃ r ∈ (getLink s l).replay, 8 ≤ r.resends) :
    replayLimit s l = beginRetrain s l (usedLanes s l) (getF s (F.LNK_STATUS_WIDTH l)) := by
  have h' : (getLink s l).replay.any (fun r => decide (8 ≤ r.resends)) = true := by simpa using h
  simp only [replayLimit, huse, h', Bool.and_self, if_true]

theorem replayLimit_few {s : State} {l : Nat}
    (h : inUse s l = false ∨ ¬ ∃ r ∈ (getLink s l).replay, 8 ≤ r.resends) : replayLimit s l = s := by
  have h' : (inUse s l && (getLink s l).replay.any (fun r => decide (8 ≤ r.resends))) = false := by
    rw [Bool.and_eq_false_iff]
    simpa using h
  simp only [replayLimit, h', Bool.false_eq_true, if_false]

theorem linkDegrade_lost {s : State} {l : Nat} {lanes : BitVec 4} (huse : inUse s l = true)
    (h : usedLanes s l &&& ~~~lanes ≠ 0) :
    linkDegrade s l lanes = beginRetrain s l lanes (getF s (F.LNK_STATUS_WIDTH l)) := by
  simp only [linkDegrade, huse, bne_iff_ne.mpr h, Bool.and_self, if_true]

theorem linkDegrade_kept {s : State} {l : Nat} {lanes : BitVec 4}
    (h : inUse s l = false ∨ usedLanes s l &&& ~~~lanes = 0) : linkDegrade s l lanes = s := by
  have h' : (inUse s l && usedLanes s l &&& ~~~lanes != 0) = false := by
    simpa only [Bool.and_eq_false_iff, bne_eq_false_iff_eq] using h
  simp only [linkDegrade, h', Bool.false_eq_true, if_false]

section
variable {s : State} {l since : Nat} (lanes : BitVec 4) (sup : Bool)

theorem linkRetrainDone_retraining (h : (getLink s l).retraining = some since) :
    linkRetrainDone s l lanes sup = retrainEnd s l lanes sup since := by
  simp only [linkRetrainDone, h]

theorem linkRetrainDone_held (h : (getLink s l).retraining = none) (hheld : (getLink s l).heldSince = some since) :
    linkRetrainDone s l lanes sup =
      retrainEnd (setLink s l { getLink s l with lanes := 0xF, cap := 0 }) l lanes sup since := by
  simp only [linkRetrainDone, h, hheld]

theorem linkRetrainDone_idle (h : (getLink s l).retraining = none) (hheld : (getLink s l).heldSince = none) :
    linkRetrainDone s l lanes sup = s := by
  simp only [linkRetrainDone, h, hheld]

end

/-- A virtual channel of an ACTIVE link holds a flit and has made no progress for 10 ms. -/
def channelStuck (s : State) (l vc : Nat) : Prop :=
  (getLink s l).queues.getD vc [] ≠ [] ∧ linkState s l = 3 ∧ (getLink s l).progress.getD vc 0 + 10000000 ≤ s.time

/-- The test of the model is `channelStuck`. -/
theorem channelStuck_iff (s : State) (l vc : Nat) :
    (!((getLink s l).queues.getD vc []).isEmpty && linkState s l == 3 &&
      decide ((getLink s l).progress.getD vc 0 + 10000000 ≤ s.time)) = true ↔ channelStuck s l vc := by
  simp only [channelStuck, Bool.and_eq_true, Bool.not_eq_true', List.isEmpty_eq_false_iff, beq_iff_eq,
    decide_eq_true_eq, and_assoc]

theorem state_key_ne_watchdog (l : Nat) : F.GLB_STATUS_STATE.key ≠ (F.LNK_STATUS_WATCHDOG l).key := by
  simp only [F.GLB_STATUS_STATE, F.LNK_STATUS_WATCHDOG, Fld.shift]; omega

theorem linkWatchdog_stuck {s : State} {l vc : Nat} (hs : ready s = true) (h : channelStuck s l vc) :
    linkWatchdog s l vc =
      Raised (setB (setLink s l { getLink s l with progress := (getLink s l).progress.set vc s.time })
        (F.LNK_STATUS_WATCHDOG l) true) 0x4003 sevError none 0x22 l 0 vc := by
  have hdev (k : Link) : devState (setB (setLink s l k) (F.LNK_STATUS_WATCHDOG l) true) ≠ 0 := by
    rw [setB, devState_setF_ne _ _ (state_key_ne_watchdog l)]
    exact devState_ne_zero_of_ready hs
  simp only [linkWatchdog, (channelStuck_iff s l vc).mpr h, if_true]
  exact raiseEv_eq_Raised (hdev _) ..

theorem linkWatchdog_moves {s : State} {l vc : Nat} (h : ¬ channelStuck s l vc) : linkWatchdog s l vc = s := by
  simp only [linkWatchdog, Bool.eq_false_iff.mpr (mt (channelStuck_iff s l vc).mp h), Bool.false_eq_true, if_false]

/-- The lowest good lane, alone. -/
theorem lowestLane_eq (good : BitVec 4) :
    ([0, 1, 2, 3].find? (fun i => good.getLsbD i)).map (fun i => (2 ^ i, 2)) =
      if good.getLsbD 0 then some (1, 2) else if good.getLsbD 1 then some (2, 2)
      else if good.getLsbD 2 then some (4, 2) else if good.getLsbD 3 then some (8, 2) else none := by
  revert good
  decide

end Sys2Proof.Machine
end

section
/-! ## The end of a training (R224, R228, R293, R296) -/

namespace Sys2Proof.Machine

theorem getF_addF_ne (s : State) {f g : Fld} (n : Nat) (h : g.key ≠ f.key) : getF (addF s f n) g = getF s g :=
  getF_setF_ne s _ h

theorem getF_incF_ne (s : State) {f g : Fld} (h : g.key ≠ f.key) : getF (incF s f) g = getF s g := getF_addF_ne s 1 h

/-- A write of another field leaves the state of a link. -/
theorem linkState_setF_ne (s : State) {l : Nat} {f : Fld} (v : Nat) (h : (F.LNK_STATUS_STATE l).key ≠ f.key) :
    linkState (setF s f v) l = linkState s l := getF_setF_ne s v h

theorem linkState_addF_ne (s : State) {l : Nat} {f : Fld} (n : Nat) (h : (F.LNK_STATUS_STATE l).key ≠ f.key) :
    linkState (addF s f n) l = linkState s l := getF_addF_ne s n h

/-- LUT_NEWDEF lies below the link registers. -/
theorem newdef_key_le_linkState (l : Nat) : (F.LUT_NEWDEF 256).key ≤ (F.LNK_STATUS_STATE l).key := by
  simp only [F.LNK_STATUS_STATE, F.LUT_NEWDEF, Fld.shift]; omega

theorem newdef_key_le_linkWidth (l : Nat) : (F.LUT_NEWDEF 256).key ≤ (F.LNK_STATUS_WIDTH l).key := by
  simp only [F.LNK_STATUS_WIDTH, F.LUT_NEWDEF, Fld.shift]; omega

/-- A defect report changes LUT_NEWDEF and its count, and nothing beyond them. -/
theorem getF_reportUnits (s : State) (l : List UnitRef) {g : Fld} (hg : (F.LUT_NEWDEF 256).key ≤ g.key) :
    getF (reportUnits s l) g = getF s g := by
  simp only [F.LUT_NEWDEF, Fld.shift] at hg
  have hcnt : g.key ≠ F.LUT_NEWDEF_CNT.key := by simp only [F.LUT_NEWDEF_CNT]; omega
  refine forEach_keeps (fun t => getF t g = getF s g) _ (fun t u ht => ?_) _ _ rfl
  rw [← ht, addDefect, getF_incF_ne _ hcnt]
  split
  · next hn =>
    refine getF_setF_ne t _ ?_
    simp only [F.LUT_NEWDEF, Fld.shift]
    omega
  · rfl

theorem sameOutsideFields_reportUnits (s : State) (l : List UnitRef) : SameOutsideFields s (reportUnits s l) := by
  refine forEach_keeps (SameOutsideFields s) _ (fun t u ht => ?_) _ _ rfl
  unfold SameOutsideFields at ht ⊢
  rw [ht, addDefect]
  split <;> rfl

theorem getF_reportLanes (s : State) (l : Nat) (lanes : BitVec 4) {g : Fld} (hg : (F.LUT_NEWDEF 256).key ≤ g.key) :
    getF (reportLanes s l lanes) g = getF s g := by
  unfold reportLanes
  split
  · exact getF_reportUnits s _ hg
  · rfl

theorem getLink_reportLanes (s : State) (l : Nat) (lanes : BitVec 4) (i : Nat) :
    getLink (reportLanes s l lanes) i = getLink s i := by
  unfold reportLanes
  split
  · rw [sameOutsideFields_reportUnits s _]; rfl
  · rfl

theorem reportLanes_eq (s : State) (l : Nat) (lanes : BitVec 4) :
    reportLanes s l lanes = if devState s = 0 ∧ linkState s l = 1 then reportUnits s (deadLanes l lanes) else s := by
  simp only [reportLanes, Bool.and_eq_true, beq_iff_eq]

/-- The registers of a port over lanes that trained: its width, its training, and the count of degradations. -/
def portTrained (s : State) (l ok used width since : Nat) : State :=
  trainRegs (setF (if getF s (F.LNK_STATUS_WIDTH l) < width then incF s (F.LNK_DEGRADE_CNT l) else s)
    (F.LNK_STATUS_WIDTH l) width) l ok used (trainResult width) since

/-- A training leaves STATE to what follows it. -/
theorem linkState_portTrained (s : State) (l ok used width since : Nat) :
    linkState (portTrained s l ok used width since) l = linkState s l := by
  simp only [portTrained, trainRegs]
  rw [linkState_setF_ne _ _ (by simp [F.LNK_STATUS_STATE, F.LNK_TRAIN_DURATION, Fld.shift]),
    linkState_setF_ne _ _ (by simp [F.LNK_STATUS_STATE, F.LNK_TRAIN_RESULT, Fld.shift]),
    linkState_addF_ne _ _ (by simp [F.LNK_STATUS_STATE, F.LNK_TRAIN_ATTEMPTS, Fld.shift]),
    linkState_setF_ne _ _ (by simp [F.LNK_STATUS_STATE, F.LNK_TRAIN_LANE_USED, Fld.shift]),
    linkState_setF_ne _ _ (by simp [F.LNK_STATUS_STATE, F.LNK_TRAIN_LANE_OK, Fld.shift]),
    linkState_setF_ne _ _ (by simp [F.LNK_STATUS_STATE, F.LNK_STATUS_WIDTH, Fld.shift])]
  split
  · exact linkState_addF_ne s 1 (by simp [F.LNK_STATUS_STATE, F.LNK_DEGRADE_CNT, Fld.shift])
  · rfl

theorem portTrained_links (s : State) (l ok used width since : Nat) :
    (portTrained s l ok used width since).links = s.links := by
  simp only [portTrained, trainRegs, setF_links, addF_links]
  split <;> rfl

theorem portTrained_time (s : State) (l ok used width since : Nat) :
    (portTrained s l ok used width since).time = s.time := by
  simp only [portTrained, trainRegs, setF_time, addF_time]
  split <;> rfl

theorem wakeLink_awake {s : State} {l : Nat} (h : linkState s l ≠ 4) : wakeLink s l = s := if_neg h

theorem time_raiseEv (s : State) (famCode sev : Nat) (part : Option Nat) (kind index aux data : Nat) :
    (raiseEv s famCode sev part kind index aux data).time = s.time := by
  rw [raiseEv_frame]

section
variable {s : State} {l : Nat} {lanes : BitVec 4} (since : Nat)

theorem retrainEnd_unsupported : retrainEnd s l lanes false since = trainFailed s l (lanes &&& ~~~(namedLanes s l)) 6 since :=
  rfl

theorem retrainEnd_noLanes (h : pickLanes (lanes &&& ~~~(namedLanes s l) &&& (getLink s l).lanes) (getLink s l).cap = none) :
    retrainEnd s l lanes true since = trainFailed (reportLanes s l lanes) l (lanes &&& ~~~(namedLanes s l)) 3 since := by
  simp only [retrainEnd, h, Bool.not_true, Bool.false_eq_true, if_false]

variable {used width : Nat}
  (h : pickLanes (lanes &&& ~~~(namedLanes s l) &&& (getLink s l).lanes) (getLink s l).cap = some (used, width))
include h

/-- At stage 7 the link goes on to qualify. -/
theorem retrainEnd_stage7 (hst : linkState s l = 1) :
    retrainEnd s l lanes true since =
      setF (setLink (portTrained (reportLanes s l lanes) l (lanes &&& ~~~(namedLanes s l)).toNat used width since) l
        { getLink s l with retraining := none }) (F.LNK_STATUS_STATE l) 2 := by
  have hst' : linkState (portTrained (reportLanes s l lanes) l (lanes &&& ~~~(namedLanes s l)).toNat used width since) l
      = 1 := by
    rw [linkState_portTrained, linkState, getF_reportLanes s l lanes (newdef_key_le_linkState l)]
    exact hst
  simp only [retrainEnd, h, Bool.not_true, Bool.false_eq_true, if_false]
  rw [← portTrained, if_pos hst', getLink, portTrained_links, ← getLink, getLink_reportLanes]
  rfl

/-- A link that was ACTIVE is so again, and what the peer has not acknowledged goes out once more. -/
theorem retrainEnd_active (hst : linkState s l = 3) :
    retrainEnd s l lanes true since =
      flushLink (resendAll (setLink
        (raiseEv (portTrained s l (lanes &&& ~~~(namedLanes s l)).toNat used width since) 0x4001 sevWarn none 0x22 l 0 width) l
        { getLink s l with retraining := none, heldSince := none, lastData := s.time,
                           replay := (getLink s l).replay.map (fun r => { r with resends := 0 }) }) l) l := by
  have hrep : reportLanes s l lanes = s := by simp [reportLanes, hst]
  have hst' : linkState (portTrained s l (lanes &&& ~~~(namedLanes s l)).toNat used width since) l = 3 := by
    rw [linkState_portTrained, hst]
  simp only [retrainEnd, h, Bool.not_true, Bool.false_eq_true, if_false, hrep]
  rw [← portTrained, if_neg (by omega), wakeLink_awake (by omega), raiseLnk, time_raiseEv, portTrained_time]

end

end Sys2Proof.Machine
end

section
/-! ## The switch and lost packets (R231, R233, R246) -/

namespace Sys2Proof.Machine

theorem exec_linkSwitchPacket {s : State} (n : Nat) (hs : ready s = true) :
    exec (.linkSwitchPacket n) s = .next (switchPacket s n) := by
  change done (live s fun s => switchPacket s n) = _
  rw [live_ready _ hs, done_eq]

theorem switchPacket_some {s : State} {n : Nat} {x : SwPkt} (h : s.switch[n]? = some x) :
    switchPacket s n = returnCredit (routeSwitch { s with switch := s.switch.eraseIdx n } x) x := by
  simp only [switchPacket, h]

theorem switchPacket_none {s : State} {n : Nat} (h : s.switch[n]? = none) : switchPacket s n = s := by
  simp only [switchPacket, h]

theorem exec_unreachableNotice {s : State} (th : TagHeader) (hs : ready s = true) :
    exec (.unreachableNotice th) s = .next (if srcDev { th := th, data := [] } = ownDev s
      then packetLost s { th := th, data := [] } else s) :=
  congrArg Host.Outcome.next (inService_ready _ hs)

section
variable {s : State} {x : SwPkt}

theorem routeSwitch_own_open (h : dstDev x.pkt = ownDev s) (ht : trunkOpen s = true) :
    routeSwitch s x = deliverLocal s x.pkt := by
  simp only [routeSwitch, h, ht, if_true]

theorem routeSwitch_own_shut (h : dstDev x.pkt = ownDev s) (ht : trunkOpen s = false) :
    routeSwitch s x = unreachable s x.pkt := by
  simp only [routeSwitch, h, ht, if_true, Bool.false_eq_true, if_false]

theorem routeSwitch_stale (h : dstDev x.pkt ≠ ownDev s) (he : epochTable s x.epoch = none) :
    routeSwitch s x = unreachable (incF s F.LNK_STALE_CNT) x.pkt := by
  simp only [routeSwitch, h, he, if_false]

/-- The candidates of a destination woken. -/
def candidatesWoken (s : State) (tbl d : Nat) : State :=
  forEach ((candidates s tbl d).filter (fun l => decide (l < 48))) s wakeLink

variable {tbl : Nat} (h : dstDev x.pkt ≠ ownDev s) (he : epochTable s x.epoch = some tbl)
include h he

theorem routeSwitch_linked {l : Nat}
    (hl : pickLink (candidatesWoken s tbl (dstDev x.pkt)) x.pkt x.vc
      (usable (candidatesWoken s tbl (dstDev x.pkt)) tbl (dstDev x.pkt)) = some l) :
    routeSwitch s x = enqueueLink (candidatesWoken s tbl (dstDev x.pkt)) l x.vc
      { pkt := x.pkt, epoch := x.epoch, fwd := x.fwd } := by
  simp only [candidatesWoken] at hl ⊢
  simp only [routeSwitch, h, he, hl, if_false]

theorem routeSwitch_unlinked
    (hl : pickLink (candidatesWoken s tbl (dstDev x.pkt)) x.pkt x.vc
      (usable (candidatesWoken s tbl (dstDev x.pkt)) tbl (dstDev x.pkt)) = none) :
    routeSwitch s x = unreachable (candidatesWoken s tbl (dstDev x.pkt)) x.pkt := by
  simp only [candidatesWoken] at hl ⊢
  simp only [routeSwitch, h, he, hl, if_false]

end

section
variable {s : State} {p : Packet}

theorem unreachable_notice (h : isNotice p = true) : unreachable s p = incF s F.LNK_UNREACH_CNT := by
  simp only [unreachable, h, if_true]

theorem unreachable_own (h : isNotice p = false) (hown : srcDev p = ownDev (incF s F.LNK_UNREACH_CNT)) :
    unreachable s p = packetLost (incF s F.LNK_UNREACH_CNT) p := by
  simp only [unreachable, h, hown, if_true, Bool.false_eq_true, if_false]

theorem unreachable_told (h : isNotice p = false) (hown : srcDev p ≠ ownDev (incF s F.LNK_UNREACH_CNT))
    (hr : reachable (incF s F.LNK_UNREACH_CNT) (srcDev p) = true) (hio : s.luthier.ioRst = false) :
    unreachable s p = switchPut (incF s F.LNK_UNREACH_CNT) (noticeOf (incF s F.LNK_UNREACH_CNT) p) 0 := by
  simp only [unreachable, h, hown, hr, incF_luthier, hio, Bool.not_false, Bool.and_self, if_true, Bool.false_eq_true,
    if_false]

theorem unreachable_untold (h : isNotice p = false) (hown : srcDev p ≠ ownDev (incF s F.LNK_UNREACH_CNT))
    (hr : reachable (incF s F.LNK_UNREACH_CNT) (srcDev p) = false ∨ s.luthier.ioRst = true) :
    unreachable s p = incF s F.LNK_UNREACH_CNT := by
  have hr' : (reachable (incF s F.LNK_UNREACH_CNT) (srcDev p) && !(incF s F.LNK_UNREACH_CNT).luthier.ioRst) = false := by
    rw [Bool.and_eq_false_iff]
    simpa using hr
  simp only [unreachable, h, hown, hr', Bool.false_eq_true, if_false]

theorem packetLost_move (h : thClass p = 4) :
    packetLost s p = reportOnce s (thQueue p) (thTag p) (thSeq p) (codeResult stPeerLost subUnreachable) := if_pos h

theorem packetLost_collective {v g : Nat} (h : thClass p = 5) (hv : slook s.colTags (colTagOf s p) = some v)
    (hg : groupOfKey s v = some g) : packetLost s p = losePeer s g (dstDev p) := by
  simp [packetLost, h, hv, hg]

theorem packetLost_other (h4 : thClass p ≠ 4) (h5 : thClass p ≠ 5) : packetLost s p = s := by
  simp only [packetLost, h4, h5, if_false]

end

end Sys2Proof.Machine
end

section
/-! ## The statement of the links -/

namespace Sys2Proof.Machine

/-- Settles O42: a good flit acts by its kind and number, a training by the lanes that it leaves, and a packet by its
destination and its epoch's table. -/
theorem linkFlitsAndReplay : Obligations.LinkFlitsAndReplay := by
  refine ⟨?arrival, ?discard, ?training, ?trained, ?lanes, ?switch, ?route, ?lost⟩
  case arrival =>
    intro s l f corr bad hs hl
    simp only [exec_dataFlit hs hl, exec_nak hs hl, exec_idleFlit hs hl]
    refine ⟨fun h => ?_, fun h => ⟨fun hlost => ?_, fun hgood => ⟨?_, ?_, ?_, ?_, ?_, ?_⟩⟩⟩
    · exact ⟨congrArg _ (arriveFlit_deaf corr _ h), congrArg _ (arriveFlit_deaf corr _ h),
        congrArg _ (arriveFlit_deaf corr _ h)⟩
    · exact ⟨congrArg _ (arriveFlit_lost corr _ h hlost), congrArg _ (arriveFlit_lost corr _ h hlost),
        congrArg _ (arriveFlit_lost corr _ h hlost)⟩
    · exact fun hkind hseq => congrArg _ (dataFlit_accepted corr h hgood hkind hseq)
    · exact fun hne => congrArg _ (dataFlit_unexpected corr h hgood hne)
    · exact fun hkind hall => congrArg _ (nak_acts corr h hgood hkind hall)
    · exact fun hno => congrArg _ (nak_discarded corr h hgood hno)
    · exact fun hkind hall => congrArg _ (idleFlit_acts corr h hgood hkind hall)
    · exact fun hno => congrArg _ (idleFlit_discarded corr h hgood hno)
  case discard => exact fun s l f => ⟨discardFlit_again, discardFlit_first, rfl, fun a => rfl⟩
  case training =>
    intro s l vc lanes sup hs hl
    simp only [exec_replayLimit hs hl, exec_linkDegrade hs hl, exec_linkRetrainDone hs hl]
    refine ⟨fun huse hmany => ?_, fun hfew => ?_, fun huse hlost => ?_, fun hkept => ?_, fun since h => ?_,
      fun since h hheld => ?_, fun h hheld => ?_, fun hvc => ⟨fun hstuck => ?_, fun hmoves => ?_⟩⟩
    · exact congrArg _ (replayLimit_many huse hmany)
    · exact congrArg _ (replayLimit_few hfew)
    · exact congrArg _ (linkDegrade_lost huse hlost)
    · exact congrArg _ (linkDegrade_kept hkept)
    · exact congrArg _ (linkRetrainDone_retraining lanes sup h)
    · exact congrArg _ (linkRetrainDone_held lanes sup h hheld)
    · exact congrArg _ (linkRetrainDone_idle lanes sup h hheld)
    · exact (exec_linkWatchdog hs hl hvc).trans (congrArg _ (linkWatchdog_stuck hs hstuck))
    · exact (exec_linkWatchdog hs hl hvc).trans (congrArg _ (linkWatchdog_moves hmoves))
  case trained =>
    intro s l since lanes
    refine ⟨retrainEnd_unsupported since, fun h => ?_, fun used width h hst => ?_, fun used width h hst => ?_⟩
    · rw [retrainEnd_noLanes since h, reportLanes_eq]; rfl
    · rw [retrainEnd_stage7 since h hst, portTrained,
        getF_reportLanes s l lanes (newdef_key_le_linkWidth l), reportLanes_eq]
      rfl
    · exact retrainEnd_active since h hst
  case lanes => exact fun good cap => by rw [pickLanes, lowestLane_eq]
  case switch =>
    intro s n th hs
    rw [exec_linkSwitchPacket n hs, exec_unreachableNotice th hs]
    exact ⟨fun x h => congrArg _ (switchPacket_some h), fun h => congrArg _ (switchPacket_none h),
      fun hown => congrArg _ (if_pos hown), fun hother => congrArg _ (if_neg hother)⟩
  case route =>
    exact fun s x => ⟨routeSwitch_own_open, routeSwitch_own_shut, routeSwitch_stale,
      fun tbl h he => ⟨fun l => routeSwitch_linked h he, routeSwitch_unlinked h he⟩⟩
  case lost =>
    exact fun s p => ⟨unreachable_notice, unreachable_own, unreachable_told, unreachable_untold, packetLost_move,
      fun v g => packetLost_collective, packetLost_other⟩

end Sys2Proof.Machine
end

/-! PROOFS. The parameter update engine: the gate of the commands that access device memory, the group and store
registers, SCHEDULE_SET, and an update unit that fails its check. -/

section
/-! ## Commands that access device memory, in service -/

namespace Sys2Proof.Machine

theorem memGate_quiet {s : State} (c : Instr) (f : State → State) (hm : memQuiet s = true) :
    memGate c f s = restLayers (f s) := if_pos hm

theorem done_memGate {s : State} (c : Instr) (f : State → State) (hs : ready s = true) (hm : memQuiet s = true) :
    done (inService s (memGate c f)) = .next (restLayers (f s)) := by
  rw [inService_ready _ hs, memGate_quiet c f hm, done_eq]

theorem onUnit_memGate {s : State} {ok : Bool} (c : Instr) (f : State → State) (hok : ok = true) (hs : ready s = true)
    (hm : memQuiet s = true) : onUnit ok (inService s (memGate c f)) = .next (restLayers (f s)) := by
  rw [hok, inService_ready _ hs, memGate_quiet c f hm, onUnit_true]

end Sys2Proof.Machine
end

section
/-! ## The group registers (R187, R188) -/

namespace Sys2Proof.Machine

variable {s : State} (v : BitVec 32)

theorem exec_groupWrite (hs : ready s = true) (hm : memQuiet s = true) :
    exec (.groupWrite v) s = .next (restLayers (groupCmd s v.toNat)) :=
  done_memGate (.groupWrite v) _ hs hm

/-- WRITE and INVALIDATE are bits of one register, so both commands are a write of it. -/
theorem exec_groupInvalidate (hs : ready s = true) (hm : memQuiet s = true) :
    exec (.groupInvalidate v) s = .next (restLayers (groupCmd s v.toNat)) :=
  done_memGate (.groupInvalidate v) _ hs hm

end Sys2Proof.Machine
end

section
/-! ## The program store (R186) -/

namespace Sys2Proof.Machine

/-- Updates are off and no update unit runs (state 2, BUSY). -/
def PstoreOpen (s : State) : Prop := getF s F.UPD_CFG_EN = 0 ∧ ∀ u, u < 72 → getF s (F.UPD_UNIT_STATUS_STATE u) ≠ 2

/-- The state after a word is stored at UPD_PSTORE_ADDR. -/
def pstoreStored (s : State) (v : BitVec 32) : State :=
  setF { s with pstore := sput 0 s.pstore (getF s F.UPD_PSTORE_ADDR_ADDR) v } F.UPD_PSTORE_ADDR_ADDR
    (getF s F.UPD_PSTORE_ADDR_ADDR + 1)

/-- The test of `pstoreWrite`. -/
theorem pstoreOpen_iff (s : State) : PstoreOpen s ↔
    ¬ (getB s F.UPD_CFG_EN || (List.range 72).any (fun u => getF s (F.UPD_UNIT_STATUS_STATE u) == 2)) = true := by
  simp [PstoreOpen, getB]

theorem pstoreWrite_open {s : State} (v : BitVec 32) (h : PstoreOpen s) : pstoreWrite s v.toNat = pstoreStored s v := by
  rw [pstoreWrite, if_neg ((pstoreOpen_iff s).mp h), BitVec.ofNat_toNat, BitVec.setWidth_eq]
  rfl

theorem pstoreWrite_shut {s : State} (v : BitVec 32) (hs : ready s = true) (h : ¬ PstoreOpen s) :
    pstoreWrite s v.toNat = Raised s 0x6005 sevWarn none 0x23 0x500024 0 0 := by
  rw [pstoreWrite, if_pos (Decidable.not_not.mp (mt (pstoreOpen_iff s).mpr h))]
  exact raiseCfg_service (devState_ne_zero_of_ready hs) ..

theorem exec_pstoreWrite {s : State} (v : BitVec 32) (hs : ready s = true) :
    exec (.pstoreWrite v) s = .next (pstoreWrite s v.toNat) := by
  change done (inService s fun s => pstoreWrite s v.toNat) = _
  rw [inService_ready _ hs, done_eq]

end Sys2Proof.Machine
end

section
/-! ## SCHEDULE_SET (R191, R203) -/

namespace Sys2Proof.Machine

section
variable {s : State} {q tag : Nat}

theorem exec_scheduleSet (hs : ready s = true) (hm : memQuiet s = true) (hq : q < 1024) :
    exec (.scheduleSet q tag) s = .next (restLayers (scheduleSet s q tag)) :=
  onUnit_memGate (.scheduleSet q tag) _ (decide_eq_true hq) hs hm

section
variable {o : OpenCmd} (hb : toBegin s q tag 0x41 = some o)
include hb

theorem scheduleSet_refused {t : State} {r : Result} (hc : updChecks s q o.cmd = some (t, r)) :
    scheduleSet s q tag = answer t q tag r 0 := by
  simp only [scheduleSet, hb, hc]

theorem scheduleSet_badFields (hc : updChecks s q o.cmd = none) (hf : schedFields o.cmd = false) :
    scheduleSet s q tag = answer s q tag { status := stInvalid, sub := 0x0601, detail := 0, noSig := true } 0 := by
  simp only [scheduleSet, hb, hc, hf, Bool.not_false, if_true]

/-- What follows the checks that SCHEDULE_SET shares with UPDATE and that of its own fields. -/
theorem scheduleSet_checked (hc : updChecks s q o.cmd = none) (hf : schedFields o.cmd = true) :
    scheduleSet s q tag =
      if foreignCtx s q (cSrcCtx48 o.cmd) = true then deny s q tag
      else if earlierOfGroup s o = true then s
      else if (cNpts o.cmd == 0 && ctxDead s (cSrcCtx48 o.cmd)) = true then ctxFault s q tag
      else schedApply s q tag o.cmd := by
  simp only [scheduleSet, hb, hc, hf, Bool.not_true, Bool.false_eq_true, if_false]

end

section
variable {c : CmdWord} {r : State × VBytes}
  (hr : vreadBytes s (cSrcCtx48 c) (cmdField c 40 8) (8 * cNpts c) .read = r)
include hr

theorem schedApply_failed {f : Result} (hfail : r.2.fail = some f) : schedApply s q tag c = answer r.1 q tag f 0 := by
  simp only [schedApply, hr, hfail]

theorem schedApply_poisoned (hfail : r.2.fail = none) (hp : r.2.poison = true) :
    schedApply s q tag c = answer r.1 q tag (plainResult stUe) 0 := by
  simp only [schedApply, hr, hfail, hp, if_true]

theorem schedApply_badPoints (hfail : r.2.fail = none) (hp : r.2.poison = false)
    (hok : pointsOk (pointsOf r.2.bytes) = false) :
    schedApply s q tag c = answer r.1 q tag (codeResult stInvalid 0x0604) 0 := by
  simp only [schedApply, hr, hfail, hp, hok, Bool.false_eq_true, if_false]

/-- The curve that takes the place of the one selected stands in the table of the engine and in the group's
schedule block. -/
theorem schedApply_set (hfail : r.2.fail = none) (hp : r.2.poison = false)
    (hok : pointsOk (pointsOf r.2.bytes) = true) :
    schedApply s q tag c =
      let pts := pointsOf r.2.bytes
      let g := getGroup r.1 (cGroup c)
      let u := setGroup r.1 (cGroup c) { g with curves := g.curves.set (cCurve c) pts }
      answer (regionPut u (partOf u q) (curveAddr u (cGroup c) (cCurve c)) (pts.map (fun p => p.1 + p.2.toNat * 2 ^ 32)))
        q tag okResult 0 := by
  simp only [schedApply, hr, hfail, hp, hok, Bool.false_eq_true, if_false, if_true]

end
end

end Sys2Proof.Machine
end

section
/-! ## An update unit fails its internal check (R328) -/

namespace Sys2Proof.Machine

variable {s : State} {u : Nat}

theorem exec_updateUnitCheckFail (hs : ready s = true) (hm : memQuiet s = true) (hu : u < 72) :
    exec (.updateUnitCheckFail u) s = .next (restLayers (unitFails s u)) :=
  onUnit_memGate (.updateUnitCheckFail u) _ (decide_eq_true hu) hs hm

theorem unitFails_serving {lc : Nat} (h : (List.range 64).find? (fun lc => unitOfLc s lc == some u) = some lc) :
    unitFails s u = fence s 10 lc 328 := by
  simp only [unitFails, h]

theorem unitFails_spare (h : (List.range 64).find? (fun lc => unitOfLc s lc == some u) = none) : unitFails s u = s := by
  simp only [unitFails, h]

end Sys2Proof.Machine
end

section
/-! ## The statement of groups and curves -/

namespace Sys2Proof.Machine

/-- Settles O39: a write of UPD_GROUP_CMD is `groupCmd`, one of UPD_PSTORE_DATA turns on `PstoreOpen`, a SCHEDULE_SET
goes through its checks in order, and a unit is fenced with the lowest cluster that it serves. -/
theorem groupsAndCurves : Obligations.GroupsAndCurves := by
  unfold Obligations.GroupsAndCurves
  refine ⟨?groups, ?store, ?schedule, ?unit⟩
  case groups =>
    -- The statement spells out `groupCmd` over its parts.
    exact fun s v hs hm => ⟨exec_groupWrite v hs hm, exec_groupInvalidate v hs hm⟩
  case store =>
    intro s v hs
    have hexec := exec_pstoreWrite v hs
    refine ⟨fun hopen => ⟨pstoreStored s v, hexec.trans (congrArg _ (pstoreWrite_open v hopen)), ?_, ?_, ?_, rfl⟩,
      fun hshut => hexec.trans (congrArg _ (pstoreWrite_shut v hs hshut))⟩
    · exact sget_sput_self ..
    · exact fun b hb => sget_sput_ne 0 s.pstore v hb
    · exact getF_setF_self ..
  case schedule =>
    intro s q tag o hs hm hq hb
    have ends {u : State} (h : scheduleSet s q tag = u) : exec (.scheduleSet q tag) s = .next (restLayers u) :=
      h ▸ exec_scheduleSet hs hm hq
    refine ⟨fun t r hc => ends (scheduleSet_refused hb hc), fun hc => ⟨fun hf => ends (scheduleSet_badFields hb hc hf),
      fun hf => ?_⟩⟩
    have hrun := scheduleSet_checked hb hc hf
    refine ⟨fun hforeign => ends (hrun.trans (if_pos hforeign)), fun hown => ?_⟩
    rw [if_neg (Bool.eq_false_iff.mp hown)] at hrun
    refine ⟨fun hwait => ends (hrun.trans (if_pos hwait)), fun hnow hn hdead => ?_, fun hnow hlive => ?_⟩
    · rw [if_neg (Bool.eq_false_iff.mp hnow), if_pos (by simp [hn, hdead])] at hrun
      exact ends hrun
    · have hreads : ¬ (cNpts o.cmd == 0 && ctxDead s (cSrcCtx48 o.cmd)) = true := by
        rcases hlive with hn | hctx
        · simp [hn]
        · simp [hctx]
      rw [if_neg (Bool.eq_false_iff.mp hnow), if_neg hreads] at hrun
      exact ⟨fun f hfail => ends (hrun.trans (schedApply_failed rfl hfail)),
        fun hfail hp => ends (hrun.trans (schedApply_poisoned rfl hfail hp)),
        fun hfail hp => ⟨fun hok => ends (hrun.trans (schedApply_set rfl hfail hp hok)),
          fun hbad => ends (hrun.trans (schedApply_badPoints rfl hfail hp hbad))⟩⟩
  case unit =>
    intro s u hs hm hu
    rw [exec_updateUnitCheckFail hs hm hu]
    exact ⟨fun lc h => by rw [unitFails_serving h], fun h => by rw [unitFails_spare h]⟩

end Sys2Proof.Machine
end
